-- ==== Sys2Proof/Word.lean ====
section
/-! DEFINITION. The word types of the TK7 and sparse tables keyed by a number (spec/00_scope.md R9, R10). -/

namespace Sys2Proof

abbrev Byte := BitVec 8
abbrev W16 := BitVec 16
abbrev W32 := BitVec 32
abbrev W64 := BitVec 64
abbrev W128 := BitVec 128
abbrev W256 := BitVec 256
abbrev W512 := BitVec 512

/-- A 32-bit object handle (02 R57). -/
abbrev Handle := BitVec 32

/-- A sparse table: keys strictly rising, one value for each listed key. -/
abbrev Tab (α : Type) := List (Nat × α)

end Sys2Proof
end

