-- ==== Sys2Proof/Syntax.lean ====
section
/-! DEFINITION. The commands and events of the TK7: one constructor of `Instr` for each row of spec/opcode_table.json,
in the table's order. The table gives the rows no bits; the operands are what the row's rule needs from outside. -/

namespace Sys2Proof

/-- Sub-engine queues of a cluster (07 R238). -/
inductive SubQueue where
  | pe | vec | dma
  deriving DecidableEq, Repr

/-- Operations of the vector unit (08 R265). -/
inductive VecOp where
  | add | sub | mul | fma | min | max | recip | rsqrt | exp2 | log2 | cmpEq | cmpNe | cmpLt | cmpLe
  | addInt | subInt | mulInt | minInt | maxInt
  deriving DecidableEq, Repr

/-- What a control word of a program body does, in the terms that 07 R236 to R248 and 08 R259 to R275 use; its code is private
(00 R21). A word that yields values shows them to the words after it. -/
inductive BodyOp where
  | illegal
  | scratchRead (off len : Nat)
  | scratchWrite (off : Nat) (bytes : List Byte)
  | argRead (arg off len : Nat)
  | argWrite (arg off : Nat) (bytes : List Byte)
  | push (queue : SubQueue)
  | drain (queue : SubQueue) (entries : Nat)
  | occupancies
  /-- a MAC step of one accumulator: element codes and block scales of the two operands, pairs of encodings -/
  | mac (ta sa tb sb acc : Nat) (pairs : List (Nat × Nat))
  | setAcc (acc : Nat) (value : W32)
  | readAcc (acc : Nat)
  | vector (op : VecOp) (a b c : W32)
  | widen (t scale w : Nat)
  /-- output conversion of an FP32 value; `e5inf` and `stoch` are what the word selects -/
  | convert (t : Nat) (e5inf stoch : Bool) (value : W32)
  | narrow (t : Nat) (value : W32)
  /-- an FP4 block of FP32 values with a FIXED scale, or AUTO (none) -/
  | fp4Block (scale : Option Nat) (values : List W32)
  | setSlot (slot : Nat) (value : W64)
  | readFlags
  | setSp (value : W32)
  | loopEnter
  | loopLeave
  | yieldPoint
  deriving DecidableEq, Repr

/-- How many control words clusters of a launch ran since the last event that told of it: number in the launch (8 × team index +
number in the team) and count. Words after the end of the body do nothing. -/
structure BodyRun where
  words : List (Nat × Nat)
  deriving DecidableEq, Repr

def BodyRun.none : BodyRun := { words := [] }

/-- Contribution of one member of a collective, by rank (11 R353). -/
structure Contribution where
  rank : Nat
  data : List Byte
  deriving DecidableEq, Repr

/-- How far a command of queue `q`, sequence number `seq`, had come when it stopped (06 R198), or when a window of its tenant was
cleared (10 R329): `done` destination bytes of
a GROOM or OUTRIDE, `done` elements folded of a REDUCE_TO_SCALAR, or the body's run. `data` are the bytes that an OUTRIDE had read
from host memory or received from another chip, and `parts` the contributions of a collective that had arrived. -/
structure Stop where
  q : Nat
  seq : Nat
  done : Nat
  run : BodyRun
  data : List Byte
  parts : List Contribution
  deriving DecidableEq, Repr

/-- A control word that no accepted container holds: only a defect brings it about (07 R232). -/
inductive BadWord where
  | illegal
  | scratch (off len : Nat)
  | push (queue : SubQueue)
  deriving DecidableEq, Repr

/-- A control core of a launch meets such a word at byte `bodyOff` of the body; `cluster` is 8 × team index + number in the team,
`cycle` orders the cores of one event (07 R248). -/
structure CoreHalt where
  cluster : Nat
  cycle : Nat
  bodyOff : W32
  word : BadWord
  deriving DecidableEq, Repr

/-- A cluster of a launch (8 × team index + number in the team) runs past its yield spacing at byte `bodyOff` of the body (07 R241). -/
structure LateYield where
  cluster : Nat
  bodyOff : W32
  deriving DecidableEq, Repr

/-- A write of VALID 0 to a window, with how far the running work of its tenant had come (10 R329). -/
structure WindowClear where
  control : W64
  stops : List Stop
  deriving DecidableEq, Repr

/-- Where an uncorrectable error is found: the rows of the table of 10 R324, numbered from 0 (13 R387). -/
inductive ErrLoc where
  | hbmObject (addr : Nat)
  | programImage (mem : Nat) (line : Nat)
  | descriptorPage (tenant index : Nat)
  | scratch (logical off : Nat)
  | staging (part : Nat)
  | requestEntry (fn slot : Nat)
  | hbmRequest (addr : Nat)
  | contextState (ctx : Nat)
  | logbook (q seq : Nat)
  | farrierData (core : Nat)
  | spareImage (addr : Nat)
  deriving DecidableEq, Repr

/-- Where a correctable error is found (10 R323, R326). `noSpare`: the bank or channel has no spare row or column left. -/
inductive CeLoc where
  | hbm (stack channel row : Nat)
  | scratch (logical bank row col : Nat)
  | staging (bank row col : Nat)
  | control (bank row col : Nat)
  deriving DecidableEq, Repr

/-- What the patrol scrubber finds in a line or word (10 R325); `stop` is the launch or engine command that holds it. -/
inductive ScrubResult where
  | clean
  | correctable (loc : CeLoc) (noSpare : Bool)
  | uncorrectable (loc : ErrLoc) (stop : Option Stop)
  deriving DecidableEq, Repr

/-- The record rings whose CONS the device rereads (04 R132). -/
inductive RingId where
  | completion (q : Nat)
  | notice (t : Nat)
  | error (t : Nat)
  | trace (t : Nat)
  | global
  deriving DecidableEq, Repr

/-- What bring-up training and self-test found (14 R421, R422), and what the round trip of step 8 measured, LINK_DELAY_NS and OFFSET_NS,
where the chip has a source for its set (11 R357 to R359). -/
structure BringupTest where
  failedClusters : List Nat
  failedChannels : List (Nat × Nat)
  sramExhausted : Bool
  delay : Int
  offset : Int
  deriving DecidableEq, Repr

/-- What a new image finds in the handover record beyond what the model's state decides (14 R436): HCHECK matches, the image knows every
SVERSION, counts lie within its limits, sections agree with one another and the hardware, and it is in time. -/
structure HandoverEvidence where
  checkOk : Bool
  sectionsOk : Bool
  countsOk : Bool
  consistent : Bool
  inTime : Bool
  deriving DecidableEq, Repr

/-- A routed frame at a hop (11 R345), on channel RSP or REQ (11 R333). -/
structure Frame where
  rsp : Bool
  slice : W16
  tenant : Nat
  dest : Nat
  deriving DecidableEq, Repr

/-- A request of another chip (11 R350): read or write `length` bytes at `off` of the token's object. -/
structure RemoteReq where
  token : W32
  tenant : Nat
  slice : W16
  srcChip : Nat
  isWrite : Bool
  off : Nat
  length : Nat
  data : List Byte
  deriving DecidableEq, Repr

/-- The answer of a target chip to the issuer of a remote OUTRIDE (11 R350, R351). -/
inductive RemoteReply where
  | none
  | done (data : List Byte)
  | faultHandle
  | faultWindow (reason : Nat)
  | poisoned (line : Nat)
  | degraded
  | retry
  deriving DecidableEq, Repr

/-- Signature by which collectives match across chips (11 R352). -/
structure Signature where
  row0 : Nat
  col0 : Nat
  h : Nat
  w : Nat
  rootRow : Nat
  rootCol : Nat
  oop : Nat
  redop : Nat
  etype : Nat
  len : Nat
  deriving DecidableEq, Repr

/-- A member of a collective has started: its rank, tenant and signature, and the order of this collective among those of the
signature on that chip (11 R352). -/
structure MemberStart where
  rank : Nat
  tenant : Nat
  sig : Signature
  order : Nat
  deriving DecidableEq, Repr

/-- A command whose collective is matched, and the member starts that reached this chip (11 R352). -/
structure MatchSeen where
  seq : Nat
  starts : List MemberStart
  deriving DecidableEq, Repr

/-- A frame whose CRC is bad: its sequence number and the lane that failed (11 R333, R334). -/
structure BadFrame where
  seqNo : Nat
  lane : Nat
  deriving DecidableEq, Repr

/-- What Halter saw (12 R378, 17 R488). -/
inductive HaltLine where
  /-- the change to `level` was first sampled at clock time `at_` -/
  | watch (entry : Nat) (level : Bool) (at_ : Nat)
  | clkreq
  | perst
  deriving DecidableEq, Repr

/-- A wake of Halter with the pin sources whose sampled level is 1 (12 R379). -/
structure HaltWake where
  line : HaltLine
  levels : List Nat
  deriving DecidableEq, Repr

/-- Wake events of 17 R486. The rows that wake carry the pin sources whose sampled level is 1 (12 R379). -/
inductive Wake where
  | hostTlp | doorbell | ungate | latchedEdge | halter
  deriving DecidableEq, Repr

/-- Capabilities (03 R93). -/
inductive Capability where
  | advancedErrorReporting | ari | sriov | msix | resizableBar | vfResizableBar | aspmL1 | l1PmSubstates | latencyToleranceReporting
  deriving DecidableEq, Repr

/-- Registers of a function's configuration space that 03 R91 to R101 speak of, by what they hold; their offsets are PCIe's. `bar i` is the
i-th BAR, `vfBar i` the i-th VF BAR of PF0's SR-IOV capability, `aer o` the register at offset o of the Advanced Error Reporting
capability. -/
inductive CfgReg where
  | vendorDevice
  | classCode
  | subsystem
  | memorySpaceEnable
  | msixEnable
  | functionMask
  | deviceControl
  | tagBits
  | bar (i : Nat)
  | vfBar (i : Nat)
  | aspmL12
  | ltrEnable
  | ariHierarchy
  | initialVfs
  | totalVfs
  | numVfs
  | vfEnable
  | vfOffset
  | vfStride
  | aer (off : Nat)
  deriving DecidableEq, Repr

/-- What a host read reaches: `width` bytes of BAR0, a configuration register, or the list of capabilities. -/
inductive ReadTarget where
  | bar0 (off width : Nat)
  | config (reg : CfgReg)
  | capabilities
  deriving DecidableEq, Repr

/-- What a register write reaches: `width` bytes of BAR0, a configuration register, or a core field of RN_, which Farrier writes
(12 R381). `level` is the synchronised level of the pin source whose RN_SRC_CFG is written (12 R365). -/
inductive RegTarget where
  | bar0 (off width : Nat) (level : Bool)
  | config (reg : CfgReg)
  | coreFields (src : Nat)
  | coreControl (core : Nat)
  deriving DecidableEq, Repr

/-- Classes 0x10 to 0x15 of 13 R383. -/
inductive RecClass where
  | cluster | scratchUe | stagingUe | link | firmware | resetHit
  deriving DecidableEq, Repr

inductive Instr where
  | doorbell (fn slot : Nat) (value : W32)
  | bar2Read (fn off len : Nat)
  | bar2Write (fn off : Nat) (data : List Byte)
  | lowHalfRead (fn : Nat) (target : ReadTarget)
  | registerWrite (fn : Nat) (target : RegTarget) (value : W64)
  | windowSetValid (tenant win : Nat) (control : W64)
  | windowFillDone (tenant win : Nat)
  | windowClearValid (tenant win : Nat) (clear : WindowClear)
  | requestTailWrite (fn : Nat) (value : W32)
  | responseHeadWrite (fn : Nat) (value : W32)
  | undefinedRequest (fn : Nat)
  | negotiate (fn : Nat)
  | createContext (fn : Nat)
  | createQueue (fn : Nat)
  | createMemory (fn : Nat)
  | createHitch (fn : Nat)
  | createEvent (fn : Nat)
  | armEvent (fn : Nat)
  | loadProgram (fn : Nat)
  | setBeat (fn : Nat)
  | setNoticeRing (fn : Nat)
  | setErrorRing (fn : Nat)
  | setQuota (fn : Nat)
  | createDescriptors (fn : Nat)
  | destroyDescriptors (fn : Nat)
  | exportObject (fn : Nat)
  | revokeToken (fn : Nat)
  | bindSource (fn : Nat)
  | setSourceVector (fn : Nat)
  | setCounter (fn : Nat)
  | readCounters (fn : Nat)
  | freezeRequest (fn : Nat)
  | setTraceBuffer (fn : Nat)
  | audit (fn : Nat)
  | resetQueue (fn : Nat) (stops : List Stop)
  | resetContext (fn : Nat) (stops : List Stop)
  | resumeContext (fn : Nat)
  | resetCluster (fn : Nat) (passes readable : Bool) (run : BodyRun)
  | resetEngine (fn : Nat) (done : Nat)
  | resetTenant (fn : Nat) (stops : List Stop)
  | getWalk (fn : Nat)
  | exitWalk (fn : Nat)
  | fwStage (fn : Nat)
  | fwActivate (fn : Nat)
  | fwLoadComplete
  | handoverValidation (ev : HandoverEvidence)
  | fwStatus (fn : Nat)
  | fwSetBoot (fn : Nat)
  | setLimits (fn : Nat)
  | retireCluster (fn : Nat)
  | retireChannel (fn : Nat)
  | setBeatDomain (fn : Nat)
  | getBeatDomain (fn : Nat)
  | setCablingPlan (fn : Nat)
  | getPortReport (fn : Nat)
  | setRoute (fn : Nat)
  | rediscover (fn : Nat)
  | packetFetch (q : Nat)
  | undefinedOpcode (q : Nat)
  | nop (q : Nat)
  | tag (q : Nat)
  | query (q : Nat)
  | launchProgram (q : Nat)
  | launchList (q : Nat)
  | replayList (q : Nat)
  | waitHitch (q : Nat)
  | waitSlotObtained (q : Nat)
  | waitTimeout (q : Nat)
  | signalHitch (q : Nat)
  | groom (q : Nat)
  | outride (q : Nat)
  | scalarOp (q : Nat)
  | reduceToScalar (q : Nat)
  | branch (q : Nat)
  | loopBegin (q : Nat)
  | loopEnd (q : Nat)
  | beatMark (q : Nat)
  | freeze (q : Nat)
  | retain (q : Nat)
  | release (q : Nat)
  | debugBreakOn (q : Nat)
  | debugBisect (q : Nat)
  | launchComplete (q seq : Nat) (run : BodyRun)
  | groomComplete (q seq : Nat)
  | outrideComplete (q seq : Nat) (hostData : List Byte) (reply : RemoteReply) (parts : List Contribution)
  | reduceComplete (q seq : Nat)
  | commandRetire (q : Nat)
  | commitPoint (q : Nat)
  | discardedWorkStop (stop : Stop)
  | recordHeldWrite (q : Nat)
  | consReread (ring : RingId)
  | noticePost (tenant : Nat)
  | commandAged (q seq : Nat)
  | preemptionPoint (stop : Stop)
  | preemptedResume (q seq : Nat)
  | controlCoreException (q seq : Nat) (halts : List CoreHalt) (run : BodyRun)
  | yieldSpacingExceeded (q seq : Nat) (late : LateYield) (run : BodyRun)
  | trapRaised (q seq : Nat) (run : BodyRun)
  | recoverableFault (stop : Stop) (cls : RecClass) (info : W64) (carriedLost published : Bool)
  | replayStart (q seq : Nat)
  | clusterFault (logical : Nat) (readable : Bool) (run : BodyRun)
  | mapInComplete (logical : Nat) (failedSpares : List Nat)
  | uncorrectableError (loc : ErrLoc) (hit : Option Stop)
  | correctableError (loc : CeLoc) (noSpare : Bool)
  | patrolScrub (found : ScrubResult)
  | channelMigrationDone (stack channel : Nat)
  | backgroundFill
  | governorCauseClear
  | linkDown (lost : List Stop)
  | linkHotReset
  | perstNAssert
  | perstNDeassert
  | bringupEnd (test : BringupTest)
  | pwrGoodRise (straps : Nat)
  | pwrGoodFall
  | vfEnableClear (stops : List Stop)
  | vfFlr (fn : Nat) (stops : List Stop)
  | governorSample (tj power : Nat)
  | governorStepUp
  | governorHoldFail
  | thermalShutdown
  | thermAlertN (low : Bool)
  | regulatorFault
  | watchdogExpiry (core : Nat) (hit : Option Stop) (ev : HandoverEvidence)
  | beatBoundary (domain : Nat)
  | beatOutPulseEnd
  | beatSyncEdge (t : Nat)
  | freeRun (domain : Nat)
  | filterAccept (src : Nat) (level : Bool) (t : Nat)
  | sourceEvent (src : Nat)
  | rnSrcCfgWrite (src : Nat) (value : W64) (level : Bool)
  | rnGroupOwnerWrite (group : Nat) (value : W32)
  | coreDelivery (src : Nat)
  | coreEoi (core src : Nat)
  | msiXMessage (fn vector : Nat)
  | vectorUnmask (fn vector : Nat)
  | rnHostEoi (src : Nat)
  | asyncEdgeLatch (src : Nat) (t : Nat)
  | halterWake (wake : HaltWake)
  | idleEntry
  | dozeEntry
  | haltEntry
  | wakeEvent (w : Wake) (levels : List Nat)
  | freezeLatch
  | freezeOutPulseEnd
  | freezeRelease
  | cntGroupWrite (group : Nat) (value : W32)
  | freezeBroadcastFrame (port : Nat) (tf : Nat) (id : W16) (slice : W16)
  | helloSend (port : Nat)
  | helloReceive (port : Nat) (payload : W256)
  | portTrained (port : Nat)
  | portMissing (port : Nat)
  | trainingRetry (port : Nat)
  | signalLoss (port : Nat)
  | discoveryComplete
  | laneFailure (port : Nat)
  | frameCrcError (port : Nat) (frame : BadFrame)
  | frameHop (port : Nat) (frame : Frame)
  | remoteRequest (req : RemoteReq)
  | remoteRetry (q seq : Nat)
  | remoteNoAnswer (stop : Stop)
  | collectiveMatch (q : Nat) (seen : MatchSeen)
  | timeFrameSend (port : Nat)
  /-- the parent's 10 µs frame, or a child's request, which carries nothing (11 R357); a reply is the row ROUND_TRIP -/
  | timeFrameReceive (port : Nat) (request : Bool) (carried hops : Nat) (aligned : Bool)
  /-- a reply with all four stamps; t1 and t4 are this chip's own (11 R357) -/
  | roundTrip (port : Nat) (t1 t2 t3 t4 : Nat)
  | smbusDevState
  | smbusTjC
  | smbusPowerW
  | smbusResetCause
  | smbusBoard
  | smbusOtherCommand (code : Nat)
  | linkUp (speed width : Nat) (flit : Bool)
  | vfEnableSet (numVfs : Nat)
  | bar2SizeWrite (fn log2 : Nat)
  | channelStopsAnswering (stack channel : Nat)
  | vddAonRise
  | vddAonFall
  deriving DecidableEq, Repr

end Sys2Proof
end

