-- ==== Sys2Proof/Decode.lean ====
section
/-! DEFINITION. The block has no instruction decoder, and spec/opcode_table.json gives its rows no bits: no word spells a command. -/

namespace Sys2Proof

/-- The command that a word spells by the table's bits: none, for every row. -/
def decodeTableWord (_nbits _w : Nat) : Option Instr := none

end Sys2Proof
end

