-- ==== Sys2Proof/Config.lean ====
section
/-! DEFINITION. What one implementation fixes and the spec leaves open: opaque constants, no value of which can be proved.
Each is applied to `State.free`, a counter of the model, or to the data it depends on (notes/assumptions/6.md). -/

namespace Sys2Proof

/-- An open choice among several permitted outcomes (which free engine, which legal placement); DESIGN CHOICE, log 6. -/
opaque Config.freeNat : Nat → Nat

/-- A byte the spec calls unspecified (06 R220: shadow bytes that discarded work wrote); DESIGN CHOICE, log 6. -/
opaque Config.freeByte : Nat → Nat → Byte

/-- Whether a container breaks the body property of a rejection code 0x201 to 0x20B: the format of bodies is private (00 R21, 07 R222,
R231). It depends on the container's bytes only, of which CVERSION is a part (07 R230). Log 7. -/
opaque Config.bodyBreaks : List Byte → Nat → Bool

/-- The next control word of a container's body, with its byte offset in the body, or none at its end, in the instance of a team
index and a number in the team: from the launch's arguments (KIND and value), the SLOT_IN values and the values that the words
before it yielded, newest first (07 R236, R237, 08 R266). Log 7. -/
opaque Config.bodyWord : List Byte → Nat → Nat → List (Nat × Nat) → List (Nat × W64) → List (List Nat) → Option (BodyOp × W32)

/-- The generator of stochastic rounding, whose algorithm belongs to the container version (08 R269): its state from the launch's
seed, the team index and the number in the team; a 16-bit number and the state after it. Log 7. -/
opaque Config.rngSeed : W32 → Nat → Nat → Nat → Nat
opaque Config.rngDraw : W32 → Nat → BitVec 16 × Nat

/-- Which neighbour of an inexact result EXP2 (0) and LOG2 (1) give, within 1 ULP (08 R265): the one of larger magnitude. Log 7. -/
opaque Config.ulpLarger : Nat → W32 → Bool

/-- HBYTES and HCHECK of a handover record, and SVERSION, OFFSET and LENGTH of its section of a STYPE, from HVERSION, GAIT and REQ_COUNT: the section
formats are not described (14 R435). Log 92. -/
opaque Config.recordBytes : Nat → Nat → W32 → W32 × W32
opaque Config.recordSection : Nat → Nat → W32 → Nat → W16 × W32 × W32

/-- Whether SIG verifies against the fused key digest (14 R416); the key is not in the spec. Log 8. -/
opaque Config.sigVerifies : List Byte → Bool

end Sys2Proof
end

