-- ==== Sys2Proof/Machine/Tab.lean ====
section
/-! DEFINITION. Sparse tables, canonical byte memories, little-endian numbers, bit fields and CRC-32C
(spec/00_scope.md R9, R10; 07 R222). -/

namespace Sys2Proof.Machine

/-- The entry at key `k`. -/
def tget {α : Type} : Tab α → Nat → Option α
  | [], _ => none
  | (i, v) :: t, k => if i == k then some v else tget t k

/-- The table with `v` at key `k`; keys stay strictly rising. -/
def tset {α : Type} : Tab α → Nat → α → Tab α
  | [], k, v => [(k, v)]
  | (i, w) :: t, k, v => if k < i then (k, v) :: (i, w) :: t else if i == k then (k, v) :: t else (i, w) :: tset t k v

/-- The table without an entry at key `k`. -/
def terase {α : Type} (t : Tab α) (k : Nat) : Tab α := t.filter (fun p => !(p.1 == k))

/-- The ascending list with `k` in it. -/
def insertNat : List Nat → Nat → List Nat
  | [], k => [k]
  | i :: t, k => if k < i then k :: i :: t else if i == k then i :: t else i :: insertNat t k

/-- The list without `k`. -/
def removeNat (l : List Nat) (k : Nat) : List Nat := l.filter (fun i => !(i == k))

/-! ### Bytes by address -/

/-- What an address reads as: the listed byte, or 0 (log 4). -/
def readByte (m : List Host.Cell) (a : Nat) : Byte := (tget m a).getD 0

/-- A memory with byte `b` at `a`, in canonical form: the byte 0 is never listed. -/
def writeByte (m : List Host.Cell) (a : Nat) (b : Byte) : List Host.Cell := if b == 0 then terase m a else tset m a b

def readBytes (m : List Host.Cell) (a n : Nat) : List Byte := (List.range n).map (fun i => readByte m (a + i))

def writeBytes (m : List Host.Cell) (a : Nat) : List Byte → List Host.Cell
  | [] => m
  | b :: bs => writeBytes (writeByte m a b) (a + 1) bs

/-- The memory with every byte of [lo, hi) zero. -/
def clearRange (m : List Host.Cell) (lo hi : Nat) : List Host.Cell := m.filter (fun c => c.1 < lo || hi ≤ c.1)

/-- Addresses strictly rising, and no entry equal to what an unlisted address reads as. -/
def memWf : List Host.Cell → Bool
  | [] => true
  | [(_, b)] => b != 0
  | (a, b) :: (c, d) :: t => b != 0 && a < c && memWf ((c, d) :: t)

/-- Little-endian number of a byte list (00 R10). -/
def leNat : List Byte → Nat
  | [] => 0
  | b :: bs => b.toNat + 256 * leNat bs

/-- The `k` little-endian bytes of `n` (00 R10). -/
def toLe : Nat → Nat → List Byte
  | 0, _ => []
  | k + 1, n => BitVec.ofNat 8 n :: toLe k (n / 256)

/-- NAME[high:low] of a number (00 R9). -/
def bits (n hi lo : Nat) : Nat := (n >>> lo) % 2 ^ (hi + 1 - lo)

/-- NAME[i] of a number. -/
def bit (n i : Nat) : Bool := (n >>> i) % 2 == 1

/-- `v` placed at bit `lo` in a field of `w` bits. -/
def field (v lo w : Nat) : Nat := (v % 2 ^ w) <<< lo

def boolNat (b : Bool) : Nat := if b then 1 else 0

/-- Addition that saturates at `max`. -/
def satAdd (a b max : Nat) : Nat := if a + b ≤ max then a + b else max

def ceilDiv (a b : Nat) : Nat := (a + b - 1) / b

/-! ### CRC-32C, Castagnoli polynomial, reflected, initial value and final inversion all ones -/

def crcBit (c : Nat) : Nat := if c % 2 == 1 then (c >>> 1) ^^^ 0x82F63B78 else c >>> 1

def crcByte (c : Nat) (b : Byte) : Nat :=
  crcBit (crcBit (crcBit (crcBit (crcBit (crcBit (crcBit (crcBit (c ^^^ b.toNat))))))))

/-- CRC-32C of a byte list (07 R222, 11 R340, 14 R415, 17 R495). -/
def crc32c (bs : List Byte) : Nat := (bs.foldl crcByte 0xFFFFFFFF) ^^^ 0xFFFFFFFF

/-- The bytes with [lo, lo + n) taken as 0, as a check field is. -/
def zeroAt (bs : List Byte) (lo n : Nat) : List Byte :=
  bs.take lo ++ List.replicate (min n (bs.length - lo)) 0 ++ bs.drop (lo + n)

/-- Bytes [off, off + n) of a list, as a little-endian number. -/
def leAt (bs : List Byte) (off n : Nat) : Nat := leNat ((bs.drop off).take n)

/-- Every byte of [off, off + n) is 0. -/
def zerosAt (bs : List Byte) (off n : Nat) : Bool := ((bs.drop off).take n).all (fun b => b == 0)

end Sys2Proof.Machine
end

