-- ==== Sys2Proof/Machine/Flags.lean ====
section
/-! DEFINITION. Number formats, FP32 arithmetic, output conversion and every numeric flag computation (08 R258 to R275, 05 R171). -/

namespace Sys2Proof.Machine

/-- NFLAGS bits (08 R271). -/
def flInvalid : BitVec 5 := 16
def flOverflow : BitVec 5 := 8
def flUnderflow : BitVec 5 := 4
def flInexact : BitVec 5 := 2
def flSat : BitVec 5 := 1

/-- A float format (08 R258): exponent and mantissa bits, bias, whether exponent all ones holds infinity and NaN, and the
canonical NaN. -/
structure Fmt where
  ebits : Nat
  mbits : Nat
  bias : Nat
  ieee : Bool
  nan : Nat
  deriving DecidableEq, Repr

def fmtFp32 : Fmt := { ebits := 8, mbits := 23, bias := 127, ieee := true, nan := 0x7FC00000 }
def fmtBf16 : Fmt := { ebits := 8, mbits := 7, bias := 127, ieee := true, nan := 0x7FC0 }
def fmtFp16 : Fmt := { ebits := 5, mbits := 10, bias := 15, ieee := true, nan := 0x7E00 }
def fmtE4m3 : Fmt := { ebits := 4, mbits := 3, bias := 7, ieee := false, nan := 0x7F }
def fmtE5m2 : Fmt := { ebits := 5, mbits := 2, bias := 15, ieee := true, nan := 0x7E }
def fmtE2m1 : Fmt := { ebits := 2, mbits := 1, bias := 1, ieee := false, nan := 0 }

/-- A float value: NaN, an infinity, or (-1)^s × m × 2^e. -/
inductive Fv where
  | nan
  | inf (s : Bool)
  | fin (s : Bool) (m : Nat) (e : Int)
  deriving DecidableEq, Repr

def pow2 (n : Nat) : Nat := 2 ^ n

/-- The value that `w` encodes in format `f` (08 R258). E4M3 has the one NaN pattern, E2M1 has none. -/
def fdecode (f : Fmt) (w : Nat) : Fv :=
  let s := bit w (f.ebits + f.mbits)
  let e := bits w (f.ebits + f.mbits - 1) f.mbits
  let m := w % pow2 f.mbits
  if f.ieee && e + 1 == pow2 f.ebits then (if m == 0 then .inf s else .nan)
  else if f.nan == 0x7F && w % 128 == 0x7F then .nan
  else if e == 0 then .fin s m (1 - (f.bias : Int) - f.mbits)
  else .fin s (m + pow2 f.mbits) ((e : Int) - f.bias - f.mbits)

/-- The largest finite magnitude's encoding. -/
def fmaxEnc (f : Fmt) : Nat :=
  if f.ieee then (pow2 f.ebits - 2) * pow2 f.mbits + (pow2 f.mbits - 1)
  else if f.nan == 0x7F then 0x7E else pow2 (f.ebits + f.mbits) - 1

def signBit (f : Fmt) (s : Bool) : Nat := if s then pow2 (f.ebits + f.mbits) else 0

/-- How a value that is not representable is rounded: to nearest even, stochastically with the number R (08 R267, R268), or to the
neighbour that an implementation takes where 1 ULP is allowed (08 R265 EXP2, LOG2): of larger magnitude or not. -/
inductive Rnd where
  | nearest
  | stochastic (r : Nat)
  | neighbour (larger : Bool)
  deriving DecidableEq, Repr

/-- `m × 2^e` cut to `prec` bits with no unit below 2^lo: kept integer, its exponent, whether bits were lost. -/
def roundMag (prec : Nat) (lo : Int) (rnd : Rnd) (m : Nat) (e : Int) : Nat × Int × Bool :=
  if m == 0 then (0, lo, false) else
  let t := max (e + (Nat.log2 m + 1 : Nat) - (prec : Int)) lo
  if t ≤ e then (m * pow2 (e - t).toNat, t, false) else
  let k := (t - e).toNat
  let q := m / pow2 k
  let r := m % pow2 k
  if r == 0 then (q, t, false) else
  match rnd with
  | .nearest => (if 2 * r > pow2 k || (2 * r == pow2 k && q % 2 == 1) then q + 1 else q, t, true)
  | .stochastic n => (if n < r * 65536 / pow2 k then q + 1 else q, t, true)
  | .neighbour up => (if up then q + 1 else q, t, true)

/-- The unsigned encoding of `q × 2^t` at the format's precision; above the largest finite encoding on overflow. -/
def fencode (f : Fmt) (q : Nat) (t : Int) : Nat :=
  if q < pow2 f.mbits then q
  else (((t + f.mbits + f.bias).toNat - 1) * pow2 f.mbits) + q

/-- Whether m × 2^e is below the smallest normal magnitude (08 R271 UNDERFLOW). -/
def belowNormal (f : Fmt) (m : Nat) (e : Int) : Bool :=
  m != 0 && e + (Nat.log2 m + 1 : Nat) ≤ 1 - (f.bias : Int)

/-- Conversion to a float output format with the E5M2 overflow choice (08 R270, R271): encoding and flags. -/
def fconvert (f : Fmt) (e5inf : Bool) (rnd : Rnd) : Fv → Nat × BitVec 5
  | .nan => (f.nan, if f.nan == 0 then flInvalid else 0)
  | .inf s =>
    if f.ieee && (f.nan != 0x7E || e5inf) then (signBit f s + (pow2 f.ebits - 1) * pow2 f.mbits, 0)
    else (signBit f s + fmaxEnc f, flSat)
  | .fin s m e =>
    let r := roundMag (f.mbits + 1) (1 - (f.bias : Int) - f.mbits) rnd m e
    let enc := fencode f r.1 r.2.1
    if enc > fmaxEnc f then
      if f.ieee && (f.nan != 0x7E || e5inf) then (signBit f s + (pow2 f.ebits - 1) * pow2 f.mbits, flOverflow ||| flInexact)
      else (signBit f s + fmaxEnc f, flSat ||| flInexact)
    else (signBit f s + enc, (if r.2.2 then flInexact else 0) ||| (if r.2.2 && belowNormal f m e then flUnderflow else 0))

/-- FP32 result of an exact value. -/
def toFp32 (v : Fv) : Nat × BitVec 5 := fconvert fmtFp32 true .nearest v

def signedOf (s : Bool) (m : Nat) : Int := if s then -(m : Int) else m

/-- The exact sum of two finite values; equal magnitudes of opposite sign give +0, and (-0) + (-0) is -0 (08 R265). -/
def addFin (s1 : Bool) (m1 : Nat) (e1 : Int) (s2 : Bool) (m2 : Nat) (e2 : Int) : Fv :=
  let e := min e1 e2
  let v := signedOf s1 m1 * pow2 (e1 - e).toNat + signedOf s2 m2 * pow2 (e2 - e).toNat
  if v == 0 then .fin (s1 && s2 && m1 == 0 && m2 == 0) 0 e else .fin (v < 0) v.natAbs e

/-- Exact sum before rounding; infinity minus infinity is a NaN that raises INVALID. -/
def faddX : Fv → Fv → Fv × BitVec 5
  | .nan, _ => (.nan, 0)
  | _, .nan => (.nan, 0)
  | .inf a, .inf b => if a == b then (.inf a, 0) else (.nan, flInvalid)
  | .inf a, .fin _ _ _ => (.inf a, 0)
  | .fin _ _ _, .inf b => (.inf b, 0)
  | .fin a m e, .fin b n g => (addFin a m e b n g, 0)

/-- Exact product before rounding; 0 × infinity is a NaN that raises INVALID. -/
def fmulX : Fv → Fv → Fv × BitVec 5
  | .nan, _ => (.nan, 0)
  | _, .nan => (.nan, 0)
  | .inf a, .inf b => (.inf (a != b), 0)
  | .inf a, .fin b n _ => if n == 0 then (.nan, flInvalid) else (.inf (a != b), 0)
  | .fin a m _, .inf b => if m == 0 then (.nan, flInvalid) else (.inf (a != b), 0)
  | .fin a m e, .fin b n g => (.fin (a != b) (m * n) (e + g), 0)

def fp32 (w : Nat) : Fv := fdecode fmtFp32 (w % pow2 32)

/-- One rounding of an exact result (08 R265). -/
def round32 (x : Fv × BitVec 5) : Nat × BitVec 5 := let r := toFp32 x.1; (r.1, x.2 ||| r.2)

def fadd (a b : Nat) : Nat × BitVec 5 := round32 (faddX (fp32 a) (fp32 b))
def fmul (a b : Nat) : Nat × BitVec 5 := round32 (fmulX (fp32 a) (fp32 b))
def fneg (a : Nat) : Nat := if fp32 a == .nan then 0x7FC00000 else (a ^^^ 0x80000000)
def fsub (a b : Nat) : Nat × BitVec 5 := fadd a (fneg b)

/-- a × b + c with one rounding; a NaN operand gives the canonical NaN and no flag (08 R259, R271). -/
def ffma (a b c : Nat) : Nat × BitVec 5 :=
  if fp32 a == .nan || fp32 b == .nan || fp32 c == .nan then (0x7FC00000, 0) else
  let p := fmulX (fp32 a) (fp32 b)
  let r := faddX p.1 (fp32 c)
  round32 (r.1, p.2 ||| r.2)

/-- Order of two values that are not NaN; -0 and +0 are equal. -/
def fltX : Fv → Fv → Bool
  | .nan, _ => false
  | _, .nan => false
  | .inf a, .inf b => a && !b
  | .inf a, .fin _ _ _ => a
  | .fin _ _ _, .inf b => !b
  | .fin a m e, .fin b n g =>
    let k := min e g
    signedOf a m * pow2 (e - k).toNat < signedOf b n * pow2 (g - k).toNat

def feqX (a b : Fv) : Bool := a != .nan && b != .nan && !fltX a b && !fltX b a

/-- CMP (08 R265): every comparison with NaN is false except NE. -/
def fcmpEq (a b : Nat) : Bool := feqX (fp32 a) (fp32 b)
def fcmpNe (a b : Nat) : Bool := !fcmpEq a b
def fcmpLt (a b : Nat) : Bool := fltX (fp32 a) (fp32 b)
def fcmpLe (a b : Nat) : Bool := fcmpLt a b || fcmpEq a b

def isNan32 (a : Nat) : Bool := fp32 a == .nan

/-- MAX and MIN ignore NaN; MAX prefers +0 and MIN prefers -0 (08 R265). -/
def fmaxW (a b : Nat) : Nat :=
  if isNan32 a then (if isNan32 b then 0x7FC00000 else b) else if isNan32 b then a
  else if fcmpLt a b then b else if fcmpLt b a then a else if bit a 31 then b else a

def fminW (a b : Nat) : Nat :=
  if isNan32 a then (if isNan32 b then 0x7FC00000 else b) else if isNan32 b then a
  else if fcmpLt a b then a else if fcmpLt b a then b else if bit a 31 then a else b

/-- RECIP (08 R265): correctly rounded; the quotient carries 64 bits and a sticky bit below them. -/
def frecip (a : Nat) : Nat × BitVec 5 :=
  match fp32 a with
  | .nan => (0x7FC00000, 0)
  | .inf s => (signBit fmtFp32 s, 0)
  | .fin s 0 _ => (signBit fmtFp32 s + 0x7F800000, flOverflow)
  | .fin s m e =>
    let q := pow2 90 / m
    toFp32 (.fin s (2 * q + boolNat (pow2 90 % m != 0)) (-e - 91))

/-- Integer square root, by bits from the top. -/
def isqrt : Nat → Nat → Nat → Nat
  | 0, _, r => r
  | k + 1, n, r => isqrt k n (if (r + pow2 k) * (r + pow2 k) ≤ n then r + pow2 k else r)

/-- RSQRT (08 R265). -/
def frsqrt (a : Nat) : Nat × BitVec 5 :=
  match fp32 a with
  | .nan => (0x7FC00000, 0)
  | .inf false => (0, 0)
  | .inf true => (0x7FC00000, flInvalid)
  | .fin s 0 _ => (signBit fmtFp32 s + 0x7F800000, flOverflow)
  | .fin true _ _ => (0x7FC00000, flInvalid)
  | .fin false m e =>
    let m2 := if e % 2 == 0 then m else 2 * m
    let e2 := if e % 2 == 0 then e else e - 1
    let n := pow2 160 / m2
    let r := isqrt 82 n 0
    toFp32 (.fin false (2 * r + boolNat (r * r * m2 != pow2 160)) (-(e2 / 2) - 81))

/-- The product of the roots 2^(1/2), 2^(1/4), ... that the fraction bits of x / 2^n name, from the top bit down, in units of
2^-220: 2^(x / 2^n), a little low where it is irrational. -/
def rootProduct (x : Nat) : Nat → Nat → Nat → Nat
  | 0, _, v => v
  | n + 1, root, v =>
    let root := isqrt 222 (root * pow2 220) 0
    rootProduct x n root (if bit x n then v * root / pow2 220 else v)

/-- EXP2 (08 R265): exact for an integral operand, else one of the two neighbours of the exact result; `larger` is the part's
choice. An operand above 128 overflows and one below -150 lies under every FP32 value. -/
def fexp2 (larger : Bool) (a : Nat) : Nat × BitVec 5 :=
  let conv := fconvert fmtFp32 true (.neighbour larger)
  match fp32 a with
  | .nan => (0x7FC00000, 0)
  | .inf true => (0, 0)
  | .inf false => (0x7F800000, 0)
  | .fin s m e =>
    if 0 ≤ e || m % pow2 (-e).toNat == 0 then
      let n : Nat := if 0 ≤ e then (if m == 0 then 0 else if 12 < e then 4096 else m * pow2 e.toNat) else m / pow2 (-e).toNat
      toFp32 (.fin false 1 (signedOf s (min n 4096)))
    else
      let k := (-e).toNat
      let whole := min (m / pow2 k) 4096
      let frac := if s then pow2 k - m % pow2 k else m % pow2 k
      let base : Int := if s then -(whole : Int) - 1 else whole
      conv (.fin false (2 * rootProduct frac k (2 * pow2 220) (pow2 220) + 1) (base - 221))

/-- Bits of log2 of v / 2^200, for v / 2^200 in [1, 2), by repeated squaring. -/
def logBits : Nat → Nat → Nat → Nat
  | 0, _, r => r
  | n + 1, v, r =>
    let w := v * v / pow2 200
    if pow2 201 ≤ w then logBits n (w / 2) (2 * r + 1) else logBits n w (2 * r)

/-- LOG2 (08 R265): exact for a power of two, else one of the two neighbours of the exact result; `larger` is the part's choice. -/
def flog2 (larger : Bool) (a : Nat) : Nat × BitVec 5 :=
  match fp32 a with
  | .nan => (0x7FC00000, 0)
  | .inf true => (0x7FC00000, flInvalid)
  | .inf false => (0x7F800000, 0)
  | .fin _ 0 _ => (0xFF800000, flOverflow)
  | .fin true _ _ => (0x7FC00000, flInvalid)
  | .fin false m e =>
    let l := Nat.log2 m
    let k := e + (l : Nat)
    if pow2 l == m then toFp32 (.fin (k < 0) k.natAbs 0)
    else
      let f := logBits 90 (m * pow2 (200 - l)) 0
      let v : Int := k * (pow2 91 : Nat) + (2 * f + 1 : Nat)
      fconvert fmtFp32 true (.neighbour larger) (.fin (v < 0) v.natAbs (-91))

/-! ### Integers -/

def sext (w n : Nat) : Int := if n % pow2 w < pow2 (w - 1) then (n % pow2 w : Nat) else (n % pow2 w : Nat) - (pow2 w : Nat)

def ofInt (w : Nat) (v : Int) : Nat := (v % (pow2 w : Nat)).toNat

/-- The nearer bound of a signed w-bit format, with SAT when the value moved (08 R264, R270). -/
def satInt (w : Nat) (v : Int) : Int × BitVec 5 :=
  let hi : Int := (pow2 (w - 1) : Nat) - 1
  let lo : Int := -(pow2 (w - 1) : Nat)
  if v > hi then (hi, flSat) else if v < lo then (lo, flSat) else (v, 0)

/-- INT32 results of the vector unit, saturating (08 R265). -/
def int32Result (v : Int) : Nat × BitVec 5 := let r := satInt 32 v; (ofInt 32 r.1, r.2)

def addInt (a b : Nat) : Nat × BitVec 5 := int32Result (sext 32 a + sext 32 b)
def subInt (a b : Nat) : Nat × BitVec 5 := int32Result (sext 32 a - sext 32 b)
def mulInt (a b : Nat) : Nat × BitVec 5 := int32Result (sext 32 a * sext 32 b)
def minInt (a b : Nat) : Nat × BitVec 5 := int32Result (min (sext 32 a) (sext 32 b))
def maxInt (a b : Nat) : Nat × BitVec 5 := int32Result (max (sext 32 a) (sext 32 b))

/-- Round to nearest even to an integer. -/
def roundInt (s : Bool) (m : Nat) (e : Int) : Int :=
  let r := roundMag (Nat.log2 m + 2) 0 .nearest m e
  signedOf s (if r.2.1 ≤ 0 then r.1 else r.1 * pow2 r.2.1.toNat)

/-- INT8 or INT4 from FP32 (08 R270). -/
def fpToInt (w : Nat) : Fv → Int × BitVec 5
  | .nan => (0, flInvalid)
  | .inf s => ((satInt w (if s then -(pow2 64 : Nat) else (pow2 64 : Nat))).1, flSat)
  | .fin s m e => satInt w (roundInt s m e)

/-- SCALAR_OP FTOI: toward zero, saturating to signed 64 bits; NaN gives 0 with INVALID. Saturation raises SAT
(08 R271); INEXACT is a flag of float results (08 R270), so a fraction that is cut off raises none. -/
def ftoi64 (b : Nat) : Nat × BitVec 5 :=
  match fp32 b with
  | .nan => (0, flInvalid)
  | .inf s => (ofInt 64 (satInt 64 (if s then -(pow2 65 : Nat) else (pow2 65 : Nat))).1, flSat)
  | .fin s m e =>
    let mag := if 0 ≤ e then m * pow2 e.toNat else m / pow2 (-e).toNat
    let r := satInt 64 (signedOf s mag)
    (ofInt 64 r.1, r.2)

/-- SCALAR_OP ITOF. -/
def itof (b : Nat) : Nat × BitVec 5 := let v := sext 64 b; toFp32 (.fin (v < 0) v.natAbs 0)

/-! ### FP4 blocks (08 R261 to R263) -/

/-- Widening of an E2M1 element under scale byte `sc`: FP32 encoding and flags. -/
def widenFp4 (sc w : Nat) : Nat × BitVec 5 :=
  if sc == 0xFF then (0x7FC00000, 0) else
  match fdecode fmtE2m1 (w % 16) with
  | .fin s m e => toFp32 (.fin s m (e + (sc : Int) - 127))
  | _ => (0x7FC00000, 0)

/-- The least e in [lo, lo + k] with m ≤ 6 × 2^e, for a magnitude n × 2^g; lo + k when there is none. -/
def autoExp (n : Nat) (g : Int) : Nat → Int → Int
  | 0, e => e
  | k + 1, e =>
    let b := min g e
    if n * pow2 (g - b).toNat ≤ 6 * pow2 (e - b).toNat then e else autoExp n g k (e + 1)

def magLt (a b : Nat × Int) : Bool :=
  let k := min a.2 b.2
  a.1 * pow2 (a.2 - k).toNat < b.1 * pow2 (b.2 - k).toNat

/-- The AUTO scale byte of a block. -/
def autoScale (vs : List Fv) : Nat :=
  let m := vs.foldl (fun acc v => match v with | .fin _ n e => if magLt acc (n, e) then (n, e) else acc | _ => acc) ((0, 0) : Nat × Int)
  if m.1 == 0 then 127 else (127 + autoExp m.1 m.2 254 (-127)).toNat

/-- An FP4 block written with scale `sc` (FIXED) or `none` (AUTO): scale byte, element bits, flags. -/
def writeFp4 (sc : Option Nat) (vs : List Fv) : Nat × List Nat × BitVec 5 :=
  let s := match sc with | some x => x | none => autoScale vs
  let conv := vs.map (fun v => match v with
    | .fin a m e => fconvert fmtE2m1 false .nearest (.fin a m (e - ((s : Int) - 127)))
    | .nan => (0, 0)
    | x => fconvert fmtE2m1 false .nearest x)
  let fl := conv.foldl (fun a r => a ||| r.2) 0
  if vs.any (fun v => v == .nan) then (0xFF, vs.map (fun _ => 0), fl ||| flInvalid) else (s, conv.map (fun r => r.1), fl)

/-! ### Accumulation of the PE array (08 R264) -/

/-- One MAC step: the products summed exactly, then one rounding into the FP32 accumulator. A NaN among the operands or in the
accumulator gives the canonical NaN and no flag (08 R259, R271). -/
def macStep (acc : Nat) (ps : List (Fv × Fv)) : Nat × BitVec 5 :=
  if fp32 acc == .nan || ps.any (fun p => p.1 == .nan || p.2 == .nan) then (0x7FC00000, 0) else
  let s := ps.foldl (fun a p => let m := fmulX p.1 p.2; let r := faddX a.1 m.1; (r.1, a.2 ||| m.2 ||| r.2)) ((Fv.fin true 0 0, 0) : Fv × BitVec 5)
  let r := faddX (fp32 acc) s.1
  round32 (r.1, s.2 ||| r.2)

/-- One INT32 accumulation with saturation. -/
def macInt (acc : Int) (ps : List (Int × Int)) : Int × BitVec 5 := satInt 32 (acc + (ps.map (fun p => p.1 * p.2)).sum)

/-- A list in groups of g. -/
def inGroups {α : Type} (g : Nat) : Nat → List α → List (List α)
  | 0, _ => []
  | n + 1, l => if l.isEmpty then [] else l.take g :: inGroups g n (l.drop g)

/-! ### Elements (09 R276) -/

def etypeBits (t : Nat) : Nat :=
  if t == 0 || t == 8 then 32 else if t == 1 || t == 2 then 16 else if t == 5 || t == 7 then 4 else 8

def etypeFmt (t : Nat) : Option Fmt :=
  if t == 0 then some fmtFp32 else if t == 1 then some fmtBf16 else if t == 2 then some fmtFp16
  else if t == 3 then some fmtE4m3 else if t == 4 then some fmtE5m2 else none

def etypeIsFloat (t : Nat) : Bool := t < 6

/-- Signed value of an integer element. -/
def intElem (t w : Nat) : Int := sext (etypeBits t) w

/-- FP32 encoding of an element and the flags of its widening; `sc` is its block's scale byte (E2M1). -/
def widen (t sc w : Nat) : Nat × BitVec 5 :=
  if t == 5 then widenFp4 sc w else
  match etypeFmt t with
  | some f => ((toFp32 (fdecode f w)).1, 0)
  | none => let v := intElem t w; toFp32 (.fin (v < 0) v.natAbs 0)

/-- An INT32 value narrowed to an integer format (08 R270). -/
def narrowInt (t : Nat) (v : Int) : Nat × BitVec 5 := let r := satInt (etypeBits t) v; (ofInt (etypeBits t) r.1, r.2)

/-- Negation of an integer element, which saturates at its minimum (08 R275). -/
def negElem (t w : Nat) : Nat × BitVec 5 := narrowInt t (-(intElem t w))

/-- MACs of one PE in a cycle whose products are summed exactly before they are added (08 R253, R264): by the wider format. -/
def macGroup (ta tb : Nat) : Nat :=
  let w := max (etypeBits ta) (etypeBits tb)
  if w == 4 then 8 else if w == 8 then 4 else 1

/-- Formats that stochastic rounding serves (08 R268). -/
def stochFormat (t : Nat) : Bool := t == 1 || t == 3 || t == 4

/-- A finite value that format f does not hold exactly. -/
def isInexact (f : Fmt) (v : Fv) : Bool :=
  match v with
  | .fin _ m e => (roundMag (f.mbits + 1) (1 - (f.bias : Int) - f.mbits) .nearest m e).2.2
  | _ => false

end Sys2Proof.Machine
end

