-- ==== Sys2Proof/Machine/State.lean ====
section
/-! DEFINITION. The state of one TK7 chip: everything spec/ gives the machine, plain data, and the state right after reset.
Each field's comment reads: width or type; file and rule of spec/; reset value; meaning. -/

namespace Sys2Proof.Machine

/-- 00 R19; encoded 0 OFF, 1 BRINGUP, 2 HOLD, 3 READY, 4 WALK (03 R104, 17 R476). -/
inductive DevState where
  | off | bringup | hold | ready | walk
  deriving DecidableEq, Repr

/-- 00 R20; encoded 0 ACTIVE, 1 IDLE, 2 DOZE, 3 HALT (03 R104). -/
inductive PowerState where
  | active | idle | doze | halt
  deriving DecidableEq, Repr

/-- Reference-count halves of an object (02 R80, R81), 32 bits each. -/
structure Refs where
  host : Nat
  dev : Nat
  deriving DecidableEq, Repr

/-- Free indices of one index space (02 R59): indices never used, from `next`, come before `freed`, oldest freed first;
`reuse` holds the reuse counts that are not 0 (8 bits). -/
structure Alloc where
  next : Nat
  freed : List Nat
  reuse : Tab Nat
  deriving DecidableEq, Repr

/-! ### Host functions and tenants -/

/-- A memory window entry (03 R110): `host` is KIND. -/
structure Window where
  base : W64
  size : W64
  bar2Off : W64
  valid : Bool
  host : Bool
  bar2En : Bool
  bar2Ro : Bool
  err : Nat
  pending : Bool
  deriving DecidableEq, Repr

/-- Every field of a window resets to 0 (03 R110). -/
def Window.reset : Window :=
  { base := 0, size := 0, bar2Off := 0, valid := false, host := false, bar2En := false, bar2Ro := false, err := 0, pending := false }

/-- A notice ring, tenant error ring or trace buffer in a DEVICE object (04 R130, R136, 15 R461). -/
structure RecRing where
  mem : Nat
  off : Nat
  log2 : Nat
  prod : W32
  cons : W32
  dropped : W32
  seq : W32
  /-- records raised since the ring was set (16 R465 code 0x03) -/
  raised : W64
  deriving DecidableEq, Repr

/-- A destroy notice (04 R134); `kind` and `idx` say which index is held until it is posted (02 R59). -/
structure Notice where
  handle : Handle
  stamp : W64
  gait : Nat
  deriving DecidableEq, Repr

/-- What a function agreed (04 R149), with the request it made and the RESULT bits of its first response (04 R150). -/
structure Agreement where
  major : W16
  minor : W16
  features : W128
  reqMinor : W16
  reqFeatures : W128
  response : Nat
  deriving DecidableEq, Repr

/-- An MSI-X table entry (12 R382): PCIe's reset leaves it masked. -/
structure MsixEntry where
  addr : W64
  data : W32
  masked : Bool
  deriving DecidableEq, Repr

/-- One function's request channel (04 R137). Entries are bytes of control SRAM, keyed by byte offset in the ring. -/
structure Channel where
  reqTail : W32
  reqHead : W32
  rspTail : W32
  rspHead : W32
  reqOverrun : Bool
  rspHeadBad : Bool
  reqBytes : List Host.Cell
  rspBytes : List Host.Cell
  poisoned : List Nat
  deriving DecidableEq, Repr

def Channel.reset : Channel :=
  { reqTail := 0, reqHead := 0, rspTail := 0, rspHead := 0, reqOverrun := false, rspHeadBad := false, reqBytes := [],
    rspBytes := [], poisoned := [] }

/-- A live descriptor's image (09 R285) or a free index with its reuse count. -/
structure DescSlot where
  live : Option W512
  reuse : Nat
  deriving DecidableEq, Repr

/-- The descriptor table of a tenant (09 R279): pages in use and, per page, its free indices, oldest freed first; `poisoned`
lists the indices whose line is poisoned (10 R324). -/
structure DescTable where
  slots : Tab DescSlot
  pages : Tab (List Nat)
  poisoned : List Nat
  deriving DecidableEq, Repr

/-- One tenant: one PCIe function (02 Model, 03). -/
structure Tenant where
  /-- 1; 03 R98; false for a VF, true for PF0. The function exists. -/
  present : Bool
  /-- option; 04 R149; none. The agreed interface; IFACE_MAJOR and IFACE_MINOR read from it. -/
  agreed : Option Agreement
  /-- 1; 03 R104; 0. TEARDOWN. -/
  teardown : Bool
  /-- 1; 03 R104; 0. WIN_CHANGED. -/
  winChanged : Bool
  /-- 7 x 32; 02 R52; 0. Quotas in the order of the usage registers; unlisted classes are 0. -/
  quota : Tab Nat
  /-- 32; 03 R104; 0. TP_BAR2_MISS, saturating. -/
  bar2Miss : W32
  /-- 32; 03 R104; 0. TP_WIN_FAULTS, saturating. -/
  winFaults : W32
  /-- 64 x 32; 03 R104; every TP_SRC_MASK bit 1. The sources whose mask bit is 0, ascending. -/
  unmasked : List Nat
  /-- 64 x 256; 03 R110; 0. Window table; unlisted entries are Window.reset. -/
  windows : Tab Window
  /-- record; 04 R137; 0. Request channel. -/
  chan : Channel
  /-- option; 04 R136; none. Notice ring. -/
  noticeRing : Option RecRing
  /-- option; 04 R136; none. Tenant error ring. -/
  errorRing : Option RecRing
  /-- option; 15 R461; none. Sync-event trace buffer. -/
  traceRing : Option RecRing
  /-- list; 04 R134; empty. Held destroy notices, oldest first. -/
  held : List Notice
  /-- option 11; 12 R362; none. Source bound to the notice ring. -/
  noticeBind : Option Nat
  /-- option 11; 12 R362; none. Source bound to the error ring. -/
  errorBind : Option Nat
  /-- table; 12 R382; masked entries. MSI-X table; unlisted entries are masked zeros. -/
  msix : Tab MsixEntry
  /-- 1; 12 R372; 0. MSI-X Enable of configuration space. -/
  msixEnable : Bool
  /-- 1; 12 R372; 0. MSI-X Function Mask. -/
  functionMask : Bool
  /-- 1; 03 R101; 0. Memory Space Enable. -/
  memSpace : Bool
  /-- log2; 03 R101; 28 for PF0, 26 for a VF. BAR2 size. -/
  bar2Log2 : Nat
  /-- table; 00 R18; empty. High halves that low-half reads latched, by offset, until they are read. -/
  latch : Tab W32
  /-- 16; 03 R92, R95; 0x2810 PRESUMED (PCIe's, log 86). Device Control: 14:12 Max_Read_Request_Size, 11 Enable No Snoop,
  7:5 Max_Payload_Size, 4 Enable Relaxed Ordering. -/
  devCtl : W16
  /-- table; 03 R93; PCIe's PRESUMED (log 86). Advanced Error Reporting registers that are not at their reset values, by offset. -/
  aer : Tab W32
  /-- table; 03 R105; empty. Doorbell values latched per slot in BRINGUP. -/
  dbLatch : Tab W32
  /-- record; 09 R279; empty. Descriptor table. -/
  descs : DescTable
  deriving DecidableEq, Repr

/-- A tenant right after whole-device reset (02 R52, 03 R104, 04 R137, 12 R380). -/
def Tenant.reset (t : Nat) : Tenant :=
  { present := t == 0, agreed := none, teardown := false, winChanged := false, quota := [], bar2Miss := 0, winFaults := 0,
    unmasked := [], windows := [], chan := Channel.reset, noticeRing := none, errorRing := none, traceRing := none,
    held := [], noticeBind := none, errorBind := none, msix := [], msixEnable := false, functionMask := false,
    memSpace := false, bar2Log2 := if t == 0 then 28 else 26, latch := [], devCtl := 0x2810, aer := [], dbLatch := [],
    descs := { slots := [], pages := [], poisoned := [] } }

/-! ### Contexts, queues, commands -/

/-- 02 R61. -/
inductive PrioClass where
  | realtime | interactive | batch | background
  deriving DecidableEq, Repr

/-- 05 R184. `q` and `seq` name the DEBUG_BREAK_ON that armed a count. -/
inductive Breakpoint where
  | count (target seen q seq : Nat)
  | tag (value : W16)
  deriving DecidableEq, Repr

/-- Utilisation counts of a context (02 R88), 64 bits each. -/
structure Util where
  clusterCycles : W64
  specDiscard : W64
  computeBusy : W64
  groomBusy : W64
  outriderBusy : W64
  groomBytes : W64
  outriderBytes : W64
  /-- attempts whose compute time has accrued, as clock intervals (02 R87, R88) -/
  busyIv : List (Nat × Nat)
  deriving DecidableEq, Repr

/-- Why a context is stopping (05 R184 to R186): the DETAIL of the break record, the queue and the TAG it names; none for the
first command of the queue that has not started. -/
structure Stopping where
  detail : Nat
  queue : Nat
  tag : Option W16
  deriving DecidableEq, Repr

/-- A context (02 R61). -/
structure Context where
  handle : Handle
  owner : Nat
  refs : Refs
  cls : PrioClass
  beat : Option Nat
  slots : Tab W64
  runnable : Bool
  stopping : Option Stopping
  brk : Option Breakpoint
  bisect : Option Nat
  util : Util
  deriving DecidableEq, Repr

/-- A parameter cell (05 R175): type 0 immediate, 1 memory object handle, 2 descriptor ID. -/
structure Param where
  type : Nat
  value : W64
  deriving DecidableEq, Repr

/-- A loop stack entry {b, e, N} (05 R178). -/
structure LoopEntry where
  b : Nat
  e : Nat
  count : Nat
  deriving DecidableEq, Repr

/-- A memory object half that a command reads, with its stamp at the start (13 R392). -/
structure InputRef where
  mem : Nat
  half : Nat
  stamp : W64
  deriving DecidableEq, Repr

/-- A memory object half that a command writes (13 R392). -/
structure OutputRef where
  mem : Nat
  half : Nat
  deriving DecidableEq, Repr

/-- An argument of a launch after substitution (13 R392, 05 R164): a descriptor copy with the halves it reaches, an object, or
an immediate. DIR is 0 to 3. -/
inductive ArgVal where
  | desc (img : W512) (mem readHalf writeHalf dir : Nat)
  | obj (mem readHalf writeHalf dir : Nat)
  | imm (v : W64)
  deriving DecidableEq, Repr

/-- A resolved descriptor operand: image copy (09 R284), memory index and the half it reaches (06 R215). -/
structure DescRef where
  img : W512
  mem : Nat
  half : Nat
  deriving DecidableEq, Repr

/-- One line of carried scratch saved in the undo log (10 R322) or in a save image (10 R320): cluster number in the launch,
line number, whether it was written, its 64 bytes. -/
structure SavedLine where
  cluster : Nat
  line : Nat
  written : Bool
  bytes : List Byte
  deriving DecidableEq, Repr

/-- What the engine work of a command is, fixed at its start (13 R392). -/
inductive Job where
  | launch (prog teams carried scratch : Nat) (args : List ArgVal) (slotsIn : Tab W64) (slotsOut : List Nat) (seed : Nat)
      (trapMask : BitVec 5) (specSafe : Bool)
  | groom (src dst : DescRef) (idx : Option DescRef)
  | outride (srcMem srcHalf dstMem dstHalf : Nat)
  | reduce (src : DescRef)
  | none
  deriving DecidableEq, Repr

/-- Why running work was told to stop at its next preemption point (06 R198, 13 R410). -/
inductive StopWhy where
  | preempt | degraded
  deriving DecidableEq, Repr

/-- Where a fetched command stands (05 R155, 06 R190). -/
inductive Phase where
  /-- fetched, not started -/
  | fetched
  /-- a WAIT_HITCH that registered a waiter (WAIT) -/
  | waiting
  /-- a WAIT_HITCH without a waiter slot (WAITER) -/
  | wantSlot
  /-- a BEAT_MARK with so many boundaries still to pass (BEAT) -/
  | beat (left : Nat)
  /-- a speculating BRANCH that is not resolved -/
  | branching
  /-- every start condition but RESOURCE holds since this clock time; `aged` under 06 R195 -/
  | wantResource (since : Nat) (aged : Bool)
  /-- running on its engines -/
  | running
  /-- told to stop at its next preemption point -/
  | stopping (why : StopWhy)
  /-- out of its engines and waiting for them: preempted (06 R198), or a matched collective member (11 R352) -/
  | preempted (since : Nat) (aged : Bool)
  /-- stopped by a recoverable fault, replay decided (13 R394) -/
  | wantReplay
  /-- stopped by a recoverable fault during a scheduling gap (14 R439); its fault is kept -/
  | undecided
  /-- a collective member that waits for its partners (11 R352) -/
  | collective
  /-- all effects done (05 R155) -/
  | completed
  deriving DecidableEq, Repr

/-- A refused engine access, for the error record (10 R328): handle, offset, length, reason. -/
structure WinFault where
  handle : Handle
  off : Nat
  len : Nat
  reason : Nat
  deriving DecidableEq, Repr

/-- The error record a failed command owes (13 R386, R387): class, ENGINE, OBJECT and payload. -/
structure FaultInfo where
  cls : Nat
  engine : Nat
  object : W32
  p0 : W64
  p1 : W64
  p2 : W64
  gait : Nat
  deriving DecidableEq, Repr

/-- What a sync-event trace record reports (15 R460), but for its SEQ. -/
structure TraceRec where
  tenant : Nat
  sat : Nat
  signal : Nat
  wait : Nat
  target : W64
  hitch : Handle
  waiter : Handle
  signaller : Handle
  sigTag : W16
  waitTag : W16
  sigCtx : Nat
  waitCtx : Nat
  status : Nat
  ending : Nat
  slotWait : Bool
  event : Bool
  spec : Bool
  deriving DecidableEq, Repr

/-- State of a fold (05 R172): the best or sum so far (none before the first element taken), its index, the count, flags. -/
structure Fold where
  acc : Option Int
  at_ : Nat
  count : Nat
  flags : BitVec 5
  deriving DecidableEq, Repr

def Fold.start : Fold := { acc := none, at_ := 0, count := 0, flags := 0 }

/-- What a cluster holds of the program that runs on it (07 R237 to R243, 08 R252): the values that its words have yielded, newest first,
and whether its body has ended; sticky-flag register, generator state, stack pointer, active hardware loops, occupancies of the
sub-engine queues, the cluster cycle of its last yield point, accumulators of the PE array, values for SLOT_OUT slots. -/
structure Core where
  seen : List (List Nat)
  ended : Bool
  sticky : BitVec 5
  rng : Nat
  sp : W32
  loops : Nat
  pe : Nat
  vec : Nat
  dma : Nat
  yieldAt : Nat
  accs : Tab W32
  slots : Tab W64
  deriving DecidableEq, Repr

def Core.reset : Core :=
  { seen := [], ended := false, sticky := 0, rng := 0, sp := 0, loops := 0, pe := 0, vec := 0, dma := 0, yieldAt := 0, accs := [], slots := [] }

/-- A run-time exception (07 R245 to R247), as the frame and the fault-shadow register set hold it; `cluster` is the logical number. -/
structure Shadow where
  cause : Nat
  cluster : Nat
  bodyOff : W32
  sp : W32
  faultAddr : W32
  loops : Nat
  deriving DecidableEq, Repr

/-- A fetched, unretired command (05, 06, 13 R392). `ctx` and `owner` are those of its queue, `params` is the private parameter
copy of its list (05 R181). `progress` and `fold` are what a
GROOM, OUTRIDE or REDUCE_TO_SCALAR keeps of its work when it stops (06 R198). `specWrites` are the ranges (device address,
length) that a speculative command has written (06 R220). `runs` are the clock intervals of the attempt on its engines, newest first and
open while it runs; `accCyc` are their cluster cycles (thousandths of a cycle, per cluster). `cores` keeps the program's state of a launch that is out of its teams, by number in the launch (07 R240). `accrued` holds counts that a
speculative command owes its commit point (15 R445), keyed by EVENT x 1,024 + logical cluster (1,023 for none), or 2^20 + fixed
index. -/
structure Cmd where
  seq : Nat
  ctx : Nat
  owner : Nat
  list : Option Nat
  params : List Param
  pos : Nat
  cells : List W128
  phase : Phase
  check : Option (Nat × Nat × FaultInfo)
  refs : List Handle
  status : Nat
  detail : Nat
  fault : Option FaultInfo
  specFault : Bool
  startGait : Nat
  startClock : Nat
  engineClock : Option Nat
  engineCyc : Nat
  doneGait : Nat
  engineNs : Nat
  nflags : BitVec 5
  replays : Nat
  deadline : Option Nat
  late : Bool
  spec : Option Nat
  scalarW : Tab W64
  inputs : List InputRef
  outputs : List OutputRef
  wroteOutputs : List Nat
  job : Job
  teams : List Nat
  groom : Option Nat
  outriders : List Nat
  heldBy : List Nat
  undo : List SavedLine
  saved : List SavedLine
  carriedLost : Bool
  cores : Tab Core
  wroteInput : Bool
  published : Bool
  logOk : Bool
  units : Nat
  slotWait : Bool
  specReg : Bool
  accrued : Tab Nat
  accCyc : Nat
  runs : List (Nat × Nat)
  trace : Option TraceRec
  /-- clock time at which the command triggered preemption (06 R199) -/
  trig : Option Nat
  /-- of a remote OUTRIDE (11 R351): its target answered RETRY and the next retry is due at this clock time, or its last
  frame left at this clock time -/
  remote : Option (Bool × Nat)
  /-- records of replayed faults that a speculative command holds until its commit (06 R217, 13 R398) -/
  heldReplays : List FaultInfo
  progress : Nat
  fold : Fold
  specWrites : List (Nat × Nat)
  /-- of a collective (11 R352): its order among those of its signature -/
  order : Nat
  /-- the bytes read so far that leave for another chip (11 R351, R353) -/
  wire : List Byte
  deriving DecidableEq, Repr

/-- Engine work of a discarded command of queue `q` that has not stopped yet (06 R220): it holds its engines and nothing else. -/
structure Ghost where
  q : Nat
  cmd : Cmd
  deriving DecidableEq, Repr

/-- A started LAUNCH_LIST or REPLAY_LIST: its private parameter copy, position, loop stack and results (05 R174 to R183). -/
structure ListExec where
  cmd : Cmd
  mem : Nat
  half : Nat
  off : Nat
  body : Nat
  params : List Param
  pos : Nat
  ctl : Bool
  stack : List LoopEntry
  ended : Bool
  bisect : Option Nat
  fail : Option (Nat × Nat)
  anyReplayed : Bool
  nflags : BitVec 5
  engineNs : Nat
  replays : Nat
  deriving DecidableEq, Repr

/-- An open segment of a speculation window (06 R213, R219). `other` is the position on the path not predicted. -/
structure Segment where
  branch : Nat
  predict : Bool
  confirmed : Bool
  other : Nat
  stack : List LoopEntry
  otherStack : List LoopEntry
  deriving DecidableEq, Repr

/-- A completion record that is owed and could not be written (04 R133), and the references that its command still holds
until it is written (02 R81, R85). `ref`: it has taken its reference on the queue (02 R82). -/
structure OwedRec where
  bits : W128
  drops : List Handle
  ref : Bool
  deriving DecidableEq, Repr

/-- A queue (02 R62, 04, 05 R173). `owedCount` counts the records owed since creation (16 R465 code 0x02). -/
structure Queue where
  handle : Handle
  owner : Nat
  ctx : Nat
  slot : Nat
  refs : Refs
  sq : Nat
  cq : Nat
  sqOff : Nat
  cqOff : Nat
  sqLog2 : Nat
  cqLog2 : Nat
  head : W32
  tail : W32
  err : Option (Nat × Nat)
  flags : BitVec 5
  cmds : List Cmd
  lists : List ListExec
  segs : List Segment
  nextSeq : Nat
  prod : W32
  cons : W32
  owed : List OwedRec
  owedCount : Nat
  lastMark : Option Nat
  bind : Option Nat
  deriving DecidableEq, Repr

/-! ### Memory objects, programs, hitches, events, tokens -/

/-- 02 R64; a program object draws from the same index space (02 R67). -/
inductive MemKind where
  | device | host | program
  deriving DecidableEq, Repr

/-- A program object's image as loaded (07 R222, R227): it never changes (07 R228). -/
structure ProgImage where
  bytes : List Byte
  poisoned : List Nat
  deriving DecidableEq, Repr

/-- A memory object or program object (02 R64). `addr` is the device address of half 0, or the IOVA. Lazy objects list the
granules, counted over both halves, that are no longer pending (10 R315). -/
structure MemObj where
  handle : Handle
  owner : Nat
  refs : Refs
  kind : MemKind
  double : Bool
  size : Nat
  addr : Nat
  home : Option Nat
  stamp : W64
  pub : Nat
  lazy : Bool
  filled : List Nat
  born : Nat
  charge : Nat
  image : Option ProgImage
  deriving DecidableEq, Repr

/-- Who waits on a hitch (02 R70, R79): a WAIT_HITCH of a queue, or an armed event. -/
inductive Waiter where
  | cmd (q seq : Nat) (target : W64) (spec : Bool)
  | event (e : Nat) (target : W64)
  deriving DecidableEq, Repr

/-- Who broke a hitch (15 R460): queue handle, TAG, context, gait time. -/
structure Breaker where
  queue : Handle
  tag : W16
  ctx : Nat
  gait : Nat
  deriving DecidableEq, Repr

/-- A hitch (02 R68, R74). `broken` is the broken record. `waiters` stand in order of registration. -/
structure Hitch where
  handle : Handle
  owner : Nat
  refs : Refs
  value : W64
  broken : W32
  breaker : Option Breaker
  waiters : List Waiter
  deriving DecidableEq, Repr

/-- 02 R78. -/
inductive EventState where
  | idle | armed | fired | broken
  deriving DecidableEq, Repr

/-- An event (02 R78, R90). -/
structure Event where
  handle : Handle
  owner : Nat
  refs : Refs
  state : EventState
  hitch : Nat
  target : W64
  source : Nat
  armGait : Nat
  fireGait : Nat
  deriving DecidableEq, Repr

/-- An exported-object token (11 R348, R349). `accepted` counts accepted requests that are not complete. -/
structure Token where
  owner : Nat
  mem : Nat
  reuse : Nat
  rd : Bool
  wr : Bool
  revoking : Bool
  accepted : Nat
  deriving DecidableEq, Repr

/-! ### Device-wide units -/

/-- An HBM stack's channels (10 R303, R307, R308; 03 R107). `lost` holds the channels that stopped answering, with the lines
written whole since then: every other line of such a channel is poisoned. -/
structure Stack where
  spareFree : List Nat
  retired : Tab Nat
  migrating : Tab Nat
  dead : List Nat
  lost : Tab (List Nat)
  deriving DecidableEq, Repr

/-- Storage (10). -/
structure Memory where
  /-- bytes; 10 R303; nothing listed (unlisted bytes read 0, log 4). HBM by device address. -/
  hbm : List Host.Cell
  /-- list; 10 R323; empty. Poisoned 64-byte HBM lines, by line number, ascending. -/
  poison : List Nat
  /-- list; 10 R323; empty. Poisoned lines whose first detection has been recorded. -/
  detected : List Nat
  /-- bytes; 10 R318; nothing listed. Scratch bytes keyed by physical cluster x 1,572,864 + offset. -/
  scratch : List Host.Cell
  /-- list; 10 R318; empty. Written scratch lines keyed by physical cluster x 24,576 + line, ascending. -/
  written : List Nat
  /-- 8 stacks; 10 R307; spares 0 and 1 free, none retired; unlisted stacks are so. -/
  stackTab : Tab Stack
  /-- list; 10 R307; empty. Uncorrectable errors: channel key and clock time. -/
  ueLog : List (Nat × Nat)
  /-- list; 10 R323, R324; empty. Staging partitions (0 to 11; others for the transit pool) and Farrier cores (16 + core) whose SRAM is
  poisoned and recorded. -/
  sramBad : List Nat
  /-- list; 10 R326; empty. Correctable errors: row or column key and clock time. -/
  ceLog : List (Nat × Nat)
  /-- table; 10 R307, 14 R421; empty. Repaired rows of a channel; the flash repair log keeps them over a reset. -/
  rowRepairs : Tab Nat
  deriving DecidableEq, Repr

/-- State of a physical cluster (03 R107 CL_STATE). -/
inductive ClState where
  | enabled | spare | failed
  deriving DecidableEq, Repr

/-- Clusters and teams (08 R254 to R256, 03 R107). -/
structure Compute where
  /-- 336; 03 R107; not valid until bring-up; empty list before. State and logical number of each physical cluster. -/
  phys : Tab (ClState × Option Nat)
  /-- list; 08 R255; empty. Logical clusters being drained or mapped in. -/
  draining : List Nat
  /-- list; 10 R321; empty. Draining clusters whose scratch can still be read. -/
  readable : List Nat
  /-- 40; 08 R256; empty tag. Residency tag (context, team index) of each team; unlisted teams have an empty tag. -/
  tags : Tab (Nat × Nat)
  /-- 40; 08 R255; free. Command (queue, sequence number) that holds each team. -/
  holders : Tab (Nat × Nat)
  /-- 4; 06 R193; free. Command that holds each Groom engine. -/
  groom : Tab (Nat × Nat)
  /-- 8; 06 R193; free. Command that holds each Outrider engine. -/
  outrider : Tab (Nat × Nat)
  /-- 336; 08 R252, 07 R238; Core.reset for unlisted ones. Control core, queues, flags and accumulators of each physical cluster. -/
  cores : Tab Core
  /-- 336; 07 R247; nothing listed DESIGN CHOICE (log 96). Fault-shadow register set of each physical cluster. -/
  shadows : Tab Shadow
  deriving DecidableEq, Repr

/-- Rotation pointers of the arbiter (06 R192 key 4), and of each tenant and context. -/
structure Rotation where
  tenant : Nat
  ctx : Tab Nat
  queue : Tab Nat
  deriving DecidableEq, Repr

/-- A beat domain (06 R203 to R211). -/
structure Beat where
  period : Nat
  ext : Bool
  out : Bool
  /-- 0 INTERNAL, 1 ACQUIRING, 2 LOCKED, 3 FREE_RUN -/
  state : Nat
  last : Nat
  next : Nat
  /-- correction of the boundary after `next` when an edge has been associated with `next` -/
  corr : Option Int
  /-- an edge has been associated with `last`; with `next` -/
  edgeLast : Bool
  edgeNext : Bool
  beats : W32
  phaseErr : Int
  extra : Nat
  oob : Nat
  relocks : Nat
  freerunSeen : Bool
  lastEdge : Nat
  /-- times of the out-of-band edges in a row, newest first, at most two -/
  oobRun : List Nat
  deriving DecidableEq, Repr

/-- READY leaves every domain INTERNAL at 16,666,667 ns (06 R203). -/
def Beat.reset : Beat :=
  { period := 16666667, ext := false, out := false, state := 0, last := 0, next := 16666667, corr := none, edgeLast := false,
    edgeNext := false, beats := 0, phaseErr := 0, extra := 0, oob := 0, relocks := 0, freerunSeen := false, lastEdge := 0,
    oobRun := [] }

/-- Configuration of a Rein source (12 R381). -/
structure SrcCfg where
  coreMask : Nat
  coreVector : Nat
  priority : Nat
  coreEn : Bool
  hostVector : Nat
  hostEn : Bool
  sense : Nat
  filter : Nat
  deriving DecidableEq, Repr

/-- Reset configuration of source s (12 R381). -/
def SrcCfg.reset (s : Nat) : SrcCfg :=
  { coreMask := 0, coreVector := 0, priority := 0, coreEn := false, hostVector := 0, hostEn := false,
    sense := if s == 3 then 3 else 2, filter := 0 }

/-- A Farrier core's side of Rein (12 R368, R370, R381): `stack` holds the priorities handled, innermost first. -/
structure ReinCore where
  vbase : W32
  eligible : Bool
  stack : List Nat
  deriving DecidableEq, Repr

/-- A HALT watch entry (12 R381). -/
structure WatchEntry where
  en : Bool
  sense : Nat
  hfilter : Nat
  line : Nat
  deriving DecidableEq, Repr

def WatchEntry.reset : WatchEntry := { en := false, sense := 2, hfilter := 0, line := 0 }

/-- Rein (12). -/
structure Rein where
  /-- 2,048 x 64; 12 R381; SrcCfg.reset for unlisted sources. Source configuration. -/
  cfg : Tab SrcCfg
  /-- list; 12 R381; empty. Sources with PENDING_CORE, ascending. -/
  pendingCore : List Nat
  /-- list; 12 R381; empty. Sources with PENDING_HOST, ascending. -/
  pendingHost : List Nat
  /-- table; 12 R381; empty. Sources with ACTIVE_CORE and the core (ACTIVE_ON). -/
  activeCore : Tab Nat
  /-- list; 12 R381; empty. Sources with ACTIVE_HOST, ascending. -/
  activeHost : List Nat
  /-- list; 12 R365; empty. Pin sources whose accepted level A is 1, ascending. -/
  levels : List Nat
  /-- table; 12 R365; 0. Gait time from which a change of a pin source's level counts: its last accepted change, or the last write or
  restart that cleared its filter's count. -/
  counting : Tab Nat
  /-- list; 12 R367; empty. Accepted edges of BEAT_SYNC_IN that the beat domain has still to take, oldest first. -/
  edges : List Nat
  /-- 62 x 6; 12 R381; 0. RN_GROUP_OWNER: bit 5 ASSIGNED, bits 4:0 TENANT; unlisted groups are 0. -/
  groups : Tab Nat
  /-- 8; 12 R381; VBASE 0, not eligible, running priority -1. Cores; unlisted cores are so. -/
  cores : Tab ReinCore
  /-- 3; 12 R381; 0. RN_ROTATE. -/
  rotate : Nat
  /-- 32; 12 R376; 0. RN_SPURIOUS_EOI_COUNT, saturating. -/
  spurious : W32
  /-- 16 entries; 12 R381; WatchEntry.reset. RN_HALT_WATCH. -/
  watch : Tab WatchEntry
  /-- list; 12 R377; empty. Asynchronous latches set in DOZE: source and edge time. -/
  latches : List (Nat × Nat)
  deriving DecidableEq, Repr

def Rein.reset : Rein :=
  { cfg := [], pendingCore := [], pendingHost := [], activeCore := [], activeHost := [], levels := [], counting := [], edges := [], groups := [],
    cores := [], rotate := 0, spurious := 0, watch := [], latches := [] }

/-- The Governor (14 R424 to R429). -/
structure Gov where
  /-- 16; 14 R418, R424; 600 MHz. Cluster clock. -/
  clMhz : Nat
  /-- 16; 14 R424; fused. Clock cap in force. -/
  fcap : Nat
  /-- 8; 14 R424; fused. Throttle limit in force. -/
  tthrot : Nat
  /-- 8; 14 R424; fused. Shutdown limit in force. -/
  tshut : Nat
  /-- 16; 14 R424; fused. Power limit in force. -/
  plimit : Nat
  /-- 8; 14 R429; live, 0. TJ_C. -/
  tj : Nat
  /-- 16; 14 R429; live, 0. POWER_W. -/
  power : Nat
  /-- 1; 14 R429; 0. HOLD_FAIL. -/
  holdFail : Bool
  /-- 1; 14 R429; 0. SHUTDOWN_PENDING. -/
  shutdownPending : Bool
  /-- 1; 14 R429; 0. POWER_LIMITING. -/
  powerLimiting : Bool
  /-- 1; 14 R429; 0. THERMAL_LIMITING. -/
  thermalLimiting : Bool
  /-- 1; 17 R483; 0. THERM_ALERT_N has been low for 1 ms. -/
  extAlert : Bool
  /-- 1; 17 R482; 0. The regulator has failed; the clock is pinned at 600 MHz. -/
  regFault : Bool
  /-- option clock; 14 R425; none. Last step down while a limit was met. -/
  lastDown : Option Nat
  /-- option clock; 14 R425; none. Last step up, or since when both values are below their limits. -/
  lastUp : Option Nat
  /-- option clock; 14 R427; none. Since when a limit is held at 600 MHz without relief. -/
  stuckSince : Option Nat
  /-- option clock; 13 R409; none. Since when every limit is held. -/
  heldSince : Option Nat
  deriving DecidableEq, Repr

/-- The always-on island, pins and power (17). -/
structure Halter where
  /-- level; 17 R479; 1. VDD_AON in range (log 2). -/
  vddAon : Bool
  /-- level; 17 R474; 1. PWR_GOOD (log 2). -/
  pwrGood : Bool
  /-- level; 17 R474; 0 (asserted). PERST_N (log 2). -/
  perstN : Bool
  /-- 2; 17 R476; 0. SMB_ADDR sampled when PWR_GOOD rose. -/
  smbAddr : Nat
  /-- option clock; 17 R476; 0. When PWR_GOOD rose; none while it has not risen since VDD_AON rose. -/
  goodAt : Option Nat
  /-- 1; 17 R484; 0. Held in OFF after a hardware thermal shutdown. -/
  shutdownHold : Bool
  /-- 4; 17 R492; 0. RESET_CAUSE. -/
  resetCause : Nat
  /-- 5; 17 R492; 0x1F. WAKE_SRC. -/
  wakeSrc : Nat
  /-- 1; 17 R492; 0. HALT_EN. -/
  haltEn : Bool
  /-- 1; 17 R492; 1. DOZE_EN. -/
  dozeEn : Bool
  /-- 8; 17 R492; 60. HALT_DELAY_S. -/
  haltDelayS : Nat
  /-- 16; 17 R492; 10. DOZE_DELAY_MS. -/
  dozeDelayMs : Nat
  /-- 8; 17 R492; 0. GPIO_OE. -/
  gpioOe : BitVec 8
  /-- 8; 17 R492; 0. GPIO_OUT. -/
  gpioOut : BitVec 8
  /-- state; 00 R20; ACTIVE. Power state. -/
  power : PowerState
  /-- option clock; 17 R486; none. Since when there is no work. -/
  idleSince : Option Nat
  /-- option clock; 17 R486; none. Since when the device is in DOZE. -/
  dozeSince : Option Nat
  /-- clock; 12 R378; 0. The last entry to HALT. -/
  haltSince : Nat
  /-- level; 06 R209; 0. BEAT_OUT pin. -/
  beatOut : Bool
  /-- clock; 06 R209; 0. The last rise of BEAT_OUT. -/
  beatRise : Nat
  /-- level; 15 R456; 0. FREEZE_OUT pin. -/
  freezeOut : Bool
  /-- table; 12 R378; empty. RN_HALT_WATCH as copied to Halter at the last entry to HALT. -/
  watchCopy : Tab WatchEntry
  /-- list; 17 R488; empty. Carried lines saved at the entry to HALT: physical cluster in `cluster`. -/
  haltSave : List SavedLine
  /-- 1; 17 R488; 0. HBM in self-refresh. -/
  selfRefresh : Bool
  /-- 1; 17 R487; 0. The host has enabled ASPM L1.2 for PF0. -/
  l12 : Bool
  /-- 4 x 1; 17 R478; all present. SYSCLK_25M, HCLK_32K, REFCLK, ZREFCLK (log 3). -/
  sysclk : Bool
  hclk : Bool
  refclk : Bool
  zrefclk : Bool
  /-- option clock; 14 R418; none. When PERST_N deasserted with PWR_GOOD high: time 0 of bring-up. -/
  bootAt : Option Nat
  deriving DecidableEq, Repr

/-- Fused values (03 R107, 14 R424, R429; log 3). -/
structure Fuses where
  serial : W64
  stepping : Nat
  fmax : Nat
  vmax : Nat
  tshut : Nat
  tthrot : Nat
  pmax : Nat
  spares : List Nat
  deriving DecidableEq, Repr

/-- A firmware image's header as held in a flash slot or code store (14 R415); `valid` is 14 R416. -/
structure FwImage where
  build : W32
  major : W16
  minor : W16
  hverMin : Nat
  hverMax : Nat
  cvers : List W32
  features : W128
  valid : Bool
  deriving DecidableEq, Repr

/-- SPI flash (17 R493). -/
structure Flash where
  board : List Byte
  pref : Nat
  plan0 : List Byte
  plan1 : List Byte
  slotA : Option FwImage
  slotB : Option FwImage
  standby : Option FwImage
  retiredLog : List (Nat × Nat)
  failedLog : List Nat
  deriving DecidableEq, Repr

/-- The stages of a live update (14 R437). -/
inductive UpdatePhase where
  | none
  | loading (slot fn : Nat) (tag : W16)
  | gap (slot fn : Nat) (tag : W16) (since : Nat)
  deriving DecidableEq, Repr

/-- Farrier (14). -/
structure Farrier where
  /-- option; 14 R417; none. The running image; none before boot or when no image is valid. -/
  running : Option FwImage
  /-- 2; 14 R434; 0. Slot of the running image. -/
  slot : Nat
  /-- stage; 14 R437; none. Live update in progress. -/
  update : UpdatePhase
  /-- 16; 14 R434; 0. Watchdog restarts since reset, saturating. -/
  restarts : Nat
  /-- list; 14 R432; empty. Clock times of the restarts of the last 60 s. -/
  recent : List Nat
  /-- 8; 14 R434; 0. Standby failovers. -/
  failovers : Nat
  /-- 8; 14 R434; 0. Last REASON. -/
  reason : Nat
  /-- 1; 14 R433; 0. The standby image runs and restarts no longer escalate. -/
  pinned : Bool
  /-- 16; 04 R137; 0. BRD_IFACE_REQ. -/
  ifaceReq : W16
  deriving DecidableEq, Repr

/-- The host link (03 R91, R96), with what PF0's configuration space holds for the whole device (R93, R97, R101): addresses of the
BARs, of VF1's BARs, LTR enable, ARI Capable Hierarchy. -/
structure Link where
  speed : Nat
  width : Nat
  flit : Bool
  vfEnable : Bool
  numVfs : Nat
  bar0 : W64
  bar2 : W64
  vfBar0 : W64
  vfBar2 : W64
  ltr : Bool
  ari : Bool
  deriving DecidableEq, Repr

/-- A Zensen port (11 R330 to R339). `state` as PORT_STATE: 0 DOWN, 1 TRAINING, 2 UP, 3 MISSING, 4 UNEXPECTED, 5 SWAPPED. `hello` is
the last HELLO received, `heard` says that it came since training began. `seqNo` and `streak`: the frame last retransmitted, and how
often in a row. `retraining`: since when it retrains with its frames held (R334, R335). `errs` are the frame errors of the last second, as
lane and clock time. `hops` and `aligned` are those of the neighbour's last time frame; none before one came. -/
structure Port where
  state : Nat
  trained : Bool
  trainAt : Nat
  hello : Option W256
  heard : Bool
  spareInUse : Bool
  half : Bool
  seqNo : Nat
  streak : Nat
  retries : W64
  bursts : W32
  laneSwaps : W32
  retraining : Option Nat
  errs : List (Nat × Nat)
  hops : Option Nat
  aligned : Bool
  deriving DecidableEq, Repr

/-- A port after whole-device reset: DOWN until training starts at bring-up (14 R418 step 7). -/
def Port.reset : Port :=
  { state := 0, trained := false, trainAt := 0, hello := none, heard := false, spareInUse := false, half := false, seqNo := 0, streak := 0,
    retries := 0, bursts := 0, laneSwaps := 0, retraining := none, errs := [], hops := none, aligned := false }

/-- The fabric side of the chip (11). -/
structure Fabric where
  /-- 4; 11 R337; Port.reset. Ports; unlisted ports are so. -/
  ports : Tab Port
  /-- bytes; 11 R342, 17 R494; empty. The cabling plan in force: none before bring-up takes one from flash. -/
  plan : List Byte
  /-- list; 11 R343; empty. Destinations that PF0 forces to DROP. -/
  forced : List Nat
  /-- option; 11 R356; none. Port towards the time parent. -/
  parent : Option Nat
  /-- 8; 11 R346; 0xFF. HOPS. -/
  hops : Nat
  /-- 16; 11 R346; 0. LINK_DELAY_NS. -/
  delay : Int
  /-- 32; 11 R346; 0. OFFSET_NS. -/
  offset : Int
  /-- 1; 11 R357; 0. A round trip has been measured on the link to the present parent. -/
  measured : Bool
  /-- option; 11 R357; none. Stamp t1 of the round trip that waits for its reply. -/
  asked : Option Nat
  /-- clock; 11 R357; 0. When the next round trip on the parent link is due. -/
  askAt : Nat
  /-- 1; 11 R358; 0. The one-time set has been made or passed. -/
  gaitSet : Bool
  /-- sign; 11 R358; 0. Direction of slewing: 1, -1 or 0. -/
  slew : Int
  deriving DecidableEq, Repr

def Fabric.reset : Fabric :=
  { ports := [], plan := [], forced := [], parent := none, hops := 255,
    delay := 0, offset := 0, measured := false, asked := none, askAt := 0, gaitSet := false, slew := 0 }

/-- Live fields of the CTT that are no state elsewhere (03 R107, R108). -/
structure Ctt where
  gen : W32
  staticValid : Bool
  clmapValid : Bool
  topoValid : Bool
  deriving DecidableEq, Repr

/-- Selection of a programmable counter (15 R453). -/
structure CounterSel where
  event : Nat
  spec : Bool
  ctxFilter : Bool
  clFilter : Bool
  ctx : Nat
  clFirst : Nat
  clLast : Nat
  deriving DecidableEq, Repr

def CounterSel.reset : CounterSel :=
  { event := 0, spec := false, ctxFilter := false, clFilter := false, ctx := 0, clFirst := 0, clLast := 0 }

/-- A pending freeze (15 R455 to R458). `source`: 0 request, 1 FREEZE_IN, 2 broadcast, 3 packet. -/
structure Freeze where
  tf : Nat
  id : W16
  source : Nat
  broadcast : Bool
  deriving DecidableEq, Repr

/-- Counters and freeze state (15 R443 to R458). -/
structure Counters where
  /-- 4,096 x 64; 15 R453; 0. Live values; unlisted counters are 0. -/
  value : Tab W64
  /-- table; 15 R453; unprogrammed. Selections of programmable counters. -/
  sel : Tab CounterSel
  /-- 112 x 6; 15 R453; 0. CNT_GROUP: bit 5 ASSIGNED, bits 4:0 TENANT; unlisted groups are 0. -/
  groups : Tab Nat
  /-- option; 15 R453; none. Pending freeze. -/
  pendingFreeze : Option Freeze
  /-- option; 15 R456; none. The counters as they stood when the gait counter reached the pending freeze's T_F. -/
  atTf : Option (Tab W64)
  /-- option; 15 R453; none. Held bank and its freeze. -/
  heldBank : Option (Freeze × Tab W64)
  /-- 1; 15 R453; 0. ALIGNED_AT. -/
  alignedAt : Bool
  /-- 16; 15 R453; 0. MISSED, saturating. -/
  missed : Nat
  /-- 8; 15 R458; 0. Freeze sequence of this chip. -/
  seq : Nat
  /-- 1; 15 R453; 0. PIN_BROADCAST. -/
  pinBroadcast : Bool
  /-- list; 15 R457; empty. FREEZE_IDs already forwarded. -/
  forwarded : List W16
  deriving DecidableEq, Repr

def Counters.reset : Counters :=
  { value := [], sel := [], groups := [], pendingFreeze := none, atTf := none, heldBank := none, alignedAt := false, missed := 0, seq := 0,
    pinBroadcast := false, forwarded := [] }

/-- The global error queue in control SRAM (13 R388). -/
structure ErrorQueue where
  /-- bytes; 13 R388; empty. Entries by byte offset. -/
  entries : List Host.Cell
  /-- 32; 13 R388; 0. PROD. -/
  prod : W32
  /-- 32; 13 R388; 0. CONS as the driver last wrote it and the device accepted it. -/
  cons : W32
  /-- 32; 13 R388; 0. DROPPED, saturating. -/
  dropped : W32
  /-- 32; 13 R386; 0. SEQ of the next record. -/
  seq : W32
  deriving DecidableEq, Repr

/-- What leaves the chip, in order: the model's own record of its outputs, no state of the device (log 5). -/
inductive Output where
  | barData (fn off : Nat) (value : W64)
  | bar2Data (fn : Nat) (data : List Byte) (poisoned : Bool)
  | cfgData (fn : Nat) (reg : CfgReg) (value : Nat)
  | capabilities (fn : Nat) (caps : List Capability)
  /-- a write request of function `fn` with its Relaxed Ordering and No Snoop attributes -/
  | hostWrite (fn iova : Nat) (data : List Byte) (relaxed noSnoop : Bool)
  | hostRead (fn iova len : Nat)
  | msix (fn vector : Nat) (addr : W64) (data : W32)
  | smbus (value : Option Nat)
  | hello (port : Nat) (payload : W256)
  | timeFrame (port : Nat) (gait hops : Nat) (aligned : Bool)
  | freezeFrame (port : Nat) (tf : Nat) (id slice : W16)
  | forwarded (port : Nat) (frame : Frame)
  | timeRequest (port t1 : Nat)
  | timeReply (port t2 t3 : Nat)
  /-- routed frames of this chip carry its slice and their tenant (11 R345): a request to chip `dest`, an answer to it, the start of a member of
  a collective, the bytes a member owes another one, and the acknowledgement of such bytes -/
  | remote (port dest : Nat) (req : RemoteReq)
  | reply (port dest : Nat) (slice : W16) (tenant : Nat) (r : RemoteReply)
  | member (port dest : Nat) (slice : W16) (start : MemberStart)
  | contribution (port dest : Nat) (slice : W16) (start : MemberStart) (data : List Byte)
  | collectiveAck (port dest : Nat) (slice : W16) (start : MemberStart)
  /-- a member that has started is stopped by a reset (13 R405) -/
  | memberReset (port dest : Nat) (slice : W16) (start : MemberStart)
  | coreVector (core : Nat) (addr : W32)
  | pin (name : Nat) (level : Bool)
  deriving DecidableEq, Repr

/-- A frame on a link (11 R333): sequence number, channel (0 REQ, 1 RSP, 2 MGMT), what it carries, the command whose transfer it
belongs to, and the clock time at which its acknowledgement and its credit return. -/
structure TxFrame where
  seqNo : Nat
  chan : Nat
  body : Output
  owner : Option (Nat × Nat)
  acked : Nat
  deriving DecidableEq, Repr

/-- The sending side of a port (11 R333): the replay buffer, frames that wait for credits, and the next sequence number. -/
structure LinkTx where
  sent : List TxFrame
  queue : List TxFrame
  next : Nat
  deriving DecidableEq, Repr

def LinkTx.reset : LinkTx := { sent := [], queue := [], next := 0 }

/-- How many collectives of one signature a tenant's members have started on this chip (11 R352). -/
structure Started where
  tenant : Nat
  sig : Signature
  count : Nat
  deriving DecidableEq, Repr

/-- Section entry of a handover record (14 R435). -/
structure HandoverSection where
  stype : Nat
  sversion : W16
  reserved : W32
  offset : W32
  length : W32
  deriving DecidableEq, Repr

/-- A handover record or checkpoint (14 R435, R431): its header, whose `reserved` fields are given together, and its section table. The
content of sections is the state that they describe. -/
structure Handover where
  magic : W32
  version : Nat
  bytes : W32
  check : W32
  build : W32
  major : W16
  minor : W16
  gait : Nat
  reqCount : W32
  reserved : Nat
  sections : List HandoverSection
  deriving DecidableEq, Repr

/-- What Bridle, its objects, storage, interrupts, error rings and counters hold. Every packet row changes this part alone. -/
structure Chip where
  /-- list; model's own (log 5); empty. What has left the chip. -/
  out : List Output
  /-- list, at most 128 entries of 64 bytes; 03 R96, 01 R37 crossing 4; empty. Device-issued requests held while the link is down. -/
  heldOut : List Output
  /-- 1; 03 R96; 0. The host link is up (crossing 4 delivers). -/
  linkUp : Bool
  /-- Nat; model's own (log 6); 0 DESIGN CHOICE. Counter of the free values. -/
  free : Nat
  /-- Nat; model's own (log 1); 0. Nanoseconds that have passed, for durations. -/
  clock : Nat
  /-- Nat; model's own (log 1); 0. Cluster clock, in thousandths of a cycle, for cluster-cycles (02 R88). -/
  cycles : Nat
  /-- 64; 15 R462; 0. Gait counter. -/
  gait : Nat
  /-- 8; 11 R358; 0. Timebase cycles modulo 256, which times the slewing steps. -/
  phase : Nat
  /-- state; 00 R19; OFF. Device state. -/
  dev : DevState
  /-- 5; 13 R409; 0. Walk cause bits. -/
  walk : BitVec 5
  /-- 5; 13 R409; 0. Walk causes that meet their clearing condition. -/
  walkCleared : BitVec 5
  /-- 32 tenants; 03, 04; Tenant.reset for unlisted ones. Functions. -/
  tenants : Tab Tenant
  /-- list; 00 R15; empty. W1C bits that hardware has set in this cycle: 4 x function + 0 for WIN_CHANGED, 1 for REQ_OVERRUN,
  2 for RSP_HEAD_BAD. -/
  setNow : List Nat
  /-- list; 04 R139; empty. Functions in the order in which their committed requests landed. -/
  arrivals : List Nat
  /-- 32; 14 R435; 0. REQ_COUNT: requests taken, over all channels. -/
  reqCount : W32
  /-- record of at most 1 MiB; 14 R431; none. Checkpoint or handover record in control SRAM. -/
  record : Option Handover
  /-- 4,096; 02 R51; empty. Contexts. -/
  contexts : Tab Context
  /-- 16,384; 02 R51; empty. Queues. -/
  queues : Tab Queue
  /-- list; 06 R220; empty. Engine work of discarded commands that has not stopped. -/
  ghosts : List Ghost
  /-- 1,048,576; 02 R51; empty. Memory and program objects. -/
  mems : Tab MemObj
  /-- 65,536; 02 R51; empty. Hitches. -/
  hitches : Tab Hitch
  /-- 65,536; 02 R51; empty. Events. -/
  events : Tab Event
  /-- 16,384; 11 R348; empty. Live and revoking tokens by index. -/
  tokens : Tab Token
  /-- 64; 11 R346; 0. ZL_REMOTE_REFUSED, saturating. -/
  remoteRefused : W64
  /-- 64; 11 R346; 0. ZL_DROP_ROUTE, saturating. -/
  dropRoute : W64
  /-- 64; 11 R346; 0. ZL_DROP_SLICE, saturating. -/
  dropSlice : W64
  /-- 4; 11 R333; LinkTx.reset. Sending sides of the ports; unlisted ones are so. -/
  links : Tab LinkTx
  /-- list; 11 R335; empty. Commands (queue, sequence number) whose frames a failed port held. -/
  linkHit : List (Nat × Nat)
  /-- list; 11 R352; empty. Collectives started, by tenant and signature. -/
  started : List Started
  /-- spaces 1 context, 2 queue, 3 memory, 5 hitch, 6 event, 10 token; 02 R59; nothing used. Index spaces. -/
  allocs : Tab Alloc
  /-- record; 10; nothing listed. Storage. -/
  memory : Memory
  /-- record; 08; see its fields. Clusters, teams, engines. -/
  compute : Compute
  /-- record; 06 R192; 0 DESIGN CHOICE (log 9). Rotation pointers. -/
  rotation : Rotation
  /-- 17; 13 R391; 65,536. Free logbook units. -/
  logFree : Nat
  /-- record; 12; Rein.reset. Interrupt controller. -/
  rein : Rein
  /-- record; 13 R388; empty. Global error queue. -/
  errq : ErrorQueue
  /-- record; 03 R107; 0, nothing valid. CTT; GEN starts from 0 DESIGN CHOICE (log 87). -/
  ctt : Ctt
  /-- record; 15; Counters.reset. Counters. -/
  counters : Counters
  deriving DecidableEq, Repr

/-- One TK7 chip. -/
structure State where
  /-- queue; the host's frame for a block; empty. Commands waiting, first in first out. -/
  pending : List Instr
  /-- record; 17; see its fields. Always-on island, pins and power. -/
  halter : Halter
  /-- record; 03 R107, 14 R429; DESIGN CHOICE (log 3). Fuses. -/
  fuses : Fuses
  /-- record; 17 R493; DESIGN CHOICE (log 3). Flash. -/
  flash : Flash
  /-- record; 14; see its fields. Farrier. -/
  farrier : Farrier
  /-- record; 03 R91, R98; down, no VF. Host link and SR-IOV. -/
  link : Link
  /-- record; 14 R424; see its fields. Governor. -/
  gov : Gov
  /-- 8; 06 R203; Beat.reset. Beat domains; unlisted domains are so. -/
  beats : Tab Beat
  /-- record; 11; Fabric.reset. Fabric. -/
  fabric : Fabric
  /-- record; 01 to 16; Chip.reset. Everything else. -/
  chip : Chip
  deriving DecidableEq, Repr

/-- A chip entry and a link entry of a cabling plan (11 R340). -/
structure PlanChip where
  serial : Nat
  block : Nat
  x : Nat
  y : Nat
  slice : Nat
  deriving DecidableEq, Repr

structure PlanLink where
  ax : Nat
  ay : Nat
  aPort : Nat
  bx : Nat
  by_ : Nat
  bPort : Nat
  deriving DecidableEq, Repr

/-- What the chip takes from its plan (11 R342). -/
structure Place where
  planned : Bool
  gen : Nat
  x : Nat
  y : Nat
  block : Nat
  slice : Nat
  meshW : Nat
  meshH : Nat
  chips : List PlanChip
  links : List PlanLink
  deriving DecidableEq, Repr

/-- What a step on the chip part reads of the other parts. -/
structure Env where
  fabric : Fabric
  beats : Tab Beat
  gap : Bool
  /-- the running image -/
  image : Option FwImage
  place : Place
  power : PowerState
  deriving DecidableEq, Repr

/-- Reasons a step stops the machine. -/
inductive Fault where
  /-- Raised by VDD_AON_FALL while PWR_GOOD is high: 17 R481 says that rails which leave their ranges without PWR_GOOD
  falling give no defined result. Safe: nothing is claimed of what follows. -/
  | railsOutOfRange
  deriving DecidableEq, Repr

/-- Reasons a command has no meaning. -/
inductive Refusal where
  /-- A row with no meaning in this model. No arm of `exec` answers with it. Safe. -/
  | notModelled (mnemonic : String)
  deriving DecidableEq, Repr

def Fuses.default : Fuses :=
  { serial := 0, stepping := 0, fmax := 1500, vmax := 900, tshut := 115, tthrot := 105, pmax := 520,
    spares := [320, 321, 322, 323, 324, 325, 326, 327, 328, 329, 330, 331, 332, 333, 334, 335] }

/-- The shipping image (04 R145); BUILD and the handover versions are DESIGN CHOICE (log 3). -/
def FwImage.shipping : FwImage :=
  { build := 1, major := 1, minor := 4, hverMin := 1, hverMax := 1, cvers := [0x00070001], features := 0x7FF, valid := true }

def Flash.default : Flash :=
  { board := [], pref := 0, plan0 := [], plan1 := [], slotA := some FwImage.shipping, slotB := none, standby := none,
    retiredLog := [], failedLog := [] }

def Gov.reset (f : Fuses) : Gov :=
  { clMhz := 600, fcap := f.fmax, tthrot := f.tthrot, tshut := f.tshut, plimit := f.pmax, tj := 0, power := 0, holdFail := false,
    shutdownPending := false, powerLimiting := false, thermalLimiting := false, extAlert := false, regFault := false,
    lastDown := none, lastUp := none, stuckSince := none, heldSince := none }

def Farrier.reset : Farrier :=
  { running := none, slot := 0, update := .none, restarts := 0, recent := [], failovers := 0, reason := 0, pinned := false,
    ifaceReq := 0 }

def Memory.reset : Memory :=
  { hbm := [], poison := [], detected := [], scratch := [], written := [], stackTab := [], ueLog := [], sramBad := [], ceLog := [], rowRepairs := [] }

def Compute.reset : Compute :=
  { phys := [], draining := [], readable := [], tags := [], holders := [], groom := [], outrider := [], cores := [], shadows := [] }

/-- VDD_AON and PWR_GOOD are up and PERST_N is asserted (log 2). -/
def Halter.reset : Halter :=
  { vddAon := true, pwrGood := true, perstN := false, smbAddr := 0, goodAt := some 0, shutdownHold := false,
    resetCause := 0, wakeSrc := 0x1F, haltEn := false, dozeEn := true, haltDelayS := 60, dozeDelayMs := 10, gpioOe := 0,
    gpioOut := 0, power := .active, idleSince := none, dozeSince := none, haltSince := 0, beatOut := false, beatRise := 0, freezeOut := false,
    watchCopy := [], haltSave := [], selfRefresh := false, l12 := false, sysclk := true, hclk := true, refclk := true,
    zrefclk := true, bootAt := none }

/-- Everything on the chip part that whole-device reset clears (00 R12, 13 R404). -/
def Chip.reset : Chip :=
  { out := [], heldOut := [], linkUp := false, free := 0, clock := 0, cycles := 0, gait := 0, phase := 0, dev := .off, walk := 0,
    walkCleared := 0, tenants := [], setNow := [], arrivals := [], reqCount := 0, record := none, contexts := [], queues := [], ghosts := [], mems := [], hitches := [],
    events := [], tokens := [], remoteRefused := 0, dropRoute := 0, dropSlice := 0, links := [], linkHit := [], started := [], allocs := [], memory := Memory.reset, compute := Compute.reset,
    rotation := { tenant := 0, ctx := [], queue := [] }, logFree := 65536, rein := Rein.reset,
    errq := { entries := [], prod := 0, cons := 0, dropped := 0, seq := 0 },
    ctt := { gen := 0, staticValid := false, clmapValid := false, topoValid := false }, counters := Counters.reset }

def Link.reset : Link :=
  { speed := 0, width := 0, flit := false, vfEnable := false, numVfs := 0, bar0 := 0, bar2 := 0, vfBar0 := 0, vfBar2 := 0, ltr := false, ari := false }

/-- The chip right after whole-device reset, held in OFF by PERST_N (00 R12, R19, 13 R404; log 2). -/
def State.reset : State :=
  { pending := [], halter := Halter.reset, fuses := Fuses.default, flash := Flash.default, farrier := Farrier.reset,
    link := Link.reset, gov := Gov.reset Fuses.default, beats := [], fabric := Fabric.reset, chip := Chip.reset }

end Sys2Proof.Machine
end

