-- ==== Sys2Proof/Machine/Operands.lean ====
section
/-! DEFINITION. Operand forms: packet fields and legality (05 R152 to R186), request fields (04 R141, R143), window and
descriptor fields (03 R110, 09 R285, R290), container headers (07 R222 to R224), handles and tokens (02 R57, 11 R348). -/

namespace Sys2Proof.Machine

/-! ### Status codes and refusals (05 R160, 04 R142) -/

def stOk : Nat := 0x00
def stReplayed : Nat := 0x01
def stCancelled : Nat := 0x02
def stBroken : Nat := 0x10
def stWindow : Nat := 0x11
def stHandle : Nat := 0x12
def stProgram : Nat := 0x13
def stTrap : Nat := 0x14
def stTimeout : Nat := 0x15
def stOverrun : Nat := 0x16
def stDouble : Nat := 0x17
def stDegraded : Nat := 0x20
def stNotReady : Nat := 0x21
def stVersion : Nat := 0x30
def stRefused : Nat := 0x31

/-- Statuses that put a queue in error (02 R63). -/
def isFailure (s : Nat) : Bool := (0x10 ≤ s && s ≤ 0x17) || s == 0x20

/-! ### Handles (02 R57) -/

def hType (h : Handle) : Nat := bits h.toNat 31 28
def hReuse (h : Handle) : Nat := bits h.toNat 27 20
def hIndex (h : Handle) : Nat := bits h.toNat 19 0

def mkHandle (ty reuse idx : Nat) : Handle := BitVec.ofNat 32 (field ty 28 4 + field reuse 20 8 + field idx 0 20)

/-- Token of 11 R348. -/
def mkToken (reuse idx : Nat) : W32 := BitVec.ofNat 32 (0xA0000000 + field reuse 14 8 + field idx 0 14)

/-! ### Packets -/

/-- The bits of a packet: bit b of cell c is bit 128 c + b (05 Model). -/
def pkNat : List W128 → Nat
  | [] => 0
  | c :: cs => c.toNat + pow2 128 * pkNat cs

def Cmd.bits (k : Cmd) : Nat := pkNat k.cells

def opcodeOf (p : Nat) : Nat := bits p 7 0
def lenOf (p : Nat) : Nat := bits p 15 8
def tagOf (p : Nat) : W16 := BitVec.ofNat 16 (bits p 47 32)
def Cmd.opcode (k : Cmd) : Nat := opcodeOf k.bits
def Cmd.tag (k : Cmd) : W16 := tagOf k.bits
def Cmd.statusFlag (k : Cmd) : Bool := bit k.bits 16
def Cmd.specOk (k : Cmd) : Bool := bit k.bits 17
def Cmd.beatFlag (k : Cmd) : Bool := bit k.bits 18
def Cmd.fenceFlag (k : Cmd) : Bool := bit k.bits 19

/-- Opcodes (05 R162). -/
def opNop : Nat := 0x00
def opTag : Nat := 0x01
def opQuery : Nat := 0x02
def opLaunch : Nat := 0x10
def opList : Nat := 0x11
def opReplayList : Nat := 0x12
def opWait : Nat := 0x20
def opSignal : Nat := 0x21
def opGroom : Nat := 0x30
def opOutride : Nat := 0x31
def opScalar : Nat := 0x40
def opReduce : Nat := 0x41
def opBranch : Nat := 0x50
def opLoopBegin : Nat := 0x51
def opLoopEnd : Nat := 0x52
def opBeatMark : Nat := 0x60
def opFreeze : Nat := 0x61
def opRetain : Nat := 0x70
def opRelease : Nat := 0x71
def opBreakOn : Nat := 0x7E
def opBisect : Nat := 0x7F

def opDefined (o : Nat) : Bool :=
  [0x00, 0x01, 0x02, 0x10, 0x11, 0x12, 0x20, 0x21, 0x30, 0x31, 0x40, 0x41, 0x50, 0x51, 0x52, 0x60, 0x61, 0x70, 0x71, 0x7E, 0x7F].contains o

/-- LEN that the fields require; none for NOP, whose range is 1 to 255. -/
def opLen (p : Nat) : Option Nat :=
  let o := opcodeOf p
  if o == opNop then none
  else if o == opLaunch then some (1 + ceilDiv (bits p 102 96) 2)
  else if o == opReplayList then some (2 + bits p 102 96)
  else if o == opTag || o == opLoopEnd || o == opBeatMark || o == opFreeze || o == opRetain || o == opRelease || o == opBisect then some 1
  else if o == opGroom then some 3
  else if o == opOutride then some 4
  else some 2

def opSpecOk (o : Nat) : Bool :=
  [0x00, 0x01, 0x02, 0x10, 0x20, 0x21, 0x30, 0x31, 0x40, 0x41, 0x50, 0x51, 0x52].contains o
def opBeat (o : Nat) : Bool := [0x10, 0x11, 0x12, 0x30, 0x31, 0x41].contains o
def opInRing (o : Nat) : Bool := !([0x50, 0x51, 0x52].contains o)
def opInList (o : Nat) : Bool := !([0x11, 0x12, 0x7E, 0x7F].contains o)

/-- A start of "fence" in the opcode table. -/
def opFence (o : Nat) : Bool := o == opSignal || o == opReduce

/-- Opcodes that use an engine (05 R159): the four, but for REDUCE_TO_SCALAR with ROP FLAGS. -/
def usesEngine (p : Nat) : Bool :=
  let o := opcodeOf p
  o == opLaunch || o == opGroom || o == opOutride || (o == opReduce && bits p 66 64 != 6)

/-- Argument entry i of a launch (05 R164). -/
def argOf (p i : Nat) : Nat := bits p (128 + 64 * i + 63) (128 + 64 * i)

def mask (hi lo : Nat) : Nat := (pow2 (hi + 1 - lo) - 1) <<< lo

/-- Patch entry j of a REPLAY_LIST (05 R175). -/
def patchOf (p j : Nat) : Nat := bits p (128 * (2 + j) + 127) (128 * (2 + j))

/-- The bits that a packet may set (05 R163); every other bit is reserved. -/
def opAllowed (p : Nat) : Nat :=
  let o := opcodeOf p
  let h := mask 19 0 ||| mask 47 32
  if o == opNop then h ||| mask 127 64 ||| (mask 40959 128)
  else if o == opQuery then
    h ||| mask 71 64 ||| mask 159 96 ||| (if bits p 71 64 ≤ 1 then mask 255 198 else mask 255 196)
  else if o == opLaunch then
    (List.range (bits p 102 96)).foldl (fun a i =>
      a ||| (mask 63 60 ||| (if bits (argOf p i) 63 62 == 3 then mask 5 0 else mask 31 0)) <<< (128 + 64 * i))
      (h ||| mask 102 64)
  else if o == opList then h ||| mask 95 64 ||| mask 191 132
  else if o == opReplayList then
    (List.range (bits p 102 96)).foldl (fun a j =>
      a ||| (mask 73 72 ||| mask 69 64 ||| (if bits (patchOf p j) 73 72 == 0 then mask 63 0 else mask 31 0)) <<< (128 * (2 + j)))
      (h ||| mask 102 64 ||| mask 191 132)
  else if o == opWait then h ||| mask 127 64 ||| (if bit p 192 then mask 133 128 else mask 191 128) ||| mask 192 192
  else if o == opSignal then h ||| mask 95 64 ||| (if bit p 192 then mask 133 128 else mask 191 128) ||| mask 192 192
  else if o == opGroom then h ||| mask 70 64 ||| mask 83 72 ||| mask 127 96 ||| mask 247 128 ||| mask 287 256
  else if o == opOutride then
    h ||| mask 66 64 ||| (if bits p 66 64 == 1 then mask 73 67 else 0) ||| mask 77 74 ||| mask 255 128
      ||| (if bit p 76 then mask 261 256 else mask 319 256) ||| (if bit p 77 then mask 325 320 else mask 383 320)
      ||| (if bits p 66 64 == 0 && (bit p 74 || bit p 75) then mask 399 384 else 0)
      ||| (if bits p 66 64 == 0 then 0 else mask 447 400)
  else if o == opScalar then h ||| mask 96 64 ||| (if bit p 96 then mask 191 128 else 0)
  else if o == opReduce then h ||| mask 66 64 ||| mask 79 72 ||| (if bits p 66 64 == 6 then 0 else mask 159 128)
  else if o == opBranch then h ||| mask 84 64 ||| mask 127 96 ||| (if bit p 80 then mask 191 128 else 0)
  else if o == opLoopBegin then h ||| (if bit p 72 then mask 191 128 else mask 71 64) ||| mask 72 72 ||| mask 127 96
  else if o == opLoopEnd then h ||| mask 127 96
  else if o == opBeatMark then h ||| mask 71 64
  else if o == opFreeze then h ||| mask 64 64
  else if o == opRetain || o == opRelease then h ||| mask 95 64
  else if o == opBreakOn then
    h ||| mask 65 64 ||| (if bits p 65 64 == 2 then mask 95 80 else 0) ||| (if bits p 65 64 == 1 then mask 191 128 else 0)
  else if o == opBisect then h ||| mask 96 96 ||| (if bit p 96 then 0 else mask 95 64)
  else h

/-- A reserved enumeration value (05 R163). COUNT 0 of a DEBUG_BREAK_ON with MODE 1 is taken for one: the table gives its range and no
DETAIL (the model's choice, log 85). -/
def opBadEnum (p : Nat) : Bool :=
  let o := opcodeOf p
  if o == opQuery then bits p 71 64 > 3
  else if o == opReplayList then (List.range (bits p 102 96)).any (fun j => bits (patchOf p j) 73 72 == 3)
  else if o == opGroom then bits p 65 64 == 3 || bits p 67 66 == 3
  else if o == opOutride then
    bits p 66 64 > 3 || (bit p 74 && bit p 75) || ((bit p 74 || bit p 75) && bits p 66 64 != 0)
      || (bits p 66 64 == 1 && (bits p 69 67 > 2 || !([0, 1, 2, 6, 8].contains (bits p 73 70))))
  else if o == opScalar then bits p 71 64 > 0x13
  else if o == opReduce then bits p 66 64 == 7
  else if o == opBeatMark then bits p 71 64 == 0
  else if o == opBreakOn then bits p 65 64 == 3 || (bits p 65 64 == 1 && bits p 191 128 == 0)
  else false

/-- Whether the packet takes a value from a parameter slot (05 R182). -/
def opUsesParam (p : Nat) : Bool :=
  let o := opcodeOf p
  if o == opLaunch then (List.range (bits p 102 96)).any (fun i => bits (argOf p i) 63 62 == 3)
  else if o == opWait || o == opSignal then bit p 192
  else if o == opOutride then bit p 76 || bit p 77
  else false

/-- The parameter slots named in a packet, with whether TYPE 0 is required (05 R182). -/
def opParamSlots (p : Nat) : List (Nat × Bool) :=
  let o := opcodeOf p
  if o == opLaunch then
    (List.range (bits p 102 96)).filterMap (fun i => if bits (argOf p i) 63 62 == 3 then some (argOf p i % 64, false) else none)
  else if o == opWait || o == opSignal then (if bit p 192 then [(bits p 133 128, true)] else [])
  else if o == opOutride then
    (if bit p 76 then [(bits p 261 256, true)] else []) ++ (if bit p 77 then [(bits p 325 320, true)] else [])
  else []

/-- What the legality of a packet depends on beside its bits. -/
structure LegalEnv where
  inList : Bool
  pastEnd : Bool
  params : List Param
  tenant : Nat
  features : W128
  pf0Features : W128
  hasBeat : Bool
  /-- R353: a member that is not the root must name the null handle in the field its operation does not use -/
  row : Nat
  col : Nat
  deriving DecidableEq, Repr

def featSpec : Nat := 0
def featLazy : Nat := 1
def featStoch : Nat := 2
def featBeatExt : Nat := 3
def featDebug : Nat := 4
def featTrace : Nat := 5
def featErrRing : Nat := 6
def featFreeze : Nat := 7
def featLive : Nat := 8
def featColl : Nat := 9
def featE5inf : Nat := 10

def hasFeat (f : W128) (n : Nat) : Bool := bit f.toNat n

/-- R353: fields that must be the null handle on this member. -/
def badNull (e : LegalEnv) (p : Nat) : Bool :=
  let oop := bits p 66 64
  let root := bits p 447 440 == e.row && bits p 439 432 == e.col
  opcodeOf p == opOutride && !root && ((oop == 2 && bits p 159 128 != 0) || ((oop == 1 || oop == 3) && bits p 191 160 != 0))

/-- The lowest DETAIL code of the legality conditions that fail (05 R153); none when the packet is legal. A packet that runs
past the end of its list body is judged by its header (log 11). NPATCH above 64 is given 0x07, as NARG is: 05 R163 gives its range
and no DETAIL (the model's choice, log 85). -/
def illegalDetail (e : LegalEnv) (p : Nat) : Option Nat :=
  let o := opcodeOf p
  let badLen := lenOf p == 0 || (match opLen p with | some n => lenOf p != n | none => false)
  let conds : List (Nat × Bool) :=
    [(0x01, !opDefined o),
     (0x02, badLen),
     (0x03, (bit p 17 && !opSpecOk o) || (bit p 18 && !opBeat o)),
     (0x04, p != (p &&& opAllowed p) || opBadEnum p || badNull e p),
     (0x05, (if e.inList then !opInList o else !opInRing o || opUsesParam p) || (o == opFreeze && e.tenant != 0)),
     (0x06, e.pastEnd),
     (0x07, ((o == opLaunch || o == opReplayList) && bits p 102 96 > 64)
        || (e.inList && (opParamSlots p).any (fun x => e.params.length ≤ x.1))),
     (0x0B, e.inList && (opParamSlots p).any (fun x => x.2 && (match e.params[x.1]? with | some v => v.type != 0 | none => false))),
     (0x0D, ((o == opBreakOn || o == opBisect) && !hasFeat e.features featDebug)
        || (o == opOutride && bits p 66 64 != 0 && bits p 66 64 ≤ 3 && !hasFeat e.features featColl)
        || (o == opFreeze && !hasFeat e.pf0Features featFreeze)),
     (0x0E, (bit p 18 || o == opBeatMark) && !e.hasBeat)]
  (conds.find? (fun x => x.2)).map (fun x => x.1)

/-! ### Window entries (03 R110) -/

/-- The 256 bits of an entry as BRD_TCFG_WIN and TP_WIN read it. -/
def windowNat (w : Window) : Nat :=
  w.base.toNat + pow2 64 * w.size.toNat + pow2 128 * w.bar2Off.toNat
    + pow2 192 * (boolNat w.valid + 2 * boolNat w.host + 4 * boolNat w.bar2En + 8 * boolNat w.bar2Ro + field w.err 8 4 + 4096 * boolNat w.pending)

/-! ### Descriptors (09 R285, R290) -/

def dObject (d : W512) : Handle := BitVec.ofNat 32 (bits d.toNat 31 0)
def dBase (d : W512) : Nat := bits d.toNat 61 32
def dEtype (d : W512) : Nat := bits d.toNat 67 64
def dRank (d : W512) : Nat := bits d.toNat 71 68
def dBcast0 (d : W512) : Bool := bit d.toNat 72
def dBlocked (d : W512) : Bool := bit d.toNat 73
def dScaleBase (d : W512) : Nat := bits d.toNat 109 80
def dSize (d : W512) (k : Nat) : Nat := bits d.toNat (147 + 20 * k) (128 + 20 * k)
/-- STRIDE[k] for 1 ≤ k ≤ 7. -/
def dStride (d : W512) (k : Nat) : Nat := bits d.toNat (319 + 32 * (k - 1)) (288 + 32 * (k - 1))
def dL1N (d : W512) : Nat := bits d.toNat 289 288
def dL2N (d : W512) : Nat := bits d.toNat 291 290
def dL1Dim (d : W512) (j : Nat) : Nat := bits d.toNat (294 + 3 * j) (292 + 3 * j)
def dL2Dim (d : W512) (j : Nat) : Nat := bits d.toNat (303 + 3 * j) (301 + 3 * j)
def dL1Ext (d : W512) (j : Nat) : Nat := bits d.toNat (335 + 16 * j) (320 + 16 * j)
def dL2Ext (d : W512) (j : Nat) : Nat := bits d.toNat (399 + 16 * j) (384 + 16 * j)
def dBits (d : W512) : Nat := etypeBits (dEtype d)

/-- Extent named for dimension `k` among n slots, or 1 (09 R291). -/
def extOf (n : Nat) (dim ext : Nat → Nat) (k : Nat) : Nat :=
  match (List.range n).find? (fun j => dim j == k) with
  | some j => ext j
  | none => 1

def dT (d : W512) (k : Nat) : Nat := extOf (dL1N d) (dL1Dim d) (dL1Ext d) k
def dU (d : W512) (k : Nat) : Nat := extOf (dL2N d) (dL2Dim d) (dL2Ext d) k

/-- Mixed-radix number, slot 0 least significant. -/
def mixedRadix : List (Nat × Nat) → Nat
  | [] => 0
  | (digit, radix) :: r => digit + radix * mixedRadix r

/-- Flat index (09 R286). -/
def flatIndex (sizes idx : List Nat) : Nat := mixedRadix (idx.zip sizes)

/-- The logical index whose flat index is `n`. -/
def unflat : List Nat → Nat → List Nat
  | [], _ => []
  | s :: r, n => n % s :: unflat r (n / s)

def dSizes (d : W512) : List Nat := (List.range (dRank d)).map (dSize d)

def nth (l : List Nat) (k : Nat) : Nat := l.getD k 0

/-- Element offset of a logical index (09 R287, R291). -/
def elemOffset (d : W512) (idx : List Nat) : Nat :=
  if dBlocked d then
    let dims := List.range (dRank d)
    let grid := dims.map (fun k => dSize d k / (dT d k * dU d k))
    let p := flatIndex grid (dims.map (fun k => nth idx k / (dT d k * dU d k)))
    let n1 := (dims.map (dT d)).foldl (· * ·) 1
    let n2 := (dims.map (dU d)).foldl (· * ·) 1
    let e2 := mixedRadix ((List.range (dL2N d)).map (fun j => ((nth idx (dL2Dim d j) / dT d (dL2Dim d j)) % dL2Ext d j, dL2Ext d j)))
    let e1 := mixedRadix ((List.range (dL1N d)).map (fun j => (nth idx (dL1Dim d j) % dL1Ext d j, dL1Ext d j)))
    p * n1 * n2 + e2 * n1 + e1
  else
    (if dBcast0 d then 0 else nth idx 0) + ((List.range (dRank d)).drop 1).foldl (fun a k => a + dStride d k * nth idx k) 0

/-- Number of elements. -/
def elemCount (d : W512) : Nat := (dSizes d).foldl (· * ·) 1

/-- Byte of an element in its object or half. -/
def elemByte (d : W512) (idx : List Nat) : Nat := dBase d * 64 + elemOffset d idx * dBits d / 8

/-- Scale byte of an E2M1 element (09 R289). -/
def scaleByte (d : W512) (idx : List Nat) : Nat := dScaleBase d * 64 + elemOffset d idx / 32

/-- A broadcast descriptor (09 R292). -/
def dBroadcast (d : W512) : Bool :=
  dBcast0 d || (!dBlocked d && ((List.range (dRank d)).drop 1).any (fun k => dStride d k == 0 && dSize d k > 1))

/-- The greatest element offset (09 R294); the tensor has an element. -/
def maxOffset (d : W512) : Nat :=
  if dBlocked d then elemCount d - 1
  else (if dBcast0 d then 0 else dSize d 0 - 1)
    + ((List.range (dRank d)).drop 1).foldl (fun a k => a + dStride d k * (dSize d k - 1)) 0

/-- One past the last byte of the tensor's elements (09 R294). -/
def tensorEnd (d : W512) : Nat :=
  if elemCount d == 0 then dBase d * 64 else dBase d * 64 + ceilDiv ((maxOffset d + 1) * dBits d) 8

/-- The blocking field breaks 09 R290. -/
def badBlocking (d : W512) : Bool :=
  let n1 := dL1N d
  let n2 := dL2N d
  let d1 := (List.range n1).map (dL1Dim d)
  let d2 := (List.range n2).map (dL2Dim d)
  let r := dRank d
  n1 == 0 || nth d1 0 != 0 || !decide d1.Nodup || !decide d2.Nodup || d1.any (fun k => r ≤ k) || d2.any (fun k => r ≤ k)
    || (List.range n1).any (fun j => dL1Ext d j == 0) || (List.range n2).any (fun j => dL2Ext d j == 0)
    || ((List.range 3).drop n1).any (fun j => dL1Dim d j != 0 || dL1Ext d j != 0)
    || ((List.range 3).drop n2).any (fun j => dL2Dim d j != 0 || dL2Ext d j != 0)
    || (List.range r).any (fun k => dSize d k % (dT d k * dU d k) != 0)
    || (dL1Ext d 0 * dBits d) % 512 != 0 || dBcast0 d

/-- Reserved bits of a descriptor, or a SCALE_BASE outside E2M1 (09 R285, code 0x0303). -/
def badReserved (d : W512) : Bool :=
  bits d.toNat 63 62 != 0 || bits d.toNat 79 74 != 0 || bits d.toNat 127 110 != 0 || (dEtype d != 5 && dScaleBase d != 0)
    || (dBlocked d && (bits d.toNat 511 432 != 0 || bits d.toNat 383 368 != 0 || bits d.toNat 319 310 != 0))

/-- RANK, and sizes and strides at or above it (code 0x0302). -/
def badRank (d : W512) : Bool :=
  dRank d == 0 || dRank d > 8 || ((List.range 8).drop (dRank d)).any (fun k => dSize d k != 0 || (!dBlocked d && k != 0 && dStride d k != 0))

/-- The 4-bit stride rule (09 R288, code 0x0305). -/
def badStride (d : W512) : Bool :=
  !dBlocked d && ((List.range (dRank d)).drop 1).any (fun k =>
    (dEtype d == 7 && dStride d k % 2 != 0) || (dEtype d == 5 && dStride d k % 32 != 0))

/-- Every logical index of a tensor, in ascending flat index. -/
def indices (d : W512) : List (List Nat) := (List.range (elemCount d)).map (unflat (dSizes d))

/-- The scale bytes that a descriptor reaches, and the bytes its elements occupy (09 R289). -/
def reachedScales (d : W512) : List Nat := (indices d).map (scaleByte d)
def elementBytes (d : W512) : List Nat := (indices d).map (elemByte d)

/-! ### Containers (07 R222 to R224) -/

def cTeams (h : List Byte) : Nat := leAt h 0x14 1
def cNargDecl (h : List Byte) : Nat := leAt h 0x15 1
def cFlags (h : List Byte) : Nat := leAt h 0x14 4
def cSpecSafe (h : List Byte) : Bool := bit (cFlags h) 16
def cStoch (h : List Byte) : Bool := bit (cFlags h) 17
def cE5inf (h : List Byte) : Bool := bit (cFlags h) 18
def cTrapMask (h : List Byte) : BitVec 5 := BitVec.ofNat 5 (leAt h 0x18 4)
def cScratch (h : List Byte) : Nat := leAt h 0x20 4
def cCarried (h : List Byte) : Nat := leAt h 0x24 4
def cStackLo (h : List Byte) : Nat := leAt h 0x28 4
def cStackHi (h : List Byte) : Nat := leAt h 0x2C 4
def cVersion (h : List Byte) : Nat := leAt h 4 4

/-- The scalar slots of a 256-bit map at byte `off`, ascending. -/
def slotMap (h : List Byte) (off : Nat) : List Nat := (List.range 256).filter (fun s => bit (leAt h off 32) s)
def cSlotIn (h : List Byte) : List Nat := slotMap h 0x40
def cSlotOut (h : List Byte) : List Nat := slotMap h 0x60
/-- Argument declaration i as a number (07 R223). -/
def cDecl (h : List Byte) (i : Nat) : Nat := leAt h (0x100 + 32 * i) 32

/-- An argument declaration breaks 07 R224 (code 0x0106). -/
def badDecl (d : Nat) : Bool :=
  let k := bits d 1 0
  let dir := bits d 5 4
  k == 3 || (k ≤ 1 && dir == 0) || (k == 2 && (dir != 0 || bits d 191 128 > bits d 255 192)) || (k ≤ 1 && bits d 255 128 != 0)
    || (k != 0 && bits d 17 8 != 0)
    || (k == 0 && ((!bit d 16 && bits d 15 12 > 8) || (bit d 16 && bits d 15 12 != 0)
        || (!bit d 17 && (bits d 11 8 == 0 || bits d 11 8 > 8)) || (bit d 17 && bits d 11 8 != 0)))

/-- The lowest body code that applies (07 R226, R231); 0x209 is a matter of containers that set SPEC_SAFE. -/
def bodyCode (b : List Byte) : Option Nat :=
  ((List.range 11).map (fun i => 0x201 + i)).find? (fun n => Config.bodyBreaks b n && (n != 0x209 || cSpecSafe b))

/-- The rejection code of a container of which `len` bytes were named (07 R226, R231), or none. `cvers` is what the CTT lists. -/
def containerVerdict (cvers : List W32) (features : W128) (b : List Byte) (len : Nat) : Option Nat :=
  let n := cNargDecl b
  let decls := (List.range n).map (cDecl b)
  let conds : List (Nat × Bool) :=
    [(0x101, leAt b 0 4 != 0x54534C43),
     (0x102, !(cvers.any (fun v => v.toNat == cVersion b))),
     (0x103, leAt b 8 4 != 256 + 32 * n || leAt b 8 4 + leAt b 0xC 4 != len || n > 64 || leAt b 0xC 4 < 16
        || leAt b 0xC 4 > 67108864 || leAt b 0xC 4 % 16 != 0),
     (0x104, cFlags b / 524288 != 0 || leAt b 0x18 4 / 32 != 0 || leAt b 0x1C 4 != 0 || !zerosAt b 0x30 16 || !zerosAt b 0x80 128
        || decls.any (fun d => bits d 127 18 != 0 || bits d 7 6 != 0 || bits d 3 2 != 0)),
     (0x105, cTeams b == 0 || cTeams b > 40 || cScratch b > 1572864 || cScratch b % 64 != 0 || cCarried b % 64 != 0
        || cStackLo b % 64 != 0 || cStackHi b % 64 != 0 || cCarried b > cStackLo b || cStackLo b ≥ cStackHi b
        || cStackHi b > cScratch b || cStackHi b - cStackLo b < 256),
     (0x106, decls.any badDecl),
     (0x107, (cStoch b && !hasFeat features featStoch) || (cE5inf b && !hasFeat features featE5inf)),
     (0x108, crc32c (zeroAt b 0x10 4) != leAt b 0x10 4)]
  match conds.find? (fun x => x.2) with
  | some x => some x.1
  | none => bodyCode b

/-! ### Requests (04 R141) -/

/-- A taken request: the entry as a number. -/
def rqOp (r : Nat) : Nat := bits r 7 0
def rqTag (r : Nat) : W16 := BitVec.ofNat 16 (bits r 31 16)

/-- The bits of ARGS that an operation defines (04 R143 and the chapters that extend it). OWNER is listed in `rqOwnerBit`. -/
def rqAllowed (op r : Nat) : Nat :=
  if op == 0x01 then mask 95 64 ||| mask 255 128
  else if op == 0x10 then mask 65 64 ||| mask 71 68
  else if op == 0x11 then mask 159 64 ||| mask 324 192 ||| mask 332 328
  else if op == 0x12 then mask 65 64 ||| mask 77 72 ||| mask 191 96 ||| (if bit r 64 then mask 255 192 else 0)
  else if op == 0x13 then mask 127 64
  else if op == 0x14 then 0
  else if op == 0x15 then mask 202 64
  else if op == 0x16 then mask 255 64
  else if op == 0x17 then mask 99 64
  else if op == 0x18 || op == 0x19 || op == 0x24 then mask 95 64 ||| mask 196 128
  else if op == 0x1A then mask 99 64 ||| mask 191 128
  else if op == 0x1B then mask 67 64 ||| (if bits r 67 64 == 0 then 0 else mask (95 + 32 * bits r 67 64) 96)
  else if op == 0x1C then mask 97 64
  else if op == 0x1D then mask 95 64
  else if op == 0x1E then mask 65 64 ||| mask 71 71 ||| (if bit r 71 then 0 else mask 82 72) ||| mask 127 96
  else if op == 0x1F then mask 75 64 ||| mask 87 80
  else if op == 0x20 then mask 68 64 ||| mask 74 72 ||| mask 127 96
  else if op == 0x21 then mask 75 64 ||| mask 90 80 ||| mask 136 96 ||| mask 152 144
  else if op == 0x22 then mask 95 64 ||| mask 203 128 ||| mask 220 208 ||| mask 224 224
  else if op == 0x23 then mask 64 64
  else if op == 0x25 then mask 71 64 ||| mask 127 96 ||| mask 151 128
  else if op == 0x40 || op == 0x41 || op == 0x42 then mask 95 64
  else if op == 0x43 || op == 0x60 then mask 72 64
  else if op == 0x44 then mask 64 64 ||| mask 70 68
  else if op == 0x45 then mask 68 64
  else if op == 0x50 then mask 65 64 ||| mask 255 128
  else if op == 0x51 then mask 65 64
  else if op == 0x53 then mask 64 64
  else if op == 0x58 then mask 111 64
  else if op == 0x61 then mask 66 64 ||| mask 76 72
  else if op == 0x70 then mask 68 64 ||| mask 191 96
  else if op == 0x71 then mask 67 64
  else if op == 0x78 then mask 95 64 ||| mask 191 128
  else if op == 0x79 || op == 0x7B then mask 65 64
  else if op == 0x7A then mask 72 64
  else 0

/-- Lowest bit of OWNER, for the operations that have one. -/
def rqOwnerBit (op : Nat) : Option Nat :=
  if op == 0x10 || op == 0x1B || op == 0x25 then some 72
  else if op == 0x12 then some 80
  else if op == 0x13 || op == 0x1E then some 128
  else if op == 0x14 then some 64
  else if op == 0x16 then some 256
  else if op == 0x1A then some 104
  else if op == 0x1C then some 98
  else if op == 0x1D then some 96
  else if op == 0x1F then some 88
  else none

/-- Reserved enumeration values in requests. -/
def rqBadEnum (op r : Nat) : Bool :=
  if op == 0x10 then bits r 71 68 > 7 && bits r 71 68 != 0xF
  else if op == 0x17 then bits r 99 96 > 7 && bits r 99 96 != 0xF
  else if op == 0x1E then bits r 65 64 == 3
  else if op == 0x20 then bits r 74 72 == 7
  else if op == 0x50 || op == 0x51 then bits r 65 64 == 3
  else if op == 0x44 then (if bit r 64 then bits r 70 68 > 7 else bits r 70 68 > 3)
  else false

/-- Every defined OP. -/
def rqDefined (op : Nat) : Bool :=
  op == 0x01 || (0x10 ≤ op && op ≤ 0x25) || (0x40 ≤ op && op ≤ 0x47) || (0x50 ≤ op && op ≤ 0x53) || op == 0x58 || op == 0x60
    || op == 0x61 || op == 0x70 || op == 0x71 || (0x78 ≤ op && op ≤ 0x7B)

/-- Operations that only PF0 may issue (REFUSED, DETAIL 0x0004, through a VF). -/
def rqPf0Only (op : Nat) : Bool :=
  op == 0x20 || op == 0x23 || op == 0x43 || op == 0x44 || op == 0x45 || op == 0x47 || (0x50 ≤ op && op ≤ 0x6F) || op == 0x70
    || op == 0x71 || (0x78 ≤ op && op ≤ 0x7B)

/-- A non-zero reserved field or a reserved value (04 R142), OWNER being reserved through a VF. -/
def rqIllegal (fn r : Nat) : Bool :=
  let op := rqOp r
  let own := match rqOwnerBit op with | some b => if fn == 0 then mask (b + 4) b else 0 | none => 0
  let ok := mask 7 0 ||| mask 31 16 ||| rqAllowed op r ||| own
  r != (r &&& ok) || rqBadEnum op r

/-- Owning tenant of a request. -/
def rqOwner (fn r : Nat) : Nat :=
  match rqOwnerBit (rqOp r) with
  | some b => if fn == 0 then bits r (b + 4) b else fn
  | none => fn

end Sys2Proof.Machine
end

