-- ==== Sys2Proof/Machine/Ops.lean ====
section
/-! DEFINITION. The shared operations on the chip part: accessors, outputs, interrupt sources, counters, device memory,
windows, handles, references and destruction, record rings, error and trace records. -/

namespace Sys2Proof.Machine

/-! ### Accessors -/

def tenantOf (c : Chip) (t : Nat) : Tenant := (tget c.tenants t).getD (Tenant.reset t)
def setTenant (c : Chip) (t : Nat) (x : Tenant) : Chip := { c with tenants := tset c.tenants t x }
def modTenant (c : Chip) (t : Nat) (f : Tenant → Tenant) : Chip := setTenant c t (f (tenantOf c t))
def setQueue (c : Chip) (q : Nat) (x : Queue) : Chip := { c with queues := tset c.queues q x }
def modQueue (c : Chip) (q : Nat) (f : Queue → Queue) : Chip :=
  match tget c.queues q with | some x => setQueue c q (f x) | none => c
def modContext (c : Chip) (k : Nat) (f : Context → Context) : Chip :=
  match tget c.contexts k with | some x => { c with contexts := tset c.contexts k (f x) } | none => c
def modMem (c : Chip) (m : Nat) (f : MemObj → MemObj) : Chip :=
  match tget c.mems m with | some x => { c with mems := tset c.mems m (f x) } | none => c
def modHitch (c : Chip) (h : Nat) (f : Hitch → Hitch) : Chip :=
  match tget c.hitches h with | some x => { c with hitches := tset c.hitches h (f x) } | none => c
def modEvent (c : Chip) (e : Nat) (f : Event → Event) : Chip :=
  match tget c.events e with | some x => { c with events := tset c.events e (f x) } | none => c
def modCmd (x : Queue) (seq : Nat) (f : Cmd → Cmd) : Queue :=
  { x with cmds := x.cmds.map (fun k => if k.seq == seq then f k else k) }
def updCmd (c : Chip) (q seq : Nat) (f : Cmd → Cmd) : Chip := modQueue c q (fun x => modCmd x seq f)
def cmdOf (c : Chip) (q seq : Nat) : Option Cmd := (tget c.queues q).bind (fun x => x.cmds.find? (fun k => k.seq == seq))

/-- Features agreed by tenant t; none before negotiation. -/
def featuresOf (c : Chip) (t : Nat) : W128 := match (tenantOf c t).agreed with | some a => a.features | none => 0
def negotiated (c : Chip) (t : Nat) : Bool := (tenantOf c t).agreed.isSome

/-- The device executes commands (00 R19). -/
def isUp (c : Chip) : Bool := c.dev == .ready || c.dev == .walk

/-- Something leaves the chip. -/
def emit (c : Chip) (o : Output) : Chip := { c with out := c.out ++ [o] }

/-- A crossing that is a dual-clock queue (01 R37): entries, bytes of an entry, instances. -/
structure Crossing where
  depth : Nat
  width : Nat
  instances : Nat
  deriving DecidableEq, Repr

def crossings : List (Nat × Crossing) :=
  [(1, ⟨64, 64, 1⟩), (2, ⟨32, 16, 1⟩), (3, ⟨32, 64, 1⟩), (4, ⟨128, 64, 1⟩), (5, ⟨128, 64, 1⟩), (6, ⟨32, 64, 336⟩), (7, ⟨32, 64, 336⟩),
   (8, ⟨64, 64, 8⟩), (9, ⟨64, 64, 8⟩), (10, ⟨32, 256, 4⟩), (11, ⟨32, 256, 4⟩), (12, ⟨4, 8, 7⟩), (13, ⟨4, 16, 4⟩), (14, ⟨16, 4, 1⟩),
   (15, ⟨8, 8, 1⟩), (16, ⟨8, 8, 1⟩), (17, ⟨4, 8, 1⟩), (18, ⟨4, 8, 1⟩), (24, ⟨4, 8, 1⟩)]

def crossing (n : Nat) : Option Crossing := tget crossings n

def sumBy {α : Type} (f : α → Nat) (l : List α) : Nat := l.foldl (fun a x => a + f x) 0

/-- Entries of crossing 4 that a request takes: one, or one for each 64 bytes of its data (log 88). -/
def entriesOf : Output → Nat
  | .hostWrite _ _ d _ _ => max 1 (ceilDiv d.length 64)
  | _ => 1

/-- Entries that wait in crossing 4. -/
def waiting4 (c : Chip) : Nat := sumBy entriesOf c.heldOut

/-- The producers of crossing 4 hold `n` credits, if they need any: one for each free entry (01 R39). -/
def hostRoom (c : Chip) (n : Nat) : Bool := c.linkUp || n == 0 || waiting4 c + n ≤ 128

/-- A device-issued request leaves over crossing 4, or waits there while the link is down (03 R96). Its producer has asked `hostRoom`. -/
def emitHost (c : Chip) (o : Output) : Chip :=
  if c.linkUp then { c with out := c.out ++ [o] } else { c with heldOut := c.heldOut ++ [o] }

/-- Max Payload Size and read request size that function fn may use (03 R92). -/
def maxPayload (c : Chip) (fn : Nat) : Nat := min 512 (128 * pow2 (bits (tenantOf c fn).devCtl.toNat 7 5))
def maxRead (c : Chip) (fn : Nat) : Nat := min 4096 (128 * pow2 (bits (tenantOf c fn).devCtl.toNat 14 12))

/-- The parts of [a, a + n) between multiples of m: first address and length. -/
def parts (m a n : Nat) : List (Nat × Nat) :=
  if n == 0 then [] else (List.range ((a + n - 1) / m + 1 - a / m)).map (fun j =>
    (max a (m * (a / m + j)), min (a + n) (m * (a / m + j + 1)) - max a (m * (a / m + j))))

/-- Entries of crossing 4 for a write of [a, a + n). -/
def writeEntries (c : Chip) (fn a n : Nat) : Nat := sumBy (fun p => max 1 (ceilDiv p.2 64)) (parts (maxPayload c fn) a n)

/-- Write requests for [a, a + n) of host memory; an Outrider transfer's carry the attributes that the function enables (03 R95). -/
def hostWrites (c : Chip) (fn a : Nat) (bs : List Byte) (outrider : Bool) : Chip :=
  let ctl := (tenantOf c fn).devCtl.toNat
  (parts (maxPayload c fn) a bs.length).foldl (fun c p =>
    emitHost c (.hostWrite fn p.1 ((bs.drop (p.1 - a)).take p.2) (outrider && bit ctl 4) (outrider && bit ctl 11))) c

/-- Read requests for [a, a + n) of host memory. -/
def hostReads (c : Chip) (fn a n : Nat) : Chip := (parts (maxRead c fn) a n).foldl (fun c p => emitHost c (.hostRead fn p.1 p.2)) c

/-- An open choice among legal numbers: the free value if it is legal, else the first (log 6). -/
def pick (c : Chip) (legal : List Nat) : Option (Nat × Chip) :=
  let n := Config.freeNat c.free
  match legal with
  | [] => none
  | x :: _ => some (if legal.contains n then n else x, { c with free := c.free + 1 })

/-- A change of live CTT fields (03 R107, R109). -/
def raiseGen (c : Chip) : Chip := { c with ctt := { c.ctt with gen := c.ctt.gen + 1 } }

/-! ### Interrupt sources (12 R360 to R366) -/

def isPin (s : Nat) : Bool := 3 ≤ s && s ≤ 13

/-- Owner that a group register names: bit 5 ASSIGNED, bits 4:0 TENANT (12 R381, 15 R453). -/
def groupOwner (gs : Tab Nat) (g : Nat) : Option Nat :=
  match tget gs g with | some v => if bit v 5 then some (v % 32) else none | none => none

def srcOwner (c : Chip) (s : Nat) : Option Nat :=
  if s < 30 then some 0 else if s < 32 then none else if s < 64 then some (s - 32) else groupOwner c.rein.groups (s / 32)

def srcCfg (c : Chip) (s : Nat) : SrcCfg := (tget c.rein.cfg s).getD (SrcCfg.reset s)
def setCfg (c : Chip) (s : Nat) (x : SrcCfg) : Chip := { c with rein := { c.rein with cfg := tset c.rein.cfg s x } }

def pendCore (c : Chip) (s : Nat) : Chip := { c with rein := { c.rein with pendingCore := insertNat c.rein.pendingCore s } }
def pendHost (c : Chip) (s : Nat) : Chip := { c with rein := { c.rein with pendingHost := insertNat c.rein.pendingHost s } }
def unpendCore (c : Chip) (s : Nat) : Chip := { c with rein := { c.rein with pendingCore := removeNat c.rein.pendingCore s } }
def unpendHost (c : Chip) (s : Nat) : Chip := { c with rein := { c.rein with pendingHost := removeNat c.rein.pendingHost s } }

/-- One occurrence: it latches one pending occurrence on each enabled path (12 R366, R368, R372). A source with no owner is
never raised (12 R361). -/
def raiseSource (c : Chip) (s : Nat) : Chip :=
  if (srcOwner c s).isNone then c else
  let g := srcCfg c s
  let c := if g.coreEn then pendCore c s else c
  if g.hostEn then pendHost c s else c

/-- The source senses a level and that level is asserted (12 R364). -/
def levelAsserted (c : Chip) (s : Nat) : Bool :=
  let g := srcCfg c s
  let a := c.rein.levels.contains s
  isPin s && ((g.sense == 0 && a) || (g.sense == 1 && !a))

/-- A level source is pending on each enabled path that is not active, while it is asserted (12 R366). -/
def settleLevel (c : Chip) (s : Nat) : Chip :=
  let g := srcCfg c s
  if g.sense > 1 || !isPin s then c
  else if levelAsserted c s then
    let c := if g.coreEn && (tget c.rein.activeCore s).isNone then pendCore c s else c
    if g.hostEn && !c.rein.activeHost.contains s then pendHost c s else c
  else unpendHost (unpendCore c s) s

/-! ### Counters (15 R444 to R448) -/

def cntFix (c : Chip) (i n : Nat) : Chip :=
  if n == 0 then c else
  { c with counters := { c.counters with value := tset c.counters.value i ((tget c.counters.value i).getD 0 + BitVec.ofNat 64 n) } }

/-- Counter i takes the greater of its value and n (15 R444 counter 7). -/
def cntMax (c : Chip) (i n : Nat) : Chip :=
  if ((tget c.counters.value i).getD 0).toNat < n then
    { c with counters := { c.counters with value := tset c.counters.value i (BitVec.ofNat 64 n) } }
  else c

/-- Which programmable counters an event reaches: all, those marked speculative, or those not marked (15 R445). -/
inductive CntMode where
  | all | marked | unmarked
  deriving DecidableEq, Repr

def selHit (c : Chip) (owner ctx ev cl : Nat) (mode : CntMode) (i : Nat) (s : CounterSel) : Bool :=
  s.event == ev && groupOwner c.counters.groups (i / 32) == some owner && (!s.ctxFilter || s.ctx == ctx)
    && (!s.clFilter || (ev != 1 && ev != 2) || (s.clFirst ≤ cl && cl ≤ s.clLast))
    && (mode == .all || ((s.spec || ev == 2) == (mode == .marked)))

/-- `n` units of event `ev`, attributed to context `ctx` (15 R446, R447); `cl` is the logical cluster of a cluster-cycle. -/
def cntEv (c : Chip) (ctx ev cl n : Nat) (mode : CntMode) : Chip :=
  match tget c.contexts ctx with
  | none => c
  | some x => (c.counters.sel.filter (fun p => selHit c x.owner ctx ev cl mode p.1 p.2)).foldl (fun c p => cntFix c p.1 n) c

/-- An event of a command: a speculative command's unmarked counts wait for its commit point (15 R445). -/
def cntCmd (c : Chip) (q : Nat) (k : Cmd) (ctx ev cl n : Nat) : Chip :=
  if n == 0 then c
  else if k.spec.isNone then cntEv c ctx ev cl n .all
  else updCmd (cntEv c ctx ev cl n .marked) q k.seq (fun k =>
    { k with accrued := tset k.accrued (ev * 1024 + cl) ((tget k.accrued (ev * 1024 + cl)).getD 0 + n) })

/-- An unmarked fixed counter, for a command. -/
def cntCmdFix (c : Chip) (q : Nat) (k : Cmd) (i n : Nat) : Chip :=
  if k.spec.isNone then cntFix c i n
  else updCmd c q k.seq (fun k => { k with accrued := tset k.accrued (1048576 + i) ((tget k.accrued (1048576 + i)).getD 0 + n) })

/-- Bytes of [0, x) that lie on stack s (10 R304). -/
def stackShare (x s : Nat) : Nat := x / 32768 * 4096 + (min (x % 32768) (4096 * s + 4096) - min (x % 32768) (4096 * s))

/-- Per-stack HBM byte counters from fixed index `base` (64 read, 72 written). -/
def cntHbm (c : Chip) (base a n : Nat) : Chip :=
  (List.range 8).foldl (fun c s => cntFix c (base + s) (stackShare (a + n) s - stackShare a s)) c

/-! ### Device memory (10) -/

/-- Stack and channel of a device address (10 R304). -/
def stackOf (a : Nat) : Nat := (a / 4096) % 8
def channelOf (a : Nat) : Nat := (a / 32768) % 32

def Stack.reset : Stack := { spareFree := [0, 1], retired := [], migrating := [], dead := [], lost := [] }

def stackState (c : Chip) (s : Nat) : Stack := (tget c.memory.stackTab s).getD Stack.reset
def setStack (c : Chip) (s : Nat) (x : Stack) : Chip := { c with memory := { c.memory with stackTab := tset c.memory.stackTab s x } }

/-- A line of a channel that stopped answering, not written whole since then (10 R308). -/
def lineLost (x : Stack) (line : Nat) : Bool :=
  match tget x.lost (channelOf (line * 64)) with | some ws => !ws.contains line | none => false

/-- A poisoned line; the stripes of a channel retired without a spare read as poisoned (10 R309). -/
def linePoisoned (c : Chip) (line : Nat) : Bool :=
  c.memory.poison.contains line || (stackState c (stackOf (line * 64))).dead.contains (channelOf (line * 64))
    || lineLost (stackState c (stackOf (line * 64))) line

/-- Lines that [a, a + n) touches. -/
def linesOf (a n : Nat) : List Nat := if n == 0 then [] else (List.range ((a + n - 1) / 64 + 1 - a / 64)).map (fun i => a / 64 + i)

def firstPoisoned (c : Chip) (a n : Nat) : Option Nat := (linesOf a n).find? (linePoisoned c)

/-- HBM_BYTES (10 R306). -/
def hbmBytes (c : Chip) : Nat := if c.ctt.clmapValid then 0x3000000000 else 0

def MemObj.span (m : MemObj) : Nat := if m.double then 2 * m.size else m.size
def MemObj.covers (m : MemObj) (a : Nat) : Bool := m.kind == .device && m.addr ≤ a && a < m.addr + m.span
def MemObj.at (m : MemObj) (half off : Nat) : Nat := if m.double then m.addr + half * m.size + off else m.addr + off

/-- Two ranges share a byte. -/
def overlap (a n b m : Nat) : Bool := n != 0 && m != 0 && a < b + m && b < a + n

/-- An address of a lazy object's granule that is still pending reads as zero (10 R315). -/
def pendingByte (c : Chip) (a : Nat) : Bool :=
  c.mems.any (fun p => p.2.lazy && p.2.covers a && !p.2.filled.contains ((a - p.2.addr) / 65536))

def loadDev (c : Chip) (a n : Nat) : List Byte :=
  (List.range n).map (fun i => if pendingByte c (a + i) then 0 else readByte c.memory.hbm (a + i))

/-- Lines that [a, a + n) covers whole. -/
def wholeLines (a n : Nat) : List Nat := (linesOf a n).filter (fun l => a ≤ l * 64 && l * 64 + 64 ≤ a + n)

/-- A line written whole in a channel that stopped answering holds good data again (10 R308, R324). -/
def healLine (c : Chip) (line : Nat) : Chip :=
  let s := stackOf (line * 64)
  let x := stackState c s
  if lineLost x line then
    setStack c s { x with lost := x.lost.map (fun p => (p.1, if p.1 == channelOf (line * 64) then insertNat p.2 line else p.2)) }
  else c

/-- The poison of lines that [a, a + n) covers whole clears (10 R324). -/
def clearPoison (c : Chip) (a n : Nat) : Chip :=
  let whole := fun (l : Nat) => a ≤ l * 64 && l * 64 + 64 ≤ a + n
  let c := { c with memory := { c.memory with poison := c.memory.poison.filter (fun l => !whole l),
                                              detected := c.memory.detected.filter (fun l => !whole l) } }
  if c.memory.stackTab.any (fun p => !p.2.lost.isEmpty) then (wholeLines a n).foldl healLine c else c

/-- Zeroes a range that a fill covers; poison in it clears (10 R312, R324). -/
def zeroDev (c : Chip) (a n : Nat) : Chip :=
  clearPoison { c with memory := { c.memory with hbm := clearRange c.memory.hbm a (a + n) } } a n

/-- The fill of granule g of lazy object m, `n` bytes at `a`; counter 17 counts it (10 R315). -/
def fillAt (c : Chip) (m g a n : Nat) : Chip :=
  modMem (cntHbm (cntFix (zeroDev c a n) 17 1) 72 a n) m (fun x => { x with filled := insertNat x.filled g })

/-- Fills granule g of lazy object m, if it is pending. -/
def fillGranule (c : Chip) (m g : Nat) : Chip :=
  match tget c.mems m with
  | none => c
  | some x => if !x.lazy || x.filled.contains g then c else fillAt c m g (x.addr + g * 65536) 65536

/-- Ends the pending state of every granule that [a, a + n) touches. -/
def fillTouched (c : Chip) (a n : Nat) : Chip :=
  c.mems.foldl (fun c p =>
    if p.2.lazy && overlap a n p.2.addr p.2.span then
      let lo := (max a p.2.addr - p.2.addr) / 65536
      let hi := (min (a + n) (p.2.addr + p.2.span) - 1 - p.2.addr) / 65536
      (List.range (hi + 1 - lo)).foldl (fun c i => fillGranule c p.1 (lo + i)) c
    else c) c

/-- A write to the device address space that no counter sees: pending granules are filled first, and the poison of lines that it
covers whole clears (10 R315, R324). -/
def storeQuiet (c : Chip) (a : Nat) (bs : List Byte) : Chip :=
  if bs.isEmpty then c else
  let c := fillTouched c a bs.length
  clearPoison { c with memory := { c.memory with hbm := writeBytes c.memory.hbm a bs } } a bs.length

/-- A write to the device address space, counted for its stacks (15 R444). -/
def storeDev (c : Chip) (a : Nat) (bs : List Byte) : Chip := cntHbm (storeQuiet c a bs) 72 a bs.length

/-- The live DEVICE object that holds address a. -/
def objAt (c : Chip) (a : Nat) : Option (Nat × MemObj) := c.mems.find? (fun p => p.2.covers a)

/-- Bytes of an object's half; a program object has none here. -/
def objRead (c : Chip) (m half off n : Nat) : List Byte :=
  match tget c.mems m with | some x => loadDev c (x.at half off) n | none => []

def raiseStamp (c : Chip) (m : Nat) : Chip := modMem c m (fun x => { x with stamp := x.stamp + 1 })

/-! ### Windows (03 R114, 10 R328) -/

def winCovers (w : Window) (host : Bool) (a n : Nat) : Bool :=
  w.valid && w.host == host && w.base.toNat ≤ a && a + n ≤ w.base.toNat + w.size.toNat

/-- How far the valid windows of a kind cover the addresses from `a` on, in at most as many steps as there are windows. -/
def coverEnd (ws : List Window) (host : Bool) : Nat → Nat → Nat
  | 0, a => a
  | k + 1, a =>
    match ws.find? (fun w => w.valid && w.host == host && w.base.toNat ≤ a && a < w.base.toNat + w.size.toNat) with
    | some w => coverEnd ws host k (w.base.toNat + w.size.toNat)
    | none => a

/-- The window check of an access by tenant t: none when it passes, else the reason of 10 R328. -/
def windowReason (c : Chip) (t : Nat) (m : MemObj) (half off n : Nat) : Option Nat :=
  if off + n > m.size then some 1
  else if n == 0 then none
  else
    let ws := (tenantOf c t).windows.map (fun p => p.2)
    let host := m.kind == .host
    let a := m.at half off
    if ws.any (fun w => winCovers w host a n) then none
    else if coverEnd ws host ws.length a ≥ a + n then some 4
    else if !ws.any (fun w => w.valid && w.host == host && overlap a n w.base.toNat w.size.toNat) && ws.any (fun w => winCovers w (!host) a n) then some 3
    else some 2

/-! ### Indices (02 R59) -/

def allocOf (c : Chip) (sp : Nat) : Alloc := (tget c.allocs sp).getD { next := 0, freed := [], reuse := [] }
def spaceLimit (sp : Nat) : Nat :=
  if sp == 1 then 4096 else if sp == 2 || sp == 10 then 16384 else if sp == 3 then 1048576 else 65536
def reuseOf (c : Chip) (sp i : Nat) : Nat := (tget (allocOf c sp).reuse i).getD 0

/-- The index handed out next: unused ones ascending, then the one freed longest ago. -/
def takeIndex (c : Chip) (sp : Nat) : Option (Nat × Chip) :=
  let a := allocOf c sp
  if a.next < spaceLimit sp then some (a.next, { c with allocs := tset c.allocs sp { a with next := a.next + 1 } })
  else match a.freed with
    | [] => none
    | i :: r => some (i, { c with allocs := tset c.allocs sp { a with freed := r } })

def raiseReuse (c : Chip) (sp i : Nat) : Chip :=
  let a := allocOf c sp
  let v := (reuseOf c sp i + 1) % 256
  { c with allocs := tset c.allocs sp { a with reuse := if v == 0 then terase a.reuse i else tset a.reuse i v } }

def freeIndex (c : Chip) (sp i : Nat) : Chip :=
  let a := allocOf c sp
  { c with allocs := tset c.allocs sp { a with freed := a.freed ++ [i] } }

/-- Index space of a handle TYPE: program objects share that of memory objects. -/
def spaceOf (ty : Nat) : Nat := if ty == 4 then 3 else ty

/-! ### Handles and references (02 R58, R80 to R86) -/

/-- Owner and counts of the live object that handle h names; REUSE and TYPE are part of the stored handle. -/
def objOf (c : Chip) (h : Handle) : Option (Nat × Refs) :=
  let i := hIndex h
  let sel := fun (h' : Handle) (o : Nat) (r : Refs) => if h' == h then some (o, r) else none
  match hType h with
  | 1 => (tget c.contexts i).bind (fun x => sel x.handle x.owner x.refs)
  | 2 => (tget c.queues i).bind (fun x => sel x.handle x.owner x.refs)
  | 3 => (tget c.mems i).bind (fun x => sel x.handle x.owner x.refs)
  | 4 => (tget c.mems i).bind (fun x => sel x.handle x.owner x.refs)
  | 5 => (tget c.hitches i).bind (fun x => sel x.handle x.owner x.refs)
  | 6 => (tget c.events i).bind (fun x => sel x.handle x.owner x.refs)
  | _ => none

/-- The handle check of 02 R58 for a field that requires one of the types `tys`. -/
def handleOk (c : Chip) (t : Nat) (tys : List Nat) (h : Handle) : Bool :=
  tys.contains (hType h) && (match objOf c h with | some (o, r) => o == t && r.host != 0 | none => false)

def setRefs (c : Chip) (h : Handle) (r : Refs) : Chip :=
  let i := hIndex h
  match hType h with
  | 1 => modContext c i (fun x => { x with refs := r })
  | 2 => modQueue c i (fun x => { x with refs := r })
  | 3 => modMem c i (fun x => { x with refs := r })
  | 4 => modMem c i (fun x => { x with refs := r })
  | 5 => modHitch c i (fun x => { x with refs := r })
  | 6 => modEvent c i (fun x => { x with refs := r })
  | _ => c

/-- A device-half reference taken (02 R81). -/
def takeRef (c : Chip) (h : Handle) : Chip :=
  match objOf c h with
  | some (_, r) => setRefs c h { r with dev := r.dev + 1 }
  | none => c

/-- Whether one more reference fits (02 R82). -/
def refRoom (c : Chip) (h : Handle) : Bool :=
  match objOf c h with | some (_, r) => r.dev < 0xFFFFFFFF | none => true

/-! ### Record rings (04 R130 to R136) -/

/-- CONS as the device rereads it: a value that would give more than C records is not taken (04 R132). -/
def rereadCons (c : Chip) (base : Nat) (prod cons : W32) (cap : Nat) : W32 :=
  let v := BitVec.ofNat 32 (leNat (loadDev c (base + 8) 4))
  if (prod - v).toNat ≤ cap then v else cons

/-- Entry n of a ring with entries of `sz` bytes, and PROD after it (04 R130, R131). -/
def ringWrite (c : Chip) (base sz log2 : Nat) (prod : W32) (entry : Nat) : Chip :=
  let c := storeDev c (base + 64 + sz * (prod.toNat % pow2 log2)) (toLe sz entry)
  storeDev c base (toLe 4 (prod + 1).toNat)

def ringBase (c : Chip) (r : RecRing) : Nat := match tget c.mems r.mem with | some m => m.addr + r.off | none => 0

def RecRing.refresh (c : Chip) (r : RecRing) : RecRing :=
  if (r.prod - r.cons).toNat < pow2 r.log2 then r
  else { r with cons := rereadCons c (ringBase c r) r.prod r.cons (pow2 r.log2) }

def RecRing.hasRoom (r : RecRing) : Bool := (r.prod - r.cons).toNat < pow2 r.log2

/-- A record for a ring that drops when full (04 R135): the ring and whether it was written. `seqd` builds the entry from the
record's number in the ring. -/
def ringPost (c : Chip) (r : RecRing) (sz entry : Nat) : Chip × RecRing × Bool :=
  let r := r.refresh c
  if r.hasRoom then (ringWrite c (ringBase c r) sz r.log2 r.prod entry, { r with prod := r.prod + 1, seq := r.seq + 1, raised := r.raised + 1 }, true)
  else
    let d := BitVec.ofNat 32 (satAdd r.dropped.toNat 1 0xFFFFFFFF)
    (storeDev c (ringBase c r + 12) (toLe 4 d.toNat), { r with dropped := d, seq := r.seq + 1, raised := r.raised + 1 }, false)

def raiseBind (c : Chip) (b : Option Nat) : Chip := match b with | some s => raiseSource c s | none => c

/-! ### Destroy notices and destruction (02 R84, 04 R134) -/

def noticeNat (n : Notice) : Nat := n.handle.toNat + field 1 32 8 + pow2 128 * n.stamp.toNat + field n.gait 192 64

/-- Posts held notices, oldest first, while there is room; each frees its index. Of two freed indices the older is the one whose
notice was posted or discarded first: 02 R59 keeps an index out of use until then, and does not say whether its age counts from
there or from the destruction (R84 step 1, GAIT of 04 R134); the model's choice, log 74. -/
def postNoticesN : Nat → Chip → Nat → Chip
  | 0, c, _ => c
  | k + 1, c, t =>
    let x := tenantOf c t
    match x.noticeRing, x.held with
    | some r, n :: rest =>
      let r := r.refresh c
      if !r.hasRoom then setTenant c t { x with noticeRing := some r } else
      let c := ringWrite c (ringBase c r) 32 r.log2 r.prod (noticeNat n)
      let c := setTenant c t { x with noticeRing := some { r with prod := r.prod + 1, seq := r.seq + 1, raised := r.raised + 1 }, held := rest }
      let c := raiseBind (freeIndex c (spaceOf (hType n.handle)) (hIndex n.handle)) x.noticeBind
      postNoticesN k c t
    | _, _ => c

def postNotices (c : Chip) (t : Nat) : Chip := postNoticesN (tenantOf c t).held.length c t

/-- Posts what every tenant holds. -/
def postAllNotices (c : Chip) : Chip := c.tenants.foldl (fun c p => postNotices c p.1) c

/-- Empties every residency tag that names context k (08 R256). -/
def clearTags (c : Chip) (k : Nat) : Chip :=
  { c with compute := { c.compute with tags := c.compute.tags.filter (fun p => p.2.1 != k) } }

/-- Removes the object with its type-specific release (02 R84 step 2): the references that it held. -/
def removeObj (c : Chip) (h : Handle) : Chip × List Handle :=
  let i := hIndex h
  match hType h with
  | 1 =>
    let c := clearTags { c with contexts := terase c.contexts i } i
    ({ c with mems := c.mems.map (fun p => (p.1, if p.2.home == some i then { p.2 with home := none } else p.2)),
              counters := { c.counters with sel := c.counters.sel.map (fun p =>
                (p.1, if p.2.ctxFilter && p.2.ctx == i then { p.2 with ctx := i + 4096 } else p.2)) } }, [])
  | 2 =>
    match tget c.queues i with
    | none => (c, [])
    | some x =>
      let mh := fun (m : Nat) => ((tget c.mems m).map (fun o => [o.handle])).getD []
      ({ c with queues := terase c.queues i }, ((tget c.contexts x.ctx).map (fun o => [o.handle])).getD [] ++ mh x.sq ++ mh x.cq)
  | 5 => ({ c with hitches := terase c.hitches i }, [])
  | 6 =>
    match tget c.events i with
    | none => (c, [])
    | some e =>
      let c := { c with events := terase c.events i }
      if e.state != .armed then (c, []) else
      match tget c.hitches e.hitch with
      | none => (c, [])
      | some x =>
        (modHitch c e.hitch (fun x => { x with waiters := x.waiters.filter (fun w => match w with | .event j _ => j != i | _ => true) }), [x.handle])
  | _ => ({ c with mems := terase c.mems i }, [])

def finalStamp (c : Chip) (h : Handle) : W64 :=
  if hType h == 3 || hType h == 4 then (match tget c.mems (hIndex h) with | some m => m.stamp | none => 0) else 0

/-- Destroys the object if both its halves are 0 (02 R84): REUSE rises, the release runs, with the references that it drops and
what these destroy, and then the notice is held until it is posted; during teardown no notice is raised and the index is free at
once (13 R403). -/
def destroyN : Nat → Chip → Handle → Chip
  | 0, c, _ => c
  | k + 1, c, h =>
    match objOf c h with
    | some (t, r) =>
      if r.host != 0 || r.dev != 0 then c else
      let sp := spaceOf (hType h)
      let n : Notice := { handle := h, stamp := finalStamp c h, gait := c.gait }
      let rem := removeObj (raiseReuse c sp (hIndex h)) h
      let c := rem.2.foldl (fun c g =>
        match objOf c g with
        | some (_, r) => destroyN k (setRefs c g { r with dev := r.dev - 1 }) g
        | none => c) rem.1
      if (tenantOf c t).teardown then freeIndex c sp (hIndex h) else modTenant c t (fun x => { x with held := x.held ++ [n] })
    | none => c

def destroyIfFree (c : Chip) (h : Handle) : Chip := destroyN 4 c h

/-- The oldest owed record without its reference takes one (02 R82). -/
def lendRef : List OwedRec → List OwedRec
  | [] => []
  | r :: rs => if r.ref then r :: lendRef rs else { r with ref := true } :: rs

/-- Queue `h` has an owed record that waits for its reference (02 R82). -/
def refWaits (c : Chip) (h : Handle) : Bool :=
  hType h == 2 && (match tget c.queues (hIndex h) with | some x => x.owed.any (fun r => !r.ref) | none => false)

/-- A device-half reference dropped; an owed record that waits for one on the same queue takes it over (02 R82). -/
def dropRef (c : Chip) (h : Handle) : Chip :=
  match objOf c h with
  | some (_, r) =>
    if refWaits c h then modQueue c (hIndex h) (fun x => { x with owed := lendRef x.owed })
    else destroyIfFree (setRefs c h { r with dev := r.dev - 1 }) h
  | none => c

def dropRefs (c : Chip) (hs : List Handle) : Chip := hs.foldl dropRef c

/-! ### Error records (13 R386 to R388) -/

structure ErrRec where
  cls : Nat
  tenant : Option Nat := none
  ctx : Nat := 0xFFFF
  status : Nat := 0
  detail : Nat := 0
  opcode : Nat := 0
  engine : Nat := 0
  tag : W16 := 0
  queue : Handle := 0
  object : W32 := 0
  spec : Bool := false
  replayed : Bool := false
  p0 : W64 := 0
  p1 : W64 := 0
  p2 : W64 := 0
  gait : Nat := 0
  deriving DecidableEq, Repr

def errNat (r : ErrRec) (seq : W32) : Nat :=
  field r.gait 0 64 + field r.ctx 64 16 + field (r.tenant.getD 0) 80 5 + field (boolNat r.tenant.isSome) 85 1
    + field (boolNat r.replayed) 86 1 + field (boolNat r.spec) 87 1 + field r.cls 88 8 + field r.status 96 8 + field r.detail 104 8
    + field r.opcode 112 8 + field r.engine 120 4 + field r.tag.toNat 128 16 + field r.queue.toNat 160 32
    + field r.object.toNat 192 32 + field seq.toNat 224 32 + field r.p0.toNat 256 64 + field r.p1.toNat 320 64 + field r.p2.toNat 384 64

/-- The copy for the tenant error ring, when ERROR_RING is agreed and a ring is set. -/
def postTenantErr (c : Chip) (r : ErrRec) (seq : W32) : Chip :=
  match r.tenant with
  | none => c
  | some t =>
    let x := tenantOf c t
    match x.errorRing with
    | none => c
    | some g =>
      if !hasFeat (featuresOf c t) featErrRing then c else
      let p := ringPost c g 64 (errNat r seq)
      let c := modTenant p.1 t (fun x => { x with errorRing := some p.2.1 })
      if p.2.2 || p.2.1.dropped != g.dropped then raiseBind c x.errorBind else c

/-- The global error queue; source 0 announces a record or a rise of DROPPED (12 R360). -/
def postGlobalErr (c : Chip) (r : ErrRec) (seq : W32) : Chip :=
  let g := c.errq
  if (g.prod - g.cons).toNat < 4096 then
    raiseSource { c with errq :=
      { g with entries := writeBytes g.entries (64 + 64 * (g.prod.toNat % 4096)) (toLe 64 (errNat r seq)), prod := g.prod + 1 } } 0
  else if g.dropped == 0xFFFFFFFF then c
  else raiseSource { c with errq := { g with dropped := g.dropped + 1 } } 0

/-- One error record, with the next SEQ: the tenant ring first, then the global queue. -/
def postError (c : Chip) (r : ErrRec) : Chip :=
  let seq := c.errq.seq
  let r := { r with gait := if r.gait == 0 then c.gait else r.gait }
  postGlobalErr (postTenantErr { c with errq := { c.errq with seq := seq + 1 } } r seq) r seq

/-- A device event of class 0x20 to 0x23 that no tenant owns (13 R385). -/
def postEvent (c : Chip) (cls engine : Nat) (p0 p1 p2 : Nat) : Chip :=
  postError c { cls := cls, engine := engine, p0 := BitVec.ofNat 64 p0, p1 := BitVec.ofNat 64 p1, p2 := BitVec.ofNat 64 p2 }

/-- A completed repair (13 R383 class 0x21): record and source 15. -/
def postRepair (c : Chip) (kind loc : Nat) : Chip := raiseSource (postEvent c 0x21 7 kind loc 0) 15

/-! ### Trace records (15 R459 to R461) -/

def traceNat (r : TraceRec) (seq : W32) : Nat :=
  field seq.toNat 0 32 + field (boolNat r.spec) 90 1 + field (boolNat r.event) 91 1 + field (boolNat r.slotWait) 92 1
    + field r.ending 93 3 + field r.status 96 8 + field r.waitCtx 104 12 + field r.sigCtx 116 12 + field r.waitTag.toNat 128 16
    + field r.sigTag.toNat 144 16 + field r.signaller.toNat 160 32 + field r.waiter.toNat 192 32 + field r.hitch.toNat 224 32
    + field r.target.toNat 256 64 + field r.wait 320 64 + field r.signal 384 64 + field r.sat 448 64

def postTrace (c : Chip) (r : TraceRec) : Chip :=
  match (tenantOf c r.tenant).traceRing with
  | none => c
  | some g =>
    if !hasFeat (featuresOf c r.tenant) featTrace then c else
    let p := ringPost c g 64 (traceNat r g.seq)
    modTenant p.1 r.tenant (fun x => { x with traceRing := some p.2.1 })

/-! ### The checkpoint (14 R431, R435) -/

/-- Sections that every record has (14 R435). -/
def recordTypes : List Nat := [1, 2, 3, 4, 5, 6, 7, 8, 9, 10]

def handoverRecord (c : Chip) (i : FwImage) : Handover :=
  let b := Config.recordBytes i.hverMax c.gait c.reqCount
  { magic := 0x31564F48, version := i.hverMax, bytes := b.1, check := b.2, build := i.build, major := i.major, minor := i.minor, gait := c.gait,
    reqCount := c.reqCount, reserved := 0,
    sections := recordTypes.map (fun t =>
      let x := Config.recordSection i.hverMax c.gait c.reqCount t
      { stype := t, sversion := x.1, reserved := 0, offset := x.2.1, length := x.2.2 }) }

/-- The running image writes a checkpoint into control SRAM. -/
def checkpoint (c : Chip) (e : Env) : Chip := match e.image with | some i => { c with record := some (handoverRecord c i) } | none => c

/-! ### Quotas and use (02 R51 to R53, 10 R327) -/

/-- Waiter slots that tenant t holds; `withSpec` counts those of speculative waits (02 R72, 06 R217). -/
def slotsHeld (c : Chip) (t : Nat) (withSpec : Bool) : Nat :=
  sumBy (fun p => if p.2.owner == t then
      p.2.waiters.countP (fun w => match w with | .cmd _ _ _ s => withSpec || !s | .event _ _ => true) else 0) c.hitches

def allSlots (c : Chip) : Nat := sumBy (fun p => p.2.waiters.length) c.hitches

/-- Charge held by tenant t in quota class k, in the order of the usage registers (03 R104). -/
def charged (c : Chip) (t k : Nat) : Nat :=
  if k == 0 then c.contexts.countP (fun p => p.2.owner == t)
  else if k == 1 then c.queues.countP (fun p => p.2.owner == t)
  else if k == 2 then c.mems.countP (fun p => p.2.owner == t)
  else if k == 3 then c.hitches.countP (fun p => p.2.owner == t)
  else if k == 4 then c.events.countP (fun p => p.2.owner == t)
  else if k == 5 then slotsHeld c t true
  else sumBy (fun p => if p.2.owner == t then p.2.charge else 0) c.mems + (tenantOf c t).descs.pages.length

/-- USED (03 R104): as charged, without the slots of speculative waits. -/
def usedOf (c : Chip) (t k : Nat) : Nat := if k == 5 then slotsHeld c t false else charged c t k

def quotaOf (c : Chip) (t k : Nat) : Nat := (tget (tenantOf c t).quota k).getD 0

/-- `n` more units of class k fit tenant t's quota. -/
def quotaRoom (c : Chip) (t k n : Nat) : Bool := charged c t k + n ≤ quotaOf c t k

/-- A waiter slot is free for tenant t (02 R72). -/
def slotRoom (c : Chip) (t : Nat) : Bool := allSlots c < 262144 && quotaRoom c t 5 1

end Sys2Proof.Machine
end

