-- ==== Sys2Proof/Machine/Layout.lean ====
section
/-! DEFINITION. What the data engines compute: Groom element moves (09 R295 to R300), REDUCE_TO_SCALAR (05 R172), the fold of a
collective REDUCE (11 R354), descriptor creation checks (09 R294) and SCALAR_OP (05 R171). -/

namespace Sys2Proof.Machine

/-! ### Elements in memory -/

def readElem (c : Chip) (r : DescRef) (idx : List Nat) : Nat :=
  let off := elemByte r.img idx
  let b := dBits r.img
  if b == 4 then
    let v := leNat (objRead c r.mem r.half off 1)
    if elemOffset r.img idx % 2 == 0 then v % 16 else v / 16
  else leNat (objRead c r.mem r.half off (b / 8))

def readScale (c : Chip) (r : DescRef) (idx : List Nat) : Nat := leNat (objRead c r.mem r.half (scaleByte r.img idx) 1)

/-- A store at a byte of an object's half. -/
def objStore (c : Chip) (m half off : Nat) (bs : List Byte) : Chip :=
  match tget c.mems m with | some x => storeDev c (x.at half off) bs | none => c

/-- A store that shares its byte with one already counted: the odd nibble of a 4-bit pair. -/
def objStoreQuiet (c : Chip) (m half off : Nat) (bs : List Byte) : Chip :=
  match tget c.mems m with | some x => storeQuiet c (x.at half off) bs | none => c

def writeElem (c : Chip) (r : DescRef) (idx : List Nat) (v : Nat) (scale : Option Nat) : Chip :=
  let off := elemByte r.img idx
  let b := dBits r.img
  let c :=
    if b == 4 then
      let old := leNat (objRead c r.mem r.half off 1)
      if elemOffset r.img idx % 2 == 0 then objStore c r.mem r.half off (toLe 1 (old / 16 * 16 + v % 16))
      else objStoreQuiet c r.mem r.half off (toLe 1 (old % 16 + 16 * (v % 16)))
    else objStore c r.mem r.half off (toLe (b / 8) v)
  match scale with
  | some s =>
    if elemOffset r.img idx % 32 == 0 then objStore c r.mem r.half (scaleByte r.img idx) (toLe 1 s)
    else objStoreQuiet c r.mem r.half (scaleByte r.img idx) (toLe 1 s)
  | none => c

/-! ### GROOM -/

structure GroomArgs where
  gop : Nat
  oob : Nat
  x : Nat
  reverse : Nat
  rotDim : Nat
  rotEn : Bool
  rotAmount : Nat
  rotStep : Nat
  perm : Nat
  deriving DecidableEq, Repr

def groomArgs (p : Nat) : GroomArgs :=
  { gop := bits p 65 64, oob := bits p 67 66, x := bits p 70 68, reverse := bits p 79 72, rotDim := bits p 82 80, rotEn := bit p 83,
    rotAmount := bits p 127 96, rotStep := bits p 287 256, perm := bits p 247 224 }

/-- PERM[k]; 0 denotes the identity at every rank (09 R295). -/
def permOf (g : GroomArgs) (k : Nat) : Nat := if g.perm == 0 then k else bits g.perm (3 * k + 2) (3 * k)

/-- Source coordinate that destination coordinate j[k] takes under COPY. -/
def copyCoord (g : GroomArgs) (d : W512) (j : List Nat) (k : Nat) : Nat :=
  let c := nth j k
  let n := dSize d k
  let c := if g.rotEn && k == g.rotDim
    then (c + (g.rotAmount + g.rotStep * (if k + 1 < dRank d then nth j (k + 1) else 0)) % pow2 64) % n else c
  if bit g.reverse k then n - 1 - c else c

/-- Source index of destination index j under COPY (09 R295). -/
def copySource (g : GroomArgs) (d : W512) (j : List Nat) : List Nat :=
  (List.range (dRank d)).map (fun p =>
    match (List.range (dRank d)).find? (fun k => permOf g k == p) with
    | some k => copyCoord g d j k
    | none => 0)

def setNth (l : List Nat) (k v : Nat) : List Nat := l.set k v

/-- An index value resolved by the OOB policy: none where ZERO leaves it out, and where the range is empty (09 R297). -/
def resolveIdx (oob : Nat) (n : Nat) (v : Int) : Option Nat :=
  if 0 ≤ v && v < n then some v.toNat
  else if oob == 0 && n != 0 then some (if v < 0 then 0 else n - 1)
  else none

def idxValue (c : Chip) (r : DescRef) (i : Nat) : Int := sext 32 (readElem c r [i])

/-- One element that a GROOM writes: its destination index, its source index (none where ZERO applies), bits and scale byte. -/
structure Move where
  dst : List Nat
  src : Option (List Nat)
  v : Nat
  scale : Option Nat
  deriving DecidableEq, Repr

/-- The elements that a GROOM writes, in order of ascending flat index; every value is read before the command. A GATHER with
CLAMP from an empty range (SIZE_SRC[x] = 0) has no source element to name: the element it writes is open (09 R297, log 78). -/
def groomMoves (c : Chip) (g : GroomArgs) (src dst : DescRef) (idx : Option DescRef) : List Move :=
  let e2m1 := dEtype dst.img == 5
  let take := fun (s d : List Nat) =>
    ({ dst := d, src := some s, v := readElem c src s, scale := if e2m1 then some (readScale c src s) else none } : Move)
  match idx with
  | none => (indices dst.img).map (fun j => take (copySource g dst.img j) j)
  | some ix =>
    if g.gop == 1 then
      (indices dst.img).map (fun j =>
        match resolveIdx g.oob (dSize src.img g.x) (idxValue c ix (nth j g.x)) with
        | some v => take (setNth j g.x v) j
        | none =>
          if g.oob == 0 then { dst := j, src := none, v := Config.freeNat (c.free + elemOffset dst.img j) % pow2 (dBits dst.img),
                               scale := if e2m1 then some (Config.freeNat (c.free + scaleByte dst.img j) % 256) else none }
          else { dst := j, src := none, v := 0, scale := if e2m1 then some 0x7F else none })
    else
      (indices src.img).filterMap (fun i =>
        (resolveIdx g.oob (dSize dst.img g.x) (idxValue c ix (nth i g.x))).map (fun v => take i (setNth i g.x v)))

/-- The FAULT policy finds an index outside its range (09 R297). -/
def groomIndexFault (c : Chip) (g : GroomArgs) (src dst : DescRef) (idx : Option DescRef) : Bool :=
  match idx with
  | some ix =>
    g.oob == 2 && (List.range (dSize ix.img 0)).any (fun i =>
      let n := if g.gop == 1 then dSize src.img g.x else dSize dst.img g.x
      (resolveIdx 2 n (idxValue c ix i)).isNone)
  | none => false

/-- Bytes of one element of a descriptor, with its scale byte. -/
def elemBytesAt (r : DescRef) (i : List Nat) : List Nat :=
  (List.range (ceilDiv (dBits r.img) 8)).map (fun n => elemByte r.img i + n) ++ (if dEtype r.img == 5 then [scaleByte r.img i] else [])

/-- Every byte that a descriptor's elements and scales occupy. -/
def reachedBytes (src : DescRef) : List Nat := (indices src.img).flatMap (elemBytesAt src)

def sameHalf (a b : DescRef) : Bool := a.mem == b.mem && a.half == b.half

/-- The destination element at index i is affected by an overlap (09 R300): a byte of it belongs to SRC or IDX in the same object
half, or another index of DST maps to it. -/
def affected (src dst : DescRef) (idx : Option DescRef) (i : List Nat) : Bool :=
  let bs := elemBytesAt dst i
  (sameHalf src dst && bs.any (fun b => (reachedBytes src).contains b))
    || (match idx with | some r => sameHalf r dst && bs.any (fun b => (reachedBytes r).contains b) | none => false)
    || 1 < ((indices dst.img).map (elemOffset dst.img)).countP (fun o => o == elemOffset dst.img i)

/-- The list in an open order, by free values from number f on (log 6). -/
def shuffle {α : Type} : Nat → Nat → List α → List α
  | 0, _, _ => []
  | k + 1, f, l =>
    match l[Config.freeNat f % l.length]? with
    | some x => x :: shuffle k (f + 1) (l.eraseIdx (Config.freeNat f % l.length))
    | none => []

/-- Moves in an open order, each value read before or during the command (09 R300). -/
def applyOpen (c : Chip) (src dst : DescRef) (ms : List Move) : Chip :=
  let f := c.free
  let n := ms.length
  let c := { c with free := f + 2 * n }
  (shuffle n f ms).zipIdx.foldl (fun c p =>
    let m := p.1
    match m.src with
    | some s =>
      if Config.freeNat (f + n + p.2) % 2 == 0 then writeElem c dst m.dst m.v m.scale
      else writeElem c dst m.dst (readElem c src s) (m.scale.map (fun _ => readScale c src s))
    | none => writeElem c dst m.dst m.v m.scale) c

def applyMoves (c : Chip) (dst : DescRef) (ms : List Move) : Chip := ms.foldl (fun c m => writeElem c dst m.dst m.v m.scale) c

/-- The poison of lines clears whose 64 bytes are all among the addresses written (10 R324). -/
def clearCovered (c : Chip) (addrs : List Nat) : Chip :=
  if c.memory.poison.isEmpty && !c.memory.stackTab.any (fun p => !p.2.lost.isEmpty) then c else
  (((addrs.map (fun a => a / 64)).eraseDups).filter (fun l => (List.range 64).all (fun i => addrs.contains (64 * l + i)))).foldl
    (fun c l => clearPoison c (64 * l) 64) c

/-- Device addresses of the destination bytes of moves. -/
def moveAddrs (c : Chip) (dst : DescRef) (ms : List Move) : List Nat :=
  match tget c.mems dst.mem with
  | some o => (ms.flatMap (fun m => elemBytesAt dst m.dst)).map (fun b => o.at dst.half b)
  | none => []

/-- The moves written: those whose destination is affected by an overlap in an open order, the others in theirs; whole poisoned
lines among them are good again. -/
def groomWrite (c : Chip) (src dst : DescRef) (idx : Option DescRef) (ms : List Move) : Chip :=
  let hit := ms.filter (fun m => affected src dst idx m.dst)
  let c := if hit.isEmpty then applyMoves c dst ms
    else applyOpen (applyMoves c dst (ms.filter (fun m => !affected src dst idx m.dst))) src dst hit
  clearCovered c (moveAddrs c dst ms)

/-- Bytes that `n` destination elements take, with their scale bytes (02 R88). -/
def groomBytes (dst : DescRef) (n : Nat) : Nat := n * dBits dst.img / 8 + (if dEtype dst.img == 5 then n / 32 else 0)

/-- Source bytes that moves read, each once (09 R302). -/
def sourceBytes (src : DescRef) (ms : List Move) : List Nat :=
  (ms.flatMap (fun m => match m.src with
    | some s => elemBytesAt src s
    | none => [])).eraseDups

/-- Distinct fields, for a permutation. -/
def isPerm (g : GroomArgs) (r : Nat) : Bool :=
  g.perm == 0 || (decide ((List.range r).map (permOf g)).Nodup && (List.range r).all (fun k => permOf g k < r)
    && bits g.perm 23 (3 * r) == 0)

def permIdentity (g : GroomArgs) (r : Nat) : Bool := (List.range r).all (fun k => permOf g k == k) && (g.perm == 0 || isPerm g r)

/-- 09 R298, R299: the forms of a GROOM whose descriptors are live. -/
def groomLegal (g : GroomArgs) (src dst : W512) (idx : Option W512) : Bool :=
  let r := dRank dst
  !dBroadcast dst && dEtype src == dEtype dst && dRank src == r && isPerm g r && bits g.reverse 7 r == 0 && g.x < r
    && (if g.rotEn then g.rotDim < r else g.rotDim == 0 && g.rotAmount == 0 && g.rotStep == 0)
    && (List.range r).all (fun k => (g.gop != 0 && k == g.x) || dSize dst k == dSize src (permOf g k))
    && (if g.gop == 0 then idx.isNone && g.oob == 0
        else match idx with
          | some i => dRank i == 1 && dEtype i == 8 && dSize i 0 == (if g.gop == 1 then dSize dst g.x else dSize src g.x)
              && permIdentity g r && g.reverse == 0 && !g.rotEn
          | none => false)
    && (dEtype dst != 5 || (permOf g 0 == 0 && (g.gop == 0 || g.x != 0)
        && (!g.rotEn || g.rotDim != 0 || (g.rotAmount % 32 == 0 && g.rotStep % 32 == 0))))

/-- Extent of the scale array of an E2M1 descriptor: offset and length. -/
def scaleExtent (d : W512) : Nat × Nat :=
  if dEtype d == 5 && elemCount d != 0 then (dScaleBase d * 64, maxOffset d / 32 + 1) else (0, 0)

/-- Extent of the elements: offset and length. -/
def elemExtent (d : W512) : Nat × Nat := (dBase d * 64, tensorEnd d - dBase d * 64)

/-! ### REDUCE_TO_SCALAR (05 R172) -/

def foldFloat (rop : Nat) (f : Fold) (i : Nat) (x : Nat × BitVec 5) : Fold :=
  let f := { f with flags := f.flags ||| x.2 }
  let v := x.1
  if rop == 5 then (if v % 0x80000000 == 0 then f else { f with count := f.count + 1 })
  else if rop == 0 then
    match f.acc with
    | none => { f with acc := some v }
    | some a => let r := fadd a.toNat v; { f with acc := some r.1, flags := f.flags ||| r.2 }
  else if isNan32 v then f
  else match f.acc with
    | none => { f with acc := some v, at_ := i }
    | some a =>
      if rop == 1 then { f with acc := some (fmaxW a.toNat v) }
      else if rop == 2 then { f with acc := some (fminW a.toNat v) }
      else if rop == 3 then (if fcmpLt a.toNat v then { f with acc := some v, at_ := i } else f)
      else (if fcmpLt v a.toNat then { f with acc := some v, at_ := i } else f)

def foldInt (rop : Nat) (f : Fold) (i : Nat) (v : Int) : Fold :=
  if rop == 5 then (if v == 0 then f else { f with count := f.count + 1 })
  else match f.acc with
    | none => { f with acc := some v, at_ := i }
    | some a =>
      if rop == 0 then { f with acc := some (a + v) }
      else if rop == 1 then { f with acc := some (max a v) }
      else if rop == 2 then { f with acc := some (min a v) }
      else if rop == 3 then (if a < v then { f with acc := some v, at_ := i } else f)
      else (if v < a then { f with acc := some v, at_ := i } else f)

/-- The 64-bit result and flags of a finished fold. -/
def foldResult (rop : Nat) (isFloat : Bool) (f : Fold) : W64 × BitVec 5 :=
  if rop == 5 then (BitVec.ofNat 64 f.count, f.flags)
  else match f.acc with
    | some a => if rop ≥ 3 then (BitVec.ofNat 64 f.at_, f.flags) else (BitVec.ofInt 64 a, f.flags)
    | none =>
      if rop ≥ 3 then (0xFFFFFFFFFFFFFFFF, f.flags)
      else if rop == 0 || !isFloat then (0, f.flags)
      else (0x7FC00000, f.flags ||| flInvalid)

/-- The fold f goes on over elements lo to hi - 1, in ascending flat index (05 R172, 06 R198). -/
def foldRange (c : Chip) (rop : Nat) (src : DescRef) (f : Fold) (lo hi : Nat) : Fold :=
  let t := dEtype src.img
  (((indices src.img).zipIdx.take hi).drop lo).foldl (fun f p =>
      if etypeIsFloat t then
        foldFloat rop f p.2 (widen t (if t == 5 then readScale c src p.1 else 0) (readElem c src p.1))
      else foldInt rop f p.2 (intElem t (readElem c src p.1))) f

/-- The result of a fold that goes on from element `lo` to the end. -/
def reduceFrom (c : Chip) (rop : Nat) (src : DescRef) (f : Fold) (lo : Nat) : W64 × BitVec 5 :=
  foldResult rop (etypeIsFloat (dEtype src.img)) (foldRange c rop src f lo (elemCount src.img))

def reduceTensor (c : Chip) (rop : Nat) (src : DescRef) : W64 × BitVec 5 := reduceFrom c rop src Fold.start 0

/-! ### Collective REDUCE (11 R354) -/

/-- Elements of `b` bytes each, whole ones only. -/
def chunks (b : Nat) : Nat → List Byte → List Nat
  | 0, _ => []
  | k + 1, bs => leNat (bs.take b) :: chunks b k (bs.drop b)

def foldPair (t redop : Nat) (a v : Int × BitVec 5) : Int × BitVec 5 :=
  let fl := a.2 ||| v.2
  if etypeIsFloat t then
    if redop == 0 then let r := fadd a.1.toNat v.1.toNat; (r.1, fl ||| r.2)
    else if redop == 1 then (fmaxW a.1.toNat v.1.toNat, fl)
    else (fminW a.1.toNat v.1.toNat, fl)
  else if redop == 0 then let r := satInt 32 (a.1 + v.1); (r.1, fl ||| r.2)
  else if redop == 1 then (max a.1 v.1, fl)
  else (min a.1 v.1, fl)

def wideElem (t w : Nat) : Int × BitVec 5 :=
  if etypeIsFloat t then (((widen t 0 w).1 : Nat), (widen t 0 w).2) else (intElem t w, 0)

def narrowElem (t : Nat) (a : Int × BitVec 5) : Nat × BitVec 5 :=
  if etypeIsFloat t then
    match etypeFmt t with
    | some f => let r := fconvert f false .nearest (fp32 a.1.toNat); (r.1, a.2 ||| r.2)
    | none => (0, a.2)
  else let r := satInt (etypeBits t) a.1; (ofInt (etypeBits t) r.1, a.2 ||| r.2)

/-- The result bytes of a REDUCE over contributions in ascending rank, and the flags; trailing bytes come from the root. -/
def reduceBytes (t redop len : Nat) (parts : List (List Byte)) (rootBytes : List Byte) : List Byte × BitVec 5 :=
  let b := etypeBits t / 8
  let n := len / b
  match parts.map (fun p => (chunks b n p).map (wideElem t)) with
  | [] => ([], 0)
  | p :: ps =>
    let r := (ps.foldl (fun a q => (a.zip q).map (fun x => foldPair t redop x.1 x.2)) p).map (narrowElem t)
    (r.flatMap (fun x => toLe b x.1) ++ (rootBytes.drop (n * b)).take (len - n * b), r.foldl (fun a x => a ||| x.2) 0)

/-! ### Descriptor creation checks (09 R294) -/

/-- The status and code of the first failing check of an image; none when it is legal. -/
def descCheck (c : Chip) (owner : Nat) (d : W512) : Option (Nat × Nat) :=
  let obj := if handleOk c owner [3] (dObject d) then tget c.mems (hIndex (dObject d)) else none
  let size := match obj with | some m => m.size | none => 0
  let conds : List (Bool × Nat × Nat) :=
    [(dEtype d > 8, stProgram, 0x301), (badRank d, stProgram, 0x302), (badReserved d, stProgram, 0x303),
     ((dSize d 0 * dBits d) % 512 != 0, stProgram, 0x304), (badStride d, stProgram, 0x305),
     (dBlocked d && badBlocking d, stProgram, 0x306),
     ((match obj with | some m => m.kind != .device | none => true), stHandle, 0x307),
     (tensorEnd d > size, stWindow, 0x308),
     (dEtype d == 5 && elemCount d != 0 && (scaleExtent d).1 + (scaleExtent d).2 > size, stWindow, 0x309),
     (dEtype d == 5 && (reachedScales d).any (fun b => (elementBytes d).contains b), stProgram, 0x30A)]
  (conds.find? (fun x => x.1)).map (fun x => x.2)

/-! ### SCALAR_OP (05 R171) -/

def sx (w : W64) : Int := w.toInt

/-- Result and flags of SOP on A and B. -/
def scalarResult (sop : Nat) (a b : W64) : W64 × BitVec 5 :=
  let f := fun (r : Nat × BitVec 5) => (BitVec.ofNat 64 r.1, r.2)
  let a32 := a.toNat % pow2 32
  let b32 := b.toNat % pow2 32
  let sh := b.toNat % 64
  match sop with
  | 0x00 => (b, 0)
  | 0x01 => (a + b, 0)
  | 0x02 => (a - b, 0)
  | 0x03 => (a * b, 0)
  | 0x04 => (a &&& b, 0)
  | 0x05 => (a ||| b, 0)
  | 0x06 => (a ^^^ b, 0)
  | 0x07 => (a <<< sh, 0)
  | 0x08 => (a >>> sh, 0)
  | 0x09 => (a.sshiftRight sh, 0)
  | 0x0A => (if a.toNat ≤ b.toNat then a else b, 0)
  | 0x0B => (if a.toNat ≤ b.toNat then b else a, 0)
  | 0x0C => (if sx a ≤ sx b then a else b, 0)
  | 0x0D => (if sx a ≤ sx b then b else a, 0)
  | 0x0E => (if b == 0 then 0xFFFFFFFFFFFFFFFF else BitVec.ofNat 64 (a.toNat / b.toNat), 0)
  | 0x0F => (if b == 0 then a else BitVec.ofNat 64 (a.toNat % b.toNat), 0)
  | 0x10 => f (fadd a32 b32)
  | 0x11 => f (fmul a32 b32)
  | 0x12 => f (ftoi64 b32)
  | _ => f (itof b.toNat)

/-- BRANCH conditions (05 R177). -/
def branchHolds (cond : Nat) (a b : W64) : Bool :=
  let a32 := a.toNat % pow2 32
  let b32 := b.toNat % pow2 32
  match cond with
  | 0 => a == b
  | 1 => a != b
  | 2 => a.toNat < b.toNat
  | 3 => b.toNat ≤ a.toNat
  | 4 => sx a < sx b
  | 5 => sx b ≤ sx a
  | 6 => fcmpLt a32 b32
  | _ => fcmpLe b32 a32

end Sys2Proof.Machine
end

