-- ==== Sys2Proof/Machine/Hitch.lean ====
section
/-! DEFINITION. How commands end: accounting of engine attempts (02 R87, R88, 15 R444 to R448), release of engines (08 R256),
discard of windows (06 R220, R221), queues in error (13 R389), and the operations on hitches and events (02 R68 to R79). -/

namespace Sys2Proof.Machine

/-! ### Commands of a queue -/

/-- The command has started (05 R155). -/
def Cmd.started (k : Cmd) : Bool := match k.phase with | .fetched => false | .wantResource _ _ => false | _ => true

/-- The command holds engines. -/
def Cmd.onEngine (k : Cmd) : Bool := match k.phase with | .running => true | .stopping _ => true | _ => false

/-- The command at the start position (06 R190). -/
def Queue.front (x : Queue) : Option Cmd := x.cmds.find? (fun k => !k.started)

/-- A command as it is fetched: it holds one logbook unit (13 R391). -/
def freshCmd (seq ctx owner : Nat) (list : Option Nat) (params : List Param) (pos : Nat) (cells : List W128) : Cmd :=
  { seq := seq, ctx := ctx, owner := owner, list := list, params := params, pos := pos, cells := cells, phase := .fetched,
    check := none, refs := [], status := 0, detail := 0,
    fault := none, specFault := false, startGait := 0, startClock := 0, engineClock := none, engineCyc := 0, doneGait := 0, engineNs := 0,
    nflags := 0, replays := 0, deadline := none, late := false, spec := none, scalarW := [], inputs := [], outputs := [],
    wroteOutputs := [], job := .none, teams := [], groom := none, outriders := [], heldBy := [], undo := [], saved := [],
    carriedLost := false, cores := [], wroteInput := false, published := false, logOk := true, units := 1, slotWait := false,
    specReg := false, accrued := [], accCyc := 0, runs := [], trace := none, trig := none, remote := none, heldReplays := [],
    progress := 0, fold := Fold.start, specWrites := [], order := 0, wire := [] }

def modList (x : Queue) (s : Nat) (f : ListExec → ListExec) : Queue :=
  { x with lists := x.lists.map (fun l => if l.cmd.seq == s then f l else l) }

def listOf (x : Queue) (s : Nat) : Option ListExec := x.lists.find? (fun l => l.cmd.seq == s)

def paramVal (ps : List Param) (s : Nat) : W64 := match ps[s]? with | some p => p.value | none => 0

/-- TARGET of a WAIT_HITCH or SIGNAL_HITCH (05 R163). -/
def targetOf (k : Cmd) : W64 :=
  if bit k.bits 192 then paramVal k.params (bits k.bits 133 128) else BitVec.ofNat 64 (bits k.bits 191 128)

def fieldHandle (p hi : Nat) : Handle := BitVec.ofNat 32 (bits p hi (hi - 31))

def faultInfo (c : Chip) (cls engine : Nat) (object : W32) (p0 p1 p2 : Nat) : FaultInfo :=
  { cls := cls, engine := engine, object := object, p0 := BitVec.ofNat 64 p0, p1 := BitVec.ofNat 64 p1, p2 := BitVec.ofNat 64 p2,
    gait := c.gait }

def ctxOfQueue (c : Chip) (q : Nat) : Nat := match tget c.queues q with | some x => x.ctx | none => 0xFFFF

/-! ### Reads and poison -/

/-- HBM bytes that a command reads (15 R444 counters 64 to 71, EVENT 7). -/
def noteRead (c : Chip) (q : Nat) (k : Cmd) (m : MemObj) (half off n : Nat) : Chip :=
  if m.kind != .device then c else cntCmd (cntHbm c 64 (m.at half off) n) q k k.ctx 7 1023 n

def noteWrite (c : Chip) (q : Nat) (k : Cmd) (m : MemObj) (n : Nat) : Chip :=
  if m.kind != .device then c else cntCmd c q k k.ctx 8 1023 n

/-- The first poisoned line that a read of [a, a + n) meets; a pending granule is not read from HBM (10 R315). -/
def readPoison (c : Chip) (a n : Nat) : Option Nat := (linesOf a n).find? (fun l => linePoisoned c l && !pendingByte c (l * 64))

/-- First detection of a poisoned line of a memory object or elsewhere in HBM (10 R323, 13 R388). -/
def detectPoison (c : Chip) (line loc : Nat) : Chip :=
  if c.memory.detected.contains line then c else
  let c := { c with memory := { c.memory with detected := insertNat c.memory.detected line } }
  let o := objAt c (line * 64)
  postError c { cls := 0x20, tenant := o.map (fun p => p.2.owner), engine := 6,
                object := (o.map (fun p => p.2.handle)).getD 0, p0 := BitVec.ofNat 64 (line * 64), p1 := BitVec.ofNat 64 loc }

/-! ### Engine time (05 R159, 02 R88) -/

/-- A command takes its engines: an interval opens, and with its first the engine time of the attempt (05 R159). -/
def openRun (c : Chip) (k : Cmd) : Cmd :=
  { k with runs := (c.clock, 0) :: k.runs, engineCyc := c.cycles, engineClock := some (k.engineClock.getD c.clock) }

/-- The open interval of a command that leaves its engines closes. -/
def closeRun (c : Chip) (k : Cmd) : Cmd :=
  match k.runs with
  | (a, _) :: r => { k with runs := (a, c.clock) :: r, accCyc := k.accCyc + (c.cycles - k.engineCyc) }
  | [] => k

def runNs (k : Cmd) : Nat := sumBy (fun p => p.2 - p.1) k.runs

/-- Disjoint ascending intervals with one more. -/
def insertIv : List (Nat × Nat) → Nat → Nat → List (Nat × Nat)
  | [], a, b => [(a, b)]
  | (x, y) :: r, a, b =>
    if b < x then (a, b) :: (x, y) :: r else if y < a then (x, y) :: insertIv r a b else insertIv r (min x a) (max y b)

def isLaunch (k : Cmd) : Bool := k.opcode == opLaunch

def addUtil (c : Chip) (ctx : Nat) (f : Util → Util) : Chip := modContext c ctx (fun x => { x with util := f x.util })

/-- Cluster-cycles of an ended attempt: of all its clusters. -/
def cycTotal (k : Cmd) (teams : List Nat) : Nat := k.accCyc * (8 * teams.length) / 1000

/-- CLUSTER_CYCLES, or SPEC_DISCARD_CYCLES of a discarded attempt, in the utilisation record (02 R87, R88). -/
def accrueCyc (c : Chip) (q : Nat) (k : Cmd) (teams : List Nat) (discarded : Bool) : Chip :=
  let ctx := k.ctx
  let n := cycTotal k teams
  if n == 0 then c
  else if discarded then
    let c := addUtil c ctx (fun u => { u with specDiscard := u.specDiscard + BitVec.ofNat 64 n })
    let c := cntFix c 1 n
    teams.foldl (fun c t => (List.range 8).foldl (fun c i => cntEv c ctx 2 (8 * t + i) (k.accCyc / 1000) .all) c) c
  else
    let c := teams.foldl (fun c t => (List.range 8).foldl (fun c i => cntCmd c q k ctx 1 (8 * t + i) (k.accCyc / 1000)) c) c
    addUtil c ctx (fun u => { u with clusterCycles := u.clusterCycles + BitVec.ofNat 64 n })

/-- Busy times and bytes of an ended attempt. `bytes` are those moved or written. -/
def accrueBusy (c : Chip) (q : Nat) (k : Cmd) (bytes : Nat) : Chip :=
  let ctx := k.ctx
  let b := BitVec.ofNat 64 bytes
  let ns := BitVec.ofNat 64 (runNs k)
  if isLaunch k then
    addUtil c ctx (fun u =>
      let iv := k.runs.foldl (fun l p => insertIv l p.1 p.2) u.busyIv
      { u with busyIv := iv, computeBusy := BitVec.ofNat 64 (sumBy (fun p => p.2 - p.1) iv) })
  else if k.opcode == opGroom then
    let c := addUtil c ctx (fun u => { u with groomBusy := u.groomBusy + ns, groomBytes := u.groomBytes + b })
    let c := match k.groom with | some g => cntFix c (36 + g) bytes | none => c
    cntCmd c q k ctx 5 1023 bytes
  else
    let c := addUtil c ctx (fun u =>
      { u with outriderBusy := u.outriderBusy + ns * BitVec.ofNat 64 k.outriders.length, outriderBytes := u.outriderBytes + b })
    let c := match k.outriders with | g :: _ => cntFix c (56 + g) bytes | [] => c
    cntCmd c q k ctx 6 1023 bytes

/-- The residency tag (context, team index) goes to team t, which alone carries it (08 R256). -/
def putTag (tags : Tab (Nat × Nat)) (t : Nat) (v : Nat × Nat) : Tab (Nat × Nat) := tset (tags.filter (fun p => p.2 != v)) t v

/-- Engines given up, and the resident program's reference dropped. The teams take the residency tag of the launch when it
completes, fails or is preempted (`tag`; 08 R256), not when it is discarded. -/
def freeEngines (c : Chip) (q : Nat) (k : Cmd) (tag : Bool) : Chip :=
  let me := fun (h : Nat × Nat) => h == (q, k.seq)
  let cp := c.compute
  let cp := { cp with holders := cp.holders.filter (fun p => !me p.2), groom := cp.groom.filter (fun p => !me p.2),
                      outrider := cp.outrider.filter (fun p => !me p.2),
                      tags := if tag then k.teams.zipIdx.foldl (fun t p => putTag t p.1 (k.ctx, p.2)) cp.tags
                              else cp.tags }
  let c := { c with compute := cp }
  match k.job with
  | .launch prog _ _ _ _ _ _ _ _ _ => (match tget c.mems prog with | some m => dropRef c m.handle | none => c)
  | _ => c

/-- The attempt of a command on its engines ends (by completion, fault or discard): accounts are made and engines freed. The
command comes back without engines. -/
def endAttempt (c : Chip) (q : Nat) (k : Cmd) (bytes : Nat) (discarded : Bool) : Chip × Cmd :=
  let on := k.onEngine
  let k := if on then closeRun c k else k
  let ts := if on then k.teams else k.heldBy
  let c := accrueCyc c q k ts discarded
  let c := accrueBusy c q k bytes
  let c := if on then freeEngines c q k (!discarded) else c
  let j := (cmdOf c q k.seq).getD k
  let k := { k with accrued := j.accrued, runs := [], accCyc := 0, heldBy := ts, teams := [], groom := none,
                    outriders := [] }
  (updCmd c q k.seq (fun _ => k), k)

/-- Preemption: engines freed, the attempt goes on later (06 R198). -/
def suspend (c : Chip) (q : Nat) (k : Cmd) : Chip × Cmd :=
  let k := closeRun c k
  let c := freeEngines c q k true
  let k := { k with heldBy := k.teams, teams := [], groom := none, outriders := [] }
  (updCmd c q k.seq (fun _ => k), k)

/-! ### Leaving the sequence -/

def isWaiterOf (q seq : Nat) (w : Waiter) : Bool := match w with | .cmd a b _ _ => a == q && b == seq | .event _ _ => false

/-- A command's waiter slot freed, with its reference on the hitch (02 R81). -/
def unregister (c : Chip) (q seq h : Nat) : Chip :=
  match tget c.hitches h with
  | none => c
  | some x =>
    if x.waiters.any (isWaiterOf q seq) then
      dropRef (modHitch c h (fun y => { y with waiters := y.waiters.filter (fun w => !isWaiterOf q seq w) })) x.handle
    else c

/-- The command leaves the queue: logbook units return and references drop (13 R391, 02 R81). -/
def forgetCmd (c : Chip) (q : Nat) (k : Cmd) : Chip :=
  let c := modQueue c q (fun x => { x with cmds := x.cmds.filter (fun j => j.seq != k.seq) })
  dropRefs { c with logFree := c.logFree + k.units } k.refs

/-- The bytes that a discarded command wrote are unspecified from then on (06 R220, log 76). -/
def spoil (c : Chip) (k : Cmd) : Chip :=
  k.specWrites.foldl (fun c p =>
    { c with free := c.free + 1,
             memory := { c.memory with hbm := writeBytes c.memory.hbm p.1 ((List.range p.2).map (Config.freeByte c.free)) } }) c

/-- What a discarded command leaves behind at once: its waiter, its held accounts, and engine work that runs on to its next
preemption point (06 R220). -/
def abandon (c : Chip) (q : Nat) (k : Cmd) : Chip :=
  let c := if k.phase == .waiting then unregister c q k.seq (hIndex (fieldHandle k.bits 95)) else c
  let c :=
    if k.onEngine then { c with ghosts := c.ghosts ++ [{ q := q, cmd := { k with refs := [], units := 0 } }] }
    else accrueCyc (if k.runs.isEmpty then c else accrueBusy c q k 0) q k k.heldBy true
  spoil c k

/-- Discard of a body command: it leaves without record and drops its references (06 R220, 02 R83). -/
def discardCmd (c : Chip) (q : Nat) (k : Cmd) : Chip := forgetCmd (abandon c q k) q k

/-- The packet of a discarded ring command has been fetched, so it is executed again on the path that the outcome names (log 75). -/
def refetched (k : Cmd) : Cmd :=
  { freshCmd k.seq k.ctx k.owner none [] k.pos k.cells with check := k.check, refs := k.refs }

def rewindCmd (c : Chip) (q : Nat) (k : Cmd) : Chip :=
  let c := abandon c q k
  updCmd { c with logFree := c.logFree + (k.units - 1) } q k.seq (fun _ => refetched k)

/-- Ring commands after sequence number `b` take new sequence numbers from n on (log 75). -/
def renumber (b : Nat) : Nat → List Cmd → List Cmd
  | _, [] => []
  | n, k :: r => if b < k.seq && k.list.isNone then { k with seq := n } :: renumber b (n + 1) r else k :: renumber b n r

def renumberQueue (x : Queue) (b : Nat) : Queue :=
  { x with cmds := renumber b x.nextSeq x.cmds, nextSeq := x.nextSeq + x.cmds.countP (fun k => b < k.seq && k.list.isNone) }

/-- Discards the segment that BRANCH `b` opened and every later one (06 R220). -/
def discardFrom (c : Chip) (q b : Nat) : Chip :=
  match tget c.queues q with
  | none => c
  | some x =>
    let n := x.segs.countP (fun s => b ≤ s.branch)
    let c := modQueue c q (fun x => { x with segs := x.segs.filter (fun s => s.branch < b) })
    let c := (x.cmds.filter (fun k => b < k.seq)).foldl (fun c k =>
      if k.list.isSome then discardCmd c q k else if k.started then rewindCmd c q k else c) c
    cntFix (modQueue c q (fun x => renumberQueue x b)) 5 n

/-- Discards every open window of the queue (06 R221). The outermost BRANCH goes on waiting for its slots and then takes the path
that its outcome names (log 13). -/
def discardWindows (c : Chip) (q : Nat) : Chip :=
  match tget c.queues q with
  | none => c
  | some x =>
    match x.segs with
    | [] => c
    | s :: _ =>
      let c := discardFrom c q s.branch
      match x.cmds.find? (fun k => k.seq == s.branch) with
      | none => c
      | some b =>
        modQueue c q (fun x => modList x (b.list.getD 0) (fun l =>
          { l with pos := b.pos, stack := s.stack, ctl := true, ended := false }))

/-- Commands that only wait for resources go back to the start position (06 R190): what holds the queue changed. -/
def demote (c : Chip) (q : Nat) : Chip :=
  modQueue c q (fun x => { x with cmds := x.cmds.map (fun k =>
    match k.phase with | .wantResource _ _ => { k with phase := .fetched } | _ => k) })

/-- The body of a started list ends; its unstarted commands leave without record (13 R390). -/
def stopList (c : Chip) (q s : Nat) : Chip :=
  match tget c.queues q with
  | none => c
  | some x =>
    let c := modQueue c q (fun x => modList x s (fun l => { l with ended := true, ctl := false }))
    (x.cmds.filter (fun k => k.list == some s && !k.started)).foldl (fun c k => forgetCmd c q k) c

/-- The queue enters error (02 R63, 13 R389): code of its first failure and its ORIGIN. -/
def enterError (c : Chip) (q code origin : Nat) : Chip :=
  match tget c.queues q with
  | none => c
  | some x =>
    if x.err.isSome then c else
    demote (discardWindows (modQueue c q (fun x => { x with err := some (code, origin) })) q) q

/-- ORIGIN of 02 R75. -/
def originOf (c : Chip) (ctx : Nat) (k : Cmd) : Nat :=
  if k.status == stBroken && k.fault.isNone then
    match tget c.hitches (hIndex (fieldHandle k.bits 95)) with | some h => bits h.broken.toNat 11 0 | none => ctx
  else ctx

/-- A failure takes hold of its queue. -/
def takeFailure (c : Chip) (q : Nat) (k : Cmd) : Chip :=
  let c := enterError c q k.status (originOf c (ctxOfQueue c q) k)
  match k.list with | some l => stopList c q l | none => c

def beatOf (e : Env) (d : Nat) : Beat := (tget e.beats d).getD Beat.reset

/-- The deadline of a started command has passed (05 R169). -/
def missed (c : Chip) (e : Env) (q : Nat) (k : Cmd) : Bool :=
  k.beatFlag && (match k.deadline with
    | some t => t < c.gait
    | none => match (tget c.contexts (ctxOfQueue c q)).bind (fun x => x.beat) with
      | some d => (beatOf e d).next < c.gait
      | none => false)

/-- The command completes (05 R155). A failure of a speculative command is held, and no further command of its segment starts
(06 R218). -/
def complete (c : Chip) (e : Env) (q : Nat) (k : Cmd) (st det : Nat) (f : Option FaultInfo) : Chip :=
  let k := { k with phase := .completed, status := if st == stOk && k.replays != 0 then stReplayed else st, detail := det,
                    fault := f, doneGait := c.gait, late := missed c e q k, specFault := k.spec.isSome && isFailure st }
  let c := updCmd c q k.seq (fun _ => k)
  if !isFailure st then c else if k.spec.isNone then takeFailure c q k else demote c q

/-! ### Hitches and events (02 R68 to R79) -/

/-- Signal of a wait's end: who signalled or broke. -/
def sigOf (x : Queue) (k : Cmd) (gait : Nat) : Breaker := { queue := x.handle, tag := k.tag, ctx := x.ctx, gait := gait }

def waitTrace (c : Chip) (x : Queue) (k : Cmd) (sig : Option Breaker) (status ending : Nat) : TraceRec :=
  { tenant := x.owner, sat := c.gait, signal := match sig with | some b => b.gait | none => c.gait, wait := k.startGait,
    target := targetOf k, hitch := fieldHandle k.bits 95, waiter := x.handle,
    signaller := match sig with | some b => b.queue | none => 0, sigTag := match sig with | some b => b.tag | none => 0,
    waitTag := k.tag, sigCtx := match sig with | some b => b.ctx | none => 0xFFF, waitCtx := x.ctx, status := status,
    ending := ending, slotWait := k.slotWait, event := false, spec := k.specReg }

/-- A wait that registered or waited for a slot ends (02 R70, 15 R459). -/
def endWait (c : Chip) (e : Env) (q : Nat) (k : Cmd) (st ending : Nat) (sig : Option Breaker) (f : Option FaultInfo) : Chip :=
  match tget c.queues q with
  | none => c
  | some x =>
    let r := waitTrace c x k sig st ending
    let c := unregister c q k.seq (hIndex (fieldHandle k.bits 95))
    let c := cntCmd c q k x.ctx 9 1023 (c.clock - k.startClock)
    let k := (cmdOf c q k.seq).getD k
    let c := complete c e q { k with trace := if k.spec.isSome then some r else none } st 0 f
    if k.spec.isSome then c else postTrace c r

/-- An armed event fires (02 R79). -/
def fireEvent (c : Chip) (i : Nat) (st : EventState) (sig : Option Breaker) : Chip :=
  match tget c.events i with
  | none => c
  | some v =>
    let hh := (tget c.hitches v.hitch).map (fun h => h.handle)
    let r : TraceRec :=
      { tenant := v.owner, sat := c.gait, signal := match sig with | some b => b.gait | none => c.gait, wait := v.armGait,
        target := v.target, hitch := hh.getD 0, waiter := v.handle, signaller := match sig with | some b => b.queue | none => 0,
        sigTag := match sig with | some b => b.tag | none => 0, waitTag := 0,
        sigCtx := match sig with | some b => b.ctx | none => 0xFFF, waitCtx := 0xFFF,
        status := if st == .broken then stBroken else stOk, ending := if st == .broken then 1 else 0, slotWait := false,
        event := true, spec := false }
    let c := modEvent c i (fun v => { v with state := st, fireGait := c.gait })
    let c := modHitch c v.hitch (fun h => { h with waiters := h.waiters.filter (fun w => match w with | .event j _ => j != i | _ => true) })
    let c := match hh with | some h => dropRef c h | none => c
    postTrace (raiseSource c v.source) r

def Waiter.goal : Waiter → Nat
  | .cmd _ _ t _ => t.toNat
  | .event _ t => t.toNat

def insertWaiter (w : Waiter) : List Waiter → List Waiter
  | [] => [w]
  | v :: r => if w.goal ≤ v.goal then w :: v :: r else v :: insertWaiter w r

/-- Ascending target, registration order among equals (02 R71). -/
def releaseOrder (ws : List Waiter) : List Waiter := ws.foldr insertWaiter []

def releaseWaiter (c : Chip) (e : Env) (broken : Bool) (sig : Breaker) (w : Waiter) : Chip :=
  match w with
  | .cmd q seq _ _ =>
    match cmdOf c q seq with
    | some k => endWait c e q k (if broken then stBroken else stOk) (if broken then 1 else 0) (some sig) none
    | none => c
  | .event i _ => fireEvent c i (if broken then .broken else .fired) (some sig)

/-- A signal takes effect on a hitch that is not broken (02 R69, R71). -/
def signalHitch (c : Chip) (e : Env) (h : Nat) (target : W64) (sig : Breaker) : Chip :=
  match tget c.hitches h with
  | none => c
  | some x =>
    let v := if x.value.toNat < target.toNat then target else x.value
    let c := modHitch c h (fun x => { x with value := v })
    (releaseOrder (x.waiters.filter (fun w => w.goal ≤ v.toNat))).foldl (fun c w => releaseWaiter c e false sig w) c

/-- A break (02 R74 to R76); a second one changes nothing. -/
def breakHitch (c : Chip) (e : Env) (h code origin : Nat) (sig : Breaker) (opcode : Nat) : Chip :=
  match tget c.hitches h with
  | none => c
  | some x =>
    if x.broken != 0 then c else
    let rec32 : W32 := BitVec.ofNat 32 (0x80000000 + field code 20 8 + field origin 0 12)
    let c := modHitch c h (fun x => { x with broken := rec32, breaker := some sig })
    let c := (releaseOrder x.waiters).foldl (fun c w => releaseWaiter c e true sig w) c
    postError c { cls := 0x08, tenant := some x.owner, ctx := sig.ctx, status := code, opcode := opcode, engine := 4, tag := sig.tag,
                  queue := sig.queue, object := x.handle, p0 := BitVec.ofNat 64 rec32.toNat, p1 := x.value }

/-- CODE and ORIGIN of a break by a queue (02 R74, R75). -/
def breakCode (x : Queue) : Nat × Nat := match x.err with | some p => p | none => (stCancelled, x.ctx)

/-- The hitch of a SIGNAL_HITCH may be broken: it passed the handle check at its fetch (`accepted`), or it passes it now. Tenant
teardown, which sets every host half to 0 first, does not shield the hitches of its queues (02 R73, R86, 13 R403, log 77). -/
def breakable (c : Chip) (t : Nat) (accepted : Bool) (h : Handle) : Bool :=
  if accepted || (tenantOf c t).teardown then hType h == 5 && (match objOf c h with | some (o, _) => o == t | none => false)
  else handleOk c t [5] h

/-- A SIGNAL_HITCH packet of the queue breaks its hitch, if its handle is good (02 R73). -/
def breakBy (c : Chip) (e : Env) (q : Nat) (p : Nat) (accepted : Bool) : Chip :=
  match tget c.queues q with
  | none => c
  | some x =>
    let h := fieldHandle p 95
    if breakable c x.owner accepted h then
      breakHitch c e (hIndex h) (breakCode x).1 (breakCode x).2 { queue := x.handle, tag := tagOf p, ctx := x.ctx, gait := c.gait } opSignal
    else c

end Sys2Proof.Machine
end

