-- ==== Sys2Proof/Machine/Plan.lean ====
section
/-! DEFINITION. The cabling plan (11 R330, R340 to R342), port classification (11 R337) and routing entries (11 R344). -/

namespace Sys2Proof.Machine

/-- The neighbour position that a port faces (11 R330), if it lies in the mesh. -/
def facing (w h x y port : Nat) : Option (Nat × Nat) :=
  if port == 0 then (if x + 1 < w then some (x + 1, y) else none)
  else if port == 1 then (if x == 0 then none else some (x - 1, y))
  else if port == 2 then (if y + 1 < h then some (x, y + 1) else none)
  else (if y == 0 then none else some (x, y - 1))

/-- The port at the other end of a link. -/
def oppositePort (p : Nat) : Nat := if p == 0 then 1 else if p == 1 then 0 else if p == 2 then 3 else 2

def planChips (b : List Byte) : List PlanChip :=
  (List.range (leAt b 8 2)).map (fun i =>
    let o := 0x40 + 16 * i
    { serial := leAt b o 8, block := leAt b (o + 8) 2, x := leAt b (o + 10) 1, y := leAt b (o + 11) 1, slice := leAt b (o + 12) 2 })

def planLinks (b : List Byte) : List PlanLink :=
  (List.range (leAt b 10 2)).map (fun i =>
    let n := leAt b (0x40 + 16 * leAt b 8 2 + 8 * i) 8
    { ax := bits n 7 0, ay := bits n 15 8, aPort := bits n 33 32, bx := bits n 23 16, by_ := bits n 31 24, bPort := bits n 35 34 })

/-- Bytes of a plan record. -/
def planLen (b : List Byte) : Nat := 0x40 + 16 * leAt b 8 2 + 8 * leAt b 10 2

/-- The chips of one key form a rectangle: as many as their bounding box has places. -/
def rectangle (cs : List PlanChip) : Bool :=
  match cs with
  | [] => true
  | c :: r =>
    let x0 := r.foldl (fun a d => min a d.x) c.x
    let x1 := r.foldl (fun a d => max a d.x) c.x
    let y0 := r.foldl (fun a d => min a d.y) c.y
    let y1 := r.foldl (fun a d => max a d.y) c.y
    cs.length == (x1 + 1 - x0) * (y1 + 1 - y0)

def chipAt (cs : List PlanChip) (x y : Nat) : Option PlanChip := cs.find? (fun c => c.x == x && c.y == y)

def linkJoins (l : PlanLink) (x y u v : Nat) : Bool :=
  (l.ax == x && l.ay == y && l.bx == u && l.by_ == v) || (l.ax == u && l.ay == v && l.bx == x && l.by_ == y)

def linkLegal (w h : Nat) (cs : List PlanChip) (l : PlanLink) : Bool :=
  (chipAt cs l.ax l.ay).isSome && facing w h l.ax l.ay l.aPort == some (l.bx, l.by_) && (chipAt cs l.bx l.by_).isSome
    && l.bPort == oppositePort l.aPort

/-- Endpoints of all links. -/
def endpoints (ls : List PlanLink) : List (Nat × Nat × Nat) := ls.flatMap (fun l => [(l.ax, l.ay, l.aPort), (l.bx, l.by_, l.bPort)])

/-- 11 R341, for a record of exactly its own length. -/
def planLegal (b : List Byte) : Bool :=
  let n := leAt b 8 2
  let w := leAt b 12 1
  let h := leAt b 13 1
  let cs := planChips b
  let ls := planLinks b
  b.length == planLen b && 0x40 ≤ b.length && leAt b 0 4 == 0x3150435A && 1 ≤ leAt b 4 4 && 1 ≤ n && n ≤ 256 && leAt b 10 2 ≤ 480
    && 1 ≤ w && w ≤ 16 && 1 ≤ h && h ≤ 16 && leAt b 14 2 == 0 && zerosAt b 0x14 0x2C && crc32c (zeroAt b 0x10 4) == leAt b 0x10 4
    && (List.range n).all (fun i => zerosAt b (0x40 + 16 * i + 14) 2)
    && (List.range (leAt b 10 2)).all (fun i => bits (leAt b (0x40 + 16 * n + 8 * i) 8) 63 36 == 0)
    && cs.all (fun c => c.x < w && c.y < h && c.slice ≤ 0xFFFE)
    && decide ((cs.map (fun c => (c.x, c.y))).Nodup) && decide ((cs.map (fun c => c.serial)).Nodup) && (chipAt cs 0 0).isSome
    && ls.all (linkLegal w h cs) && decide (endpoints ls).Nodup
    && cs.all (fun c => rectangle (cs.filter (fun d => d.block == c.block)) && rectangle (cs.filter (fun d => d.slice == c.slice)))
    && cs.all (fun c => [0, 2].all (fun p =>
        match facing w h c.x c.y p with
        | none => true
        | some (u, v) => match chipAt cs u v with
          | some d => d.slice != c.slice || ls.any (fun l => linkJoins l c.x c.y u v)
          | none => true))

/-- An unplanned chip (11 R342). -/
def Place.none : Place :=
  { planned := false, gen := 0, x := 0, y := 0, block := 0, slice := 0xFFFF, meshW := 1, meshH := 1, chips := [], links := [] }

/-- Identity from a record and the fused serial (11 R342). -/
def placeOf (b : List Byte) (serial : Nat) : Place :=
  let b := b.take (planLen b)
  if !planLegal b then Place.none else
  match (planChips b).find? (fun c => c.serial == serial) with
  | some c =>
    { planned := true, gen := leAt b 4 4, x := c.x, y := c.y, block := c.block, slice := c.slice, meshW := leAt b 12 1,
      meshH := leAt b 13 1, chips := planChips b, links := planLinks b }
  | none => Place.none

/-- This chip's number. -/
def Place.num (p : Place) : Nat := 16 * p.y + p.x

/-- The planned partner of a port: coordinates, port and serial. -/
def partner (p : Place) (port : Nat) : Option (Nat × Nat × Nat × Nat) :=
  match p.links.find? (fun l => (l.ax == p.x && l.ay == p.y && l.aPort == port) || (l.bx == p.x && l.by_ == p.y && l.bPort == port)) with
  | none => none
  | some l =>
    let r := if l.ax == p.x && l.ay == p.y && l.aPort == port then (l.bx, l.by_, l.bPort) else (l.ax, l.ay, l.aPort)
    (chipAt p.chips r.1 r.2.1).map (fun c => (r.1, r.2.1, r.2.2, c.serial))

/-- Fields of a HELLO payload (11 R336). -/
def hSerial (h : W256) : Nat := bits h.toNat 255 192
def hGen (h : W256) : Nat := bits h.toNat 191 160
def hBlock (h : W256) : Nat := bits h.toNat 159 144
def hY (h : W256) : Nat := bits h.toNat 127 120
def hX (h : W256) : Nat := bits h.toNat 119 112
def hPort (h : W256) : Nat := bits h.toNat 105 104
def hPlanned (h : W256) : Bool := bit h.toNat 103
def hDevState (h : W256) : Nat := bits h.toNat 102 100
def hLegal (h : W256) : Bool := bits h.toNat 111 106 == 0 && bits h.toNat 99 0 == 0

/-- PORT_STATE of a trained port that received h (11 R337): 2 UP, 4 UNEXPECTED, 5 SWAPPED. -/
def classify (p : Place) (port : Nat) (h : W256) : Nat :=
  if !p.planned || !hPlanned h || hGen h != p.gen then 4
  else match partner p port with
    | none => 4
    | some (x, y, q, s) =>
      if hX h == x && hY h == y && hPort h == q && hSerial h == s then 2
      else if (endpoints p.links).contains (hX h, hY h, hPort h)
          && (match chipAt p.chips (hX h) (hY h) with | some c => c.serial == hSerial h | none => false) then 5
      else 4

def portOf (f : Fabric) (q : Nat) : Port := (tget f.ports q).getD Port.reset

/-- A link is block-edge when its chips carry different block ids (11 R331), and so is a port that leads out of a block of several
chips (R332). -/
def blockEdge (p : Place) (port : Nat) : Bool :=
  match partner p port with
  | some (x, y, _, _) => (match chipAt p.chips x y with | some c => c.block != p.block | none => false)
  | none =>
    p.planned && 1 < p.chips.countP (fun c => c.block == p.block)
      && (match (facing p.meshW p.meshH p.x p.y port).bind (fun n => chipAt p.chips n.1 n.2) with
          | some c => c.block != p.block
          | none => true)

/-- OUT and REASON of the routing entry for destination d (11 R344). -/
def route (f : Fabric) (p : Place) (d : Nat) : Nat × Nat :=
  let dx := d % 16
  let dy := d / 16
  if f.forced.contains d then (7, 3)
  else if d == p.num && !p.planned then (4, 0)
  else match chipAt p.chips dx dy with
    | none => (7, 2)
    | some c =>
      if c.slice != p.slice then (7, 1)
      else if d == p.num then (4, 0)
      else
        let q := if p.x < dx then 0 else if dx < p.x then 1 else if p.y < dy then 2 else 3
        if (portOf f q).state == 2 then (q, 0) else (5, 0)

/-- The chip at (0, 0) of the mesh (11 R356). -/
def timeMaster (p : Place) : Bool := p.planned && p.num == 0

/-- ALIGNED (15 R463). -/
def alignedNow (dev : DevState) (f : Fabric) (p : Place) : Bool :=
  (dev == .ready || dev == .walk) &&
    (!p.planned || timeMaster p
      || (match f.parent with
          | some q => f.measured && f.offset.natAbs ≤ 2 && (portOf f q).aligned
          | none => false))

/-- Ports that are UP. -/
def upPorts (f : Fabric) : List Nat := (List.range 4).filter (fun q => (portOf f q).state == 2)

end Sys2Proof.Machine
end

