-- ==== Sys2Proof/Machine/Prep.lean ====
section
/-! DEFINITION. What an engine command fixes at its start (13 R392): arguments, descriptors, halves, inputs, outputs and the
checks of 05 R153, 07 R233, 09 R299, 11 R350 to R352 and 03 R114. -/

namespace Sys2Proof.Machine

/-- What a start fixes and needs. -/
structure Prep where
  job : Job
  inputs : List InputRef
  outputs : List OutputRef
  teams : Nat
  grooms : Nat
  outriders : Nat
  units : Nat
  deriving DecidableEq, Repr

/-- Whether an engine command may start. -/
inductive Ready where
  /-- held under SPEC (05 R180, 06 R216) -/
  | wait
  /-- completes with this status and record; `count`: TP_WIN_FAULTS rises -/
  | fail (st det : Nat) (f : FaultInfo) (count : Bool)
  /-- the issuer's routing entry is DOWN (11 R351) -/
  | down
  | go (p : Prep)
  deriving DecidableEq, Repr

/-! ### Names -/

/-- The live descriptor that an ID names (09 R278). -/
def descOf (c : Chip) (t id : Nat) : Option W512 :=
  let i := bits id 15 0
  if id ≥ pow2 24 || i == 0 then none
  else match tget (tenantOf c t).descs.slots i with
    | some s => if s.reuse == bits id 23 16 then s.live else none
    | none => none

/-- A handle that passed at the fetch stays good (05 R153); else it is checked now. -/
def named (c : Chip) (t : Nat) (k : Cmd) (tys : List Nat) (h : Handle) : Bool :=
  tys.contains (hType h) && (k.refs.contains h || handleOk c t tys h)

def memNamed (c : Chip) (t : Nat) (k : Cmd) (h : Handle) : Option (Nat × MemObj) :=
  if named c t k [3] h then (tget c.mems (hIndex h)).map (fun m => (hIndex h, m)) else none

/-! ### Halves (06 R215) -/

def inWindow (x : Queue) : Bool := !x.segs.isEmpty

def specWrote (x : Queue) (k : Cmd) (m : Nat) : Bool :=
  x.cmds.any (fun j => j.seq < k.seq && j.spec.isSome && j.outputs.any (fun o => o.mem == m))

def readHalf (x : Queue) (k : Cmd) (m : Nat) (o : MemObj) : Nat :=
  if !o.double then 0 else if inWindow x && specWrote x k m then 1 - o.pub else o.pub

def writeHalf (x : Queue) (o : MemObj) : Nat := if !o.double then 0 else if inWindow x then 1 - o.pub else o.pub

/-- A speculative output must be a DOUBLE object that no command of another open segment, and no discarded work still running,
writes (05 R180, 06 R216). -/
def specOutputOk (x : Queue) (c : Chip) (m : Nat) : Bool :=
  match tget c.mems m with
  | some o =>
    o.double
      && !x.cmds.any (fun j => j.spec.isSome && j.spec != (x.segs.getLast?).map (fun s => s.branch) && j.outputs.any (fun w => w.mem == m))
      && !c.ghosts.any (fun g => g.cmd.outputs.any (fun w => w.mem == m))
  | none => false

/-! ### Failures -/

def handleFail (c : Chip) (h : W32) : Ready := .fail stHandle 0 (faultInfo c 2 4 h 0 0 0) false
def illegalInfo (c : Chip) (k : Cmd) : FaultInfo :=
  faultInfo c 1 4 0 (field k.pos 0 32 + (if k.list.isSome then pow2 32 else 0)) 0 0
def windowInfo (c : Chip) (engine : Nat) (h : Handle) (off len reason : Nat) : FaultInfo := faultInfo c 3 engine h off len reason
def argFail (c : Chip) (k : Cmd) : Ready := .fail stProgram 0x0C (illegalInfo c k) false

/-- An access that a start checks: object, half, offset, length. -/
structure Access where
  mem : Nat
  half : Nat
  off : Nat
  len : Nat
  deriving DecidableEq, Repr

/-- The first access that the window check refuses (03 R114, 10 R328). -/
def refused (c : Chip) (t engine : Nat) (as : List Access) : Option FaultInfo :=
  as.findSome? (fun a =>
    match tget c.mems a.mem with
    | none => none
    | some m => (windowReason c t m a.half a.off a.len).map (fun r => windowInfo c engine m.handle a.off a.len r))

def countWin (c : Chip) (t : Nat) : Chip :=
  modTenant c t (fun x => { x with winFaults := BitVec.ofNat 32 (satAdd x.winFaults.toNat 1 0xFFFFFFFF) })

/-- The bytes that a descriptor reaches: elements, then scales. -/
def descAccess (r : DescRef) : List Access :=
  [{ mem := r.mem, half := r.half, off := (elemExtent r.img).1, len := (elemExtent r.img).2 }]
    ++ (if (scaleExtent r.img).2 == 0 then []
        else [{ mem := r.mem, half := r.half, off := (scaleExtent r.img).1, len := (scaleExtent r.img).2 }])

def inputRef (c : Chip) (m half : Nat) : InputRef :=
  { mem := m, half := half, stamp := match tget c.mems m with | some o => o.stamp | none => 0 }

/-- A descriptor named by ID resolves to its copy and object, or fails with the status of 05 R163 or of a poisoned page. -/
def resolveDesc (c : Chip) (t : Nat) (k : Cmd) (id : Nat) : Ready ⊕ (W512 × Nat × MemObj) :=
  match descOf c t id with
  | none => .inl (handleFail c (BitVec.ofNat 32 id))
  | some d =>
    if (tenantOf c t).descs.poisoned.contains (bits id 15 0) then
      .inl (.fail stBroken 0x96 (faultInfo c 0x16 6 (BitVec.ofNat 32 id) (bits id 15 0) 1 0) false)
    else match memNamed c t k (dObject d) with
      | some (m, o) => .inr (d, m, o)
      | none => .inl (handleFail c (dObject d))

/-- Spec check and window check common to all engine commands. -/
def finishPrep (c : Chip) (x : Queue) (engine : Nat) (as : List Access) (p : Prep) : Ready :=
  if inWindow x && p.outputs.any (fun o => !specOutputOk x c o.mem) then .wait
  else match refused c x.owner engine as with
    | some f => .fail stWindow 0 f true
    | none => .go p

/-! ### LAUNCH_PROGRAM (05 R164, R165, 07 R233) -/

/-- An argument after substitution: kind, dir, value. -/
structure Arg where
  kind : Nat
  dir : Nat
  v : W64
  deriving DecidableEq, Repr

def launchArgs (k : Cmd) : List Arg :=
  (List.range (bits k.bits 102 96)).map (fun i =>
    let a := argOf k.bits i
    let kd := bits a 63 62
    if kd == 3 then
      let p := ((k.params)[a % 64]?).getD { type := 0, value := 0 }
      { kind := if p.type == 0 then 2 else if p.type == 1 then 1 else 0, dir := bits a 61 60, v := p.value }
    else { kind := kd, dir := bits a 61 60, v := BitVec.ofNat 64 (bits a 31 0) })

/-- KIND, DIR and immediate range against a declaration. -/
def argMatches (a : Arg) (d : Nat) : Bool :=
  a.kind == bits d 1 0 && a.dir == bits d 5 4 && (a.kind != 2 || (bits d 191 128 ≤ a.v.toNat && a.v.toNat ≤ bits d 255 192))

def typeMatches (img : W512) (d : Nat) : Bool :=
  (bit d 16 || dEtype img == bits d 15 12) && (bit d 17 || dRank img == bits d 11 8)

def isInput (dir : Nat) : Bool := dir % 2 == 1
def isOutput (dir : Nat) : Bool := dir ≥ 2

/-- The value of a scalar slot that a command of the queue sees: the window's own writes, else the context's (06 R217). -/
def slotVal (c : Chip) (x : Queue) (k : Cmd) (s : Nat) : W64 :=
  let own := x.cmds.foldl (fun a j => if j.seq < k.seq && j.spec.isSome then (match tget j.scalarW s with | some v => some v | none => a) else a) none
  match own with
  | some v => v
  | none => match tget c.contexts x.ctx with | some y => (tget y.slots s).getD 0 | none => 0

/-- Resolves the arguments in order; stops at the first failure. -/
def resolveArgs (c : Chip) (x : Queue) (k : Cmd) (decls : Nat → Nat) : Nat → List Arg → Ready ⊕ List ArgVal
  | _, [] => .inr []
  | i, a :: r =>
    let one : Ready ⊕ ArgVal :=
      if a.kind == 2 then .inr (.imm a.v)
      else if a.kind == 1 then
        match memNamed c x.owner k (BitVec.ofNat 32 a.v.toNat) with
        | some (m, o) =>
          if o.kind == .device then .inr (.obj m (readHalf x k m o) (writeHalf x o) a.dir) else .inl (handleFail c (BitVec.ofNat 32 a.v.toNat))
        | none => .inl (handleFail c (BitVec.ofNat 32 a.v.toNat))
      else match resolveDesc c x.owner k (a.v.toNat % pow2 32) with
        | .inl f => .inl f
        | .inr (img, m, o) =>
          if typeMatches img (decls i) && !(isOutput a.dir && dBroadcast img) then .inr (.desc img m (readHalf x k m o) (writeHalf x o) a.dir) else .inl (argFail c k)
    match one with
    | .inl f => .inl f
    | .inr v => match resolveArgs c x k decls (i + 1) r with
      | .inl f => .inl f
      | .inr vs => .inr (v :: vs)

def argMem : ArgVal → Option (Nat × Nat × Nat × Nat)
  | .desc _ m r w d => some (m, r, w, d)
  | .obj m r w d => some (m, r, w, d)
  | .imm _ => none

def argAccess (c : Chip) (v : ArgVal) : List Access :=
  match v with
  | .desc img m r w d =>
    (if isInput d then descAccess { img := img, mem := m, half := r } else [])
      ++ (if isOutput d then descAccess { img := img, mem := m, half := w } else [])
  | .obj m r w d =>
    let n := match tget c.mems m with | some o => o.size | none => 0
    (if isInput d then [{ mem := m, half := r, off := 0, len := n }] else [])
      ++ (if isOutput d then [{ mem := m, half := w, off := 0, len := n }] else [])
  | .imm _ => []

def prepLaunch (c : Chip) (x : Queue) (k : Cmd) : Ready :=
  let h := fieldHandle k.bits 95
  match (if named c x.owner k [4] h then (tget c.mems (hIndex h)).bind (fun m => m.image) else none) with
  | none => handleFail c h
  | some im =>
    let b := im.bytes
    let args := launchArgs k
    if args.length != cNargDecl b || !(args.zipIdx.all (fun p => argMatches p.1 (cDecl b p.2))) then argFail c k
    else match im.poisoned with
      | l :: _ => .fail stBroken 0x96 (faultInfo c 0x16 6 h l 1 0) false
      | [] =>
        match resolveArgs c x k (cDecl b) 0 args with
        | .inl f => f
        | .inr vs =>
          if inWindow x && !cSpecSafe b then .wait else
          let ins := vs.filterMap (fun v => (argMem v).bind (fun p => if isInput p.2.2.2 then some (inputRef c p.1 p.2.1) else none))
          let outs := vs.filterMap (fun v => (argMem v).bind (fun p =>
            if isOutput p.2.2.2 then some ({ mem := p.1, half := p.2.2.1 } : OutputRef) else none))
          finishPrep c x 1 (vs.flatMap (argAccess c))
            { job := .launch (hIndex h) (cTeams b) (cCarried b) (cScratch b) vs ((cSlotIn b ++ cSlotOut b).map (fun s => (s, slotVal c x k s)))
                (cSlotOut b) c.gait (cTrapMask b) (cSpecSafe b),
              inputs := ins.eraseDups, outputs := outs.eraseDups, teams := cTeams b, grooms := 0, outriders := 0,
              units := 1 + args.countP (fun a => a.kind == 0) + ceilDiv (1 + args.countP (fun a => a.kind == 1)) 8 }

/-! ### GROOM and REDUCE_TO_SCALAR -/

def prepGroom (c : Chip) (x : Queue) (k : Cmd) : Ready :=
  let p := k.bits
  let g := groomArgs p
  let sid := bits p 159 128
  let did := bits p 191 160
  let iid := bits p 223 192
  let res := fun (id : Nat) => if id == 0 then none else some (resolveDesc c x.owner k id)
  match res sid, res did, res iid with
  | some (.inl f), _, _ => f
  | _, some (.inl f), _ => f
  | _, _, some (.inl f) => f
  | some (.inr s), some (.inr d), i =>
    let ix := match i with | some (.inr v) => some v | _ => none
    if !groomLegal g s.1 d.1 (ix.map (fun v => v.1)) then argFail c k else
    let src : DescRef := { img := s.1, mem := s.2.1, half := readHalf x k s.2.1 s.2.2 }
    let dst : DescRef := { img := d.1, mem := d.2.1, half := writeHalf x d.2.2 }
    let idx := ix.map (fun v => ({ img := v.1, mem := v.2.1, half := readHalf x k v.2.1 v.2.2 } : DescRef))
    let reads := (match idx with | some r => [r] | none => []) ++ [src]
    finishPrep c x 2 ((reads ++ [dst]).flatMap descAccess)
      { job := .groom src dst idx, inputs := (reads.map (fun r => inputRef c r.mem r.half)).eraseDups,
        outputs := [{ mem := dst.mem, half := dst.half }], teams := 0, grooms := 1, outriders := 0, units := 3 + (if idx.isSome then 1 else 0) }
  | _, _, _ => argFail c k

def prepReduce (c : Chip) (x : Queue) (k : Cmd) : Ready :=
  match resolveDesc c x.owner k (bits k.bits 159 128) with
  | .inl f => f
  | .inr s =>
    let src : DescRef := { img := s.1, mem := s.2.1, half := readHalf x k s.2.1 s.2.2 }
    finishPrep c x 3 (descAccess src)
      { job := .reduce src, inputs := [inputRef c src.mem src.half], outputs := [], teams := 0, grooms := 0, outriders := 1, units := 2 }

/-! ### OUTRIDE (11 R347 to R355) -/

structure OutrideArgs where
  oop : Nat
  redop : Nat
  etype : Nat
  srcRemote : Bool
  dstRemote : Bool
  src : Handle
  dst : Handle
  len : Nat
  srcOff : Nat
  dstOff : Nat
  dest : Option Nat
  row0 : Nat
  col0 : Nat
  h : Nat
  w : Nat
  rootRow : Nat
  rootCol : Nat
  deriving DecidableEq, Repr

def outrideArgs (k : Cmd) : OutrideArgs :=
  let p := k.bits
  let ps := k.params
  { oop := bits p 66 64, redop := bits p 69 67, etype := bits p 73 70, srcRemote := bit p 74, dstRemote := bit p 75,
    src := fieldHandle p 159, dst := fieldHandle p 191, len := bits p 255 192,
    srcOff := if bit p 76 then (paramVal ps (bits p 261 256)).toNat else bits p 319 256,
    dstOff := if bit p 77 then (paramVal ps (bits p 325 320)).toNat else bits p 383 320,
    dest := if bits p 399 392 < 16 && bits p 391 384 < 16 then some (16 * bits p 399 392 + bits p 391 384) else none,
    h := bits p 431 424, w := bits p 423 416, row0 := bits p 415 408, col0 := bits p 407 400, rootRow := bits p 447 440,
    rootCol := bits p 439 432 }

/-- The remote side of an OUTRIDE on another chip, in a Job. -/
def remoteMem : Nat := pow2 32

def OutrideArgs.isRoot (a : OutrideArgs) (p : Place) : Bool := a.rootRow == p.y && a.rootCol == p.x

/-- 11 R352: the group lies within the issuer's slice and holds the issuer and the root. -/
def groupOk (a : OutrideArgs) (p : Place) : Bool :=
  let inside := fun (r c : Nat) => a.row0 ≤ r && r < a.row0 + a.h && a.col0 ≤ c && c < a.col0 + a.w
  1 ≤ a.h && 1 ≤ a.w && inside p.y p.x && inside a.rootRow a.rootCol
    && (if p.planned then (List.range a.h).all (fun i => (List.range a.w).all (fun j =>
          match chipAt p.chips (a.col0 + j) (a.row0 + i) with | some d => d.slice == p.slice | none => false))
        else a.h == 1 && a.w == 1)

def tokenOf (c : Chip) (tok : W32) : Option (Nat × Token) :=
  let i := bits tok.toNat 13 0
  if bits tok.toNat 31 28 == 0xA && bits tok.toNat 27 22 == 0 then
    match tget c.tokens i with | some t => if t.reuse == bits tok.toNat 21 14 then some (i, t) else none | none => none
  else none

/-- Checks 1 to 4 of 11 R350 on this chip as a target: none when they pass, else the status and the window reason. -/
def targetCheck (c : Chip) (tok : W32) (tenant : Nat) (write : Bool) (off len : Nat) : Option (Nat × Nat) :=
  match tokenOf c tok with
  | none => some (stHandle, 0)
  | some (_, t) =>
    if t.revoking || t.owner != tenant || !(if write then t.wr else t.rd) then some (stHandle, 0)
    else match tget c.mems t.mem with
      | none => some (stHandle, 0)
      | some m => (windowReason c tenant m m.pub off len).map (fun r => (stWindow, r))

def raiseRefused (c : Chip) : Chip :=
  { c with remoteRefused := BitVec.ofNat 64 (satAdd c.remoteRefused.toNat 1 0xFFFFFFFFFFFFFFFF) }

def localSide (c : Chip) (x : Queue) (k : Cmd) (h : Handle) (write : Bool) : Option (Nat × Nat) :=
  (memNamed c x.owner k h).map (fun p => (p.1, if write then writeHalf x p.2 else readHalf x k p.1 p.2))

/-- The OUTRIDE that WALK lets run: COPY from a local DEVICE object to a HOST object (13 R411). -/
def walkCopy (c : Chip) (x : Queue) (k : Cmd) : Bool :=
  let a := outrideArgs k
  a.oop == 0 && !a.srcRemote && !a.dstRemote
    && (match memNamed c x.owner k a.src with | some p => p.2.kind == .device | none => false)
    && (match memNamed c x.owner k a.dst with | some p => p.2.kind == .host | none => false)

def outridePrep (c : Chip) (x : Queue) (src dst : Option (Nat × Nat)) (so slen dof dlen engines : Nat) : Ready :=
  let acc := fun (s : Option (Nat × Nat)) (o n : Nat) => match s with | some p => [({ mem := p.1, half := p.2, off := o, len := n } : Access)] | none => []
  let d := fun (s : Option (Nat × Nat)) => s.getD (remoteMem, 0)
  finishPrep c x 3 (acc src so slen ++ acc dst dof dlen)
    { job := .outride (d src).1 (d src).2 (d dst).1 (d dst).2, inputs := (match src with | some p => [inputRef c p.1 p.2] | none => []),
      outputs := (match dst with | some p => [{ mem := p.1, half := p.2 }] | none => []), teams := 0, grooms := 0, outriders := engines,
      units := 2 }

/-- A collective of one chip runs as a local COPY (11 R352). -/
def isCollective (a : OutrideArgs) : Bool := a.oop != 0 && !(a.h == 1 && a.w == 1)

def OutrideArgs.sig (a : OutrideArgs) : Signature :=
  { row0 := a.row0, col0 := a.col0, h := a.h, w := a.w, rootRow := a.rootRow, rootCol := a.rootCol, oop := a.oop, redop := a.redop,
    etype := a.etype, len := a.len }

/-- Chip numbers of the members of a group, by rank (11 R352). -/
def OutrideArgs.members (a : OutrideArgs) : List Nat := (List.range (a.h * a.w)).map (fun r => 16 * (a.row0 + r / a.w) + a.col0 + r % a.w)

/-- Rank of the chip at place `p`, and of the root. -/
def OutrideArgs.rank (a : OutrideArgs) (p : Place) : Nat := (p.y - a.row0) * a.w + (p.x - a.col0)
def OutrideArgs.rootRank (a : OutrideArgs) : Nat := (a.rootRow - a.row0) * a.w + (a.rootCol - a.col0)

/-- The other members of the group of the chip at `p`. -/
def OutrideArgs.others (a : OutrideArgs) (p : Place) : List Nat := a.members.filter (fun m => m != p.num)

/-- A COPY with a remote side (11 R350). -/
def OutrideArgs.isRemote (a : OutrideArgs) : Bool := a.oop == 0 && (a.srcRemote || a.dstRemote)

/-- OUT of the issuer's entry for the remote side; a coordinate beyond the mesh numbers has none. -/
def remoteOut (e : Env) (a : OutrideArgs) : Nat := match a.dest with | some d => (route e.fabric e.place d).1 | none => 7

/-- The issuer's checks of a remote OUTRIDE: its local side and its routing entry (11 R350, R351). -/
def remoteLocal (c : Chip) (e : Env) (x : Queue) (k : Cmd) : Ready :=
  let a := outrideArgs k
  let lh := if a.srcRemote then a.dst else a.src
  if inWindow x then .wait else
  match localSide c x k lh a.srcRemote with
  | none => handleFail c lh
  | some l =>
    let out := remoteOut e a
    if out == 7 then handleFail c (if a.srcRemote then a.src else a.dst)
    else if out == 5 then .down
    else outridePrep c x (if a.srcRemote then none else some l) (if a.srcRemote then some l else none) a.srcOff a.len a.dstOff a.len 1

/-- What this chip as the target of its own request answers to the checks of 11 R350, for a request at an entry LOCAL. -/
def ownTarget (c : Chip) (e : Env) (x : Queue) (a : OutrideArgs) : Option (Nat × Nat) :=
  if remoteOut e a != 4 then none
  else targetCheck c (if a.srcRemote then a.src else a.dst) x.owner a.dstRemote (if a.srcRemote then a.srcOff else a.dstOff) a.len

def prepRemote (c : Chip) (e : Env) (x : Queue) (k : Cmd) : Ready :=
  let a := outrideArgs k
  let tok := if a.srcRemote then a.src else a.dst
  let off := if a.srcRemote then a.srcOff else a.dstOff
  match remoteLocal c e x k with
  | .go p =>
    if remoteOut e a != 4 then .go p else
    match ownTarget c e x a, tokenOf c tok, p.job with
    | some (st, r), _, _ => if st == stHandle then handleFail c tok else .fail stWindow 0 (windowInfo c 3 tok off a.len r) true
    | none, some (_, t), .outride sm sh dm dh =>
      let half := match tget c.mems t.mem with | some m => (if m.double then m.pub else 0) | none => 0
      let j : Job := if a.srcRemote then .outride t.mem half dm dh else .outride sm sh t.mem half
      .go { p with job := j, inputs := if a.srcRemote then [inputRef c t.mem half] else p.inputs,
                   outputs := if a.dstRemote then [{ mem := t.mem, half := half }] else p.outputs }
    | _, _, _ => handleFail c tok
  | r => r

def prepOutride (c : Chip) (e : Env) (x : Queue) (k : Cmd) : Ready :=
  let a := outrideArgs k
  let pl := e.place
  if a.isRemote then prepRemote c e x k
  else
    let root := a.oop == 0 || a.isRoot pl
    let reads := a.oop != 2 || root
    let writes := a.oop == 0 || a.oop == 2 || root
    let src := if reads then localSide c x k a.src false else none
    let dst := if writes then localSide c x k a.dst true else none
    if reads && src.isNone then handleFail c a.src
    else if writes && dst.isNone then handleFail c a.dst
    else if a.oop != 0 && !groupOk a pl then handleFail c 0
    else
      let total := if a.oop == 3 then a.len * (a.h * a.w) else a.len
      outridePrep c x src dst a.srcOff a.len a.dstOff total (if isCollective a then 2 else 1)

/-! ### Packets that a window admits (05 R180) -/

/-- The memory object that an argument after substitution reaches. -/
def argObject (c : Chip) (t : Nat) (k : Cmd) (a : Arg) : Option Nat :=
  if a.kind == 1 then (memNamed c t k (BitVec.ofNat 32 a.v.toNat)).map (fun p => p.1)
  else ((descOf c t (a.v.toNat % pow2 32)).bind (fun d => memNamed c t k (dObject d))).map (fun p => p.1)

/-- The outputs that a packet names; none for one that names no object of the tenant. -/
def specOutputs (c : Chip) (x : Queue) (k : Cmd) : List (Option Nat) :=
  let o := k.opcode
  let mem := fun (h : Handle) => (memNamed c x.owner k h).map (fun p => p.1)
  if o == opLaunch then
    ((launchArgs k).filter (fun a => a.kind != 2 && isOutput a.dir)).map (argObject c x.owner k)
  else if o == opGroom then [(descOf c x.owner (bits k.bits 191 160)).bind (fun d => mem (dObject d))]
  else if o == opOutride then (if (outrideArgs k).dst == 0 then [] else [mem (outrideArgs k).dst])
  else if o == opQuery then [mem (fieldHandle k.bits 159)]
  else []

/-- The packet may execute inside a window: every output is the shadow half of a DOUBLE object, it is no remote OUTRIDE, and the
container of a launch is speculation-safe. -/
def specMay (c : Chip) (x : Queue) (k : Cmd) : Bool :=
  let a := outrideArgs k
  let h := fieldHandle k.bits 95
  (specOutputs c x k).all (fun m => match m with | some m => specOutputOk x c m | none => false)
    && !(k.opcode == opOutride && a.oop == 0 && (a.srcRemote || a.dstRemote))
    && (k.opcode != opLaunch
        || (match (if named c x.owner k [4] h then (tget c.mems (hIndex h)).bind (fun m => m.image) else none) with
            | some im => cSpecSafe im.bytes
            | none => false))

/-! ### Dispatch on the opcode -/

def prepare (c : Chip) (e : Env) (x : Queue) (k : Cmd) : Ready :=
  let o := k.opcode
  if o == opLaunch then prepLaunch c x k
  else if o == opGroom then prepGroom c x k
  else if o == opReduce then prepReduce c x k
  else prepOutride c e x k

end Sys2Proof.Machine
end

