-- ==== Sys2Proof/Machine/Body.lean ====
section
/-! DEFINITION. What clusters do: scratch (10 R318 to R322), accesses of an attempt, and the run of a program body on the clusters of a
launch, word by word (07 R236 to R248, 08 R252 to R275). -/

namespace Sys2Proof.Machine

/-! ### Scratch -/

/-- Physical cluster of a logical number (01 R29). -/
def physOf (c : Chip) (l : Nat) : Option Nat :=
  (c.compute.phys.find? (fun p => p.2.1 == .enabled && p.2.2 == some l)).map (fun p => p.1)

/-- Written bit and bytes of a physical cluster's lines from `lo` on are cleared. -/
def dropLines (c : Chip) (p lo : Nat) : Chip :=
  { c with memory := { c.memory with
      written := c.memory.written.filter (fun l => !(p * 24576 + lo ≤ l && l < (p + 1) * 24576)),
      scratch := clearRange c.memory.scratch (p * 1572864 + 64 * lo) ((p + 1) * 1572864) } }

def dropLine (c : Chip) (p line : Nat) : Chip :=
  { c with memory := { c.memory with written := removeNat c.memory.written (p * 24576 + line),
                                     scratch := clearRange c.memory.scratch (p * 1572864 + 64 * line) (p * 1572864 + 64 * line + 64) } }

def lineWritten (c : Chip) (p line : Nat) : Bool := c.memory.written.contains (p * 24576 + line)
def lineBytes (c : Chip) (p line : Nat) : List Byte := readBytes c.memory.scratch (p * 1572864 + 64 * line) 64

def setLine (c : Chip) (p line : Nat) (bs : List Byte) : Chip :=
  { c with memory := { c.memory with written := insertNat c.memory.written (p * 24576 + line),
                                     scratch := writeBytes c.memory.scratch (p * 1572864 + 64 * line) bs } }

/-- Clusters of a launch: number in the launch and physical index, for the teams that now exist. -/
def launchClusters (c : Chip) (teams : List Nat) : List (Nat × Nat) :=
  teams.zipIdx.flatMap (fun t => (List.range 8).filterMap (fun i => (physOf c (8 * t.1 + i)).map (fun p => (8 * t.2 + i, p))))

/-- 10 R319 at a start: lines kept on a team whose tag was (context, index), within the carried range; others cleared. -/
def startScratch (c : Chip) (ctx carried : Nat) (teams : List Nat) : Chip :=
  let tags := c.compute.tags
  teams.zipIdx.foldl (fun c t =>
    let keep := tget tags t.1 == some (ctx, t.2)
    (List.range 8).foldl (fun c i =>
      match physOf c (8 * t.1 + i) with
      | some p => dropLines c p (if keep then carried / 64 else 0)
      | none => c) c) c

/-- The save image of a preempted launch (10 R320). -/
def saveScratch (c : Chip) (scratch : Nat) (teams : List Nat) : List SavedLine :=
  (launchClusters c teams).flatMap (fun x =>
    ((c.memory.written.filter (fun l => x.2 * 24576 ≤ l && l < x.2 * 24576 + scratch / 64)).map (fun l => l - x.2 * 24576)).map
      (fun line => ({ cluster := x.1, line := line, written := true, bytes := lineBytes c x.2 line } : SavedLine)))

def putLines (c : Chip) (teams : List Nat) (ls : List SavedLine) : Chip :=
  let cl := launchClusters c teams
  ls.foldl (fun c l =>
    match cl.find? (fun x => x.1 == l.cluster) with
    | some x => if l.written then setLine c x.2 l.line l.bytes else dropLine c x.2 l.line
    | none => c) c

/-- Resume (10 R320): the image is restored, then lines outside the carried range are cleared (R319). -/
def resumeScratch (c : Chip) (carried : Nat) (teams : List Nat) (ls : List SavedLine) : Chip :=
  let cl := launchClusters c teams
  let c := cl.foldl (fun c x => dropLines c x.2 0) c
  let c := putLines c teams ls
  cl.foldl (fun c x => dropLines c x.2 (carried / 64)) c

/-- A scratch write of a body: unwritten lines are zero-filled, carried lines of a non-speculative launch are logged at their
first write (10 R318, R322). -/
def writeScratch (c : Chip) (k : Cmd) (carried i off : Nat) (bytes : List Byte) : Chip × Cmd :=
  match (launchClusters c k.teams).find? (fun x => x.1 == i) with
  | none => (c, k)
  | some x =>
    (linesOf off bytes.length).foldl (fun s line =>
      let c := s.1
      let k := s.2
      let was := lineWritten c x.2 line
      let old := if was then lineBytes c x.2 line else List.replicate 64 0
      let new := (List.range 64).map (fun j =>
        if off ≤ 64 * line + j && 64 * line + j < off + bytes.length then bytes.getD (64 * line + j - off) 0 else old.getD j 0)
      let k := if line < carried / 64 && k.spec.isNone && !k.undo.any (fun u => u.cluster == x.1 && u.line == line)
        then { k with undo := k.undo ++ [{ cluster := x.1, line := line, written := was, bytes := old }] } else k
      (setLine c x.2 line new, k)) (c, k)

/-! ### What an attempt wrote -/

def markWrite (k : Cmd) (m half : Nat) : Cmd :=
  { k with wroteOutputs := insertNat k.wroteOutputs m, wroteInput := k.wroteInput || k.inputs.any (fun i => i.mem == m && i.half == half) }

/-- The command failed in this way at an access. -/
structure Hit where
  st : Nat
  det : Nat
  info : FaultInfo
  count : Bool
  deriving DecidableEq, Repr

/-- A speculative command keeps the ranges that it wrote, for its discard (06 R220). -/
def noteSpec (k : Cmd) (o : MemObj) (half off n : Nat) : Cmd :=
  if k.spec.isSome && o.kind == .device then { k with specWrites := k.specWrites ++ [(o.at half off, n)] } else k

/-- A write of an attempt that passed its window check. -/
def attemptWrite (c : Chip) (q : Nat) (k : Cmd) (m half off : Nat) (bs : List Byte) : Chip × Cmd :=
  if bs.isEmpty then (c, k) else
  match tget c.mems m with
  | none => (c, k)
  | some o =>
    let c := if o.kind == .device then objStore c m half off bs else hostWrites c k.owner (o.addr + off) bs (k.opcode == opOutride)
    let c := noteWrite c q k o bs.length
    let k := noteSpec k o half off bs.length
    (c, markWrite ((cmdOf c q k.seq).map (fun j => { k with accrued := j.accrued }) |>.getD k) m half)

/-- An engine read: window check, then poison (03 R114, 10 R324). -/
def readHit (c : Chip) (t engine : Nat) (a : Access) : Option Hit :=
  match tget c.mems a.mem with
  | none => none
  | some o =>
    match windowReason c t o a.half a.off a.len with
    | some r => some { st := stWindow, det := 0, info := windowInfo c engine o.handle a.off a.len r, count := true }
    | none =>
      if o.kind != .device then none else
      (readPoison c (o.at a.half a.off) a.len).map (fun l =>
        { st := stBroken, det := 0x96, info := faultInfo c 0x16 6 o.handle (l * 64) 0 0, count := false })

def writeHit (c : Chip) (t engine : Nat) (a : Access) : Option Hit :=
  match tget c.mems a.mem with
  | none => none
  | some o => (windowReason c t o a.half a.off a.len).map (fun r =>
      { st := stWindow, det := 0, info := windowInfo c engine o.handle a.off a.len r, count := true })

/-- Poison met by a hit is recorded at its first detection. -/
def noteHit (c : Chip) (h : Hit) : Chip := if h.info.cls == 0x16 && h.info.p1 == 0 then detectPoison c (h.info.p0.toNat / 64) 0 else c

/-! ### Clusters -/

def clusterCore (c : Chip) (p : Nat) : Core := (tget c.compute.cores p).getD Core.reset
def setClusterCore (c : Chip) (p : Nat) (x : Core) : Chip := { c with compute := { c.compute with cores := tset c.compute.cores p x } }

/-- Whole cycles of the cluster clock. -/
def cycleNow (c : Chip) : Nat := c.cycles / 1000

/-- What a launch fixes for its clusters: container, arguments, SLOT_IN and SLOT_OUT values, seed. -/
structure Launch where
  image : List Byte
  args : List ArgVal
  slots : Tab W64
  seed : Nat
  specSafe : Bool
  deriving DecidableEq, Repr

def launchOf (c : Chip) (k : Cmd) : Option Launch :=
  match k.job with
  | .launch prog _ _ _ args slotsIn _ seed _ safe =>
    ((tget c.mems prog).bind (fun m => m.image)).map (fun im =>
      { image := im.bytes, args := args, slots := slotsIn, seed := seed, specSafe := safe })
  | _ => none

/-- A start of a launch on a cluster: flags cleared and generator seeded (08 R269, R272); every SLOT_OUT value starts as the
slot's (07 R236). The stack pointer's first value is open (log 7). -/
def seedCore (c : Chip) (l : Launch) (x : Nat × Nat) : Chip :=
  let k : Core := { Core.reset with rng := Config.rngSeed (BitVec.ofNat 32 (cVersion l.image)) l.seed (x.1 / 8) (x.1 % 8),
                                    sp := BitVec.ofNat 32 (Config.freeNat c.free), yieldAt := cycleNow c, slots := l.slots }
  setClusterCore { c with free := c.free + 1 } x.2 k

def seedCores (c : Chip) (k : Cmd) : Chip :=
  match launchOf c k with
  | some l => (launchClusters c k.teams).foldl (fun c x => seedCore c l x) c
  | none => c

/-- Preemption saves the program's state (07 R240, 08 R269). -/
def saveCores (c : Chip) (teams : List Nat) : Tab Core := (launchClusters c teams).map (fun x => (x.1, clusterCore c x.2))

/-- It is restored on whichever clusters the launch receives; a yield point has just passed. -/
def putCores (c : Chip) (teams : List Nat) (ks : Tab Core) : Chip :=
  (launchClusters c teams).foldl (fun c x => setClusterCore c x.2 { (tget ks x.1).getD Core.reset with yieldAt := cycleNow c }) c

/-- NFLAGS of a launch: the OR of the registers of its clusters (08 R272). -/
def launchFlags (c : Chip) (teams : List Nat) : BitVec 5 :=
  (launchClusters c teams).foldl (fun f x => f ||| (clusterCore c x.2).sticky) 0

/-! ### Words that only their cluster sees -/

/-- How a word ends: done, with an access that the checks refuse, or with an exception (07 R245) of this cause and FAULT_ADDR. -/
inductive Ran where
  | ok
  | hit (h : Hit)
  | halt (x : Shadow)
  deriving DecidableEq, Repr

def depthOf : SubQueue → Nat
  | .pe => 32
  | .vec => 16
  | .dma => 16

def Core.occupancy (x : Core) : SubQueue → Nat
  | .pe => x.pe
  | .vec => x.vec
  | .dma => x.dma

def Core.withOccupancy (x : Core) (q : SubQueue) (n : Nat) : Core :=
  match q with
  | .pe => { x with pe := n }
  | .vec => { x with vec := n }
  | .dma => { x with dma := n }

/-- Values that the words after this one see, and flags raised (08 R271). -/
def Core.show (x : Core) (vs : List Nat) (f : BitVec 5) : Core := { x with seen := vs :: x.seen, sticky := x.sticky ||| f }

/-- One vector operation (08 R265). -/
def vectorOp (o : VecOp) (a b d : W32) : Nat × BitVec 5 :=
  let x := a.toNat
  let y := b.toNat
  match o with
  | .add => fadd x y
  | .sub => fsub x y
  | .mul => fmul x y
  | .fma => ffma x y d.toNat
  | .min => (fminW x y, 0)
  | .max => (fmaxW x y, 0)
  | .recip => frecip x
  | .rsqrt => frsqrt x
  | .exp2 => fexp2 (Config.ulpLarger 0 a) x
  | .log2 => flog2 (Config.ulpLarger 1 a) x
  | .cmpEq => (boolNat (fcmpEq x y), 0)
  | .cmpNe => (boolNat (fcmpNe x y), 0)
  | .cmpLt => (boolNat (fcmpLt x y), 0)
  | .cmpLe => (boolNat (fcmpLe x y), 0)
  | .addInt => addInt x y
  | .subInt => subInt x y
  | .mulInt => mulInt x y
  | .minInt => minInt x y
  | .maxInt => maxInt x y

/-- A MAC of float operands: widening, exact products, one rounding for each group (08 R262, R264). -/
def macFloat (ta sa tb sb acc : Nat) (ps : List (Nat × Nat)) : Nat × BitVec 5 :=
  let g := macGroup ta tb
  (inGroups g ps.length ps).foldl (fun s grp =>
    let ws := grp.map (fun p => (widen ta sa p.1, widen tb sb p.2))
    let r := macStep s.1 (ws.map (fun w => (fp32 w.1.1, fp32 w.2.1)))
    (r.1, ws.foldl (fun f w => f ||| w.1.2 ||| w.2.2) (s.2 ||| r.2))) (acc, 0)

/-- A MAC of integer operands (08 R264). -/
def macInteger (ta tb acc : Nat) (ps : List (Nat × Nat)) : Nat × BitVec 5 :=
  let g := macGroup ta tb
  (inGroups g ps.length ps).foldl (fun s grp =>
    let r := macInt (sext 32 s.1) (grp.map (fun p => (intElem ta p.1, intElem tb p.2)))
    (ofInt 32 r.1, s.2 ||| r.2)) (acc, 0)

/-- Output conversion of an FP32 value (08 R267 to R270). E5M2_INF and stochastic rounding act only in a container that sets
them; a number is drawn only for a value that is not exactly representable. -/
def convertOut (im : List Byte) (x : Core) (t : Nat) (e5inf stoch : Bool) (v : W32) : Core :=
  let w := fp32 v.toNat
  match etypeFmt t with
  | some f =>
    let inf := e5inf && cE5inf im
    if stoch && cStoch im && stochFormat t && isInexact f w then
      let d := Config.rngDraw (BitVec.ofNat 32 (cVersion im)) x.rng
      let r := fconvert f inf (.stochastic d.1.toNat) w
      { x.show [r.1] r.2 with rng := d.2 }
    else let r := fconvert f inf .nearest w; x.show [r.1] r.2
  | none => let r := fpToInt (etypeBits t) w; x.show [ofInt (etypeBits t) r.1] r.2

/-- The exception that a bad word raises in a core (07 R238, R242, R245): cause and FAULT_ADDR. A scratch access at or above
SCRATCH_BYTES names its first such byte (log 93). -/
def badCause (im : List Byte) (x : Core) : BadWord → Option (Nat × Nat)
  | .illegal => some (0x40, 0)
  | .scratch off len => if cScratch im < off + len then some (0x41, max off (cScratch im)) else none
  | .push q => if depthOf q ≤ x.occupancy q then some (0x42, 0) else none

/-- The cause of a word that may not run. -/
def wordCause (im : List Byte) (x : Core) : BodyOp → Option (Nat × Nat)
  | .illegal => badCause im x .illegal
  | .scratchRead off len => badCause im x (.scratch off len)
  | .scratchWrite off bs => badCause im x (.scratch off bs.length)
  | .push q => badCause im x (.push q)
  | .mac ta _ tb _ _ _ => if 8 < ta || 8 < tb || ta == 8 || tb == 8 || etypeIsFloat ta != etypeIsFloat tb then some (0x40, 0) else none
  | .widen t _ _ => if 8 < t then some (0x40, 0) else none
  | .convert t _ _ _ => if 8 < t || t == 5 then some (0x40, 0) else none
  | .narrow t _ => if t == 6 || t == 7 || t == 8 then none else some (0x40, 0)
  | .fp4Block (some s) _ => if 254 < s then some (0x40, 0) else none
  | _ => none

/-- Words that act on their own cluster's registers. -/
def ownWord (im : List Byte) (now : Nat) (x : Core) : BodyOp → Core
  | .push q => x.withOccupancy q (x.occupancy q + 1)
  | .drain q n => x.withOccupancy q (x.occupancy q - n)
  | .occupancies => x.show [x.pe, x.vec, x.dma] 0
  | .mac ta sa tb sb a ps =>
    let old := ((tget x.accs a).getD 0).toNat
    let r := if etypeIsFloat ta then macFloat ta sa tb sb old ps else macInteger ta tb old ps
    { x with accs := tset x.accs a (BitVec.ofNat 32 r.1), sticky := x.sticky ||| r.2 }
  | .setAcc a v => { x with accs := tset x.accs a v }
  | .readAcc a => x.show [((tget x.accs a).getD 0).toNat] 0
  | .vector o a b d => let r := vectorOp o a b d; x.show [r.1] r.2
  | .widen t sc w => let r := widen t sc w; x.show [r.1] r.2
  | .convert t e s v => convertOut im x t e s v
  | .narrow t v => let r := narrowInt t (sext 32 v.toNat); x.show [r.1] r.2
  | .fp4Block sc vs => let r := writeFp4 sc (vs.map (fun v => fp32 v.toNat)); x.show (r.1 :: r.2.1) r.2.2
  | .setSlot s v => { x with slots := tset x.slots s v }
  | .readFlags => x.show [x.sticky.toNat] 0
  | .setSp v => { x with sp := v }
  | .loopEnter => { x with loops := min 8 (x.loops + 1) }
  | .loopLeave => { x with loops := x.loops - 1 }
  | .yieldPoint => { x with yieldAt := now }
  | _ => x

/-! ### Words that reach scratch and memory -/

/-- A scratch read: an unwritten line reads 0, and outside the carried range it is counted (07 R242, 10 R318). -/
def scratchRead (c : Chip) (q : Nat) (k : Cmd) (carried p off len : Nat) : Chip × Cmd × List Nat :=
  let unwritten := (linesOf off len).countP (fun l => carried / 64 ≤ l && !lineWritten c p l)
  let vs := (List.range len).map (fun i =>
    if lineWritten c p ((off + i) / 64) then (readByte c.memory.scratch (p * 1572864 + off + i)).toNat else 0)
  let c := cntCmdFix c q k 11 unwritten
  let c := cntCmd c q ((cmdOf c q k.seq).getD k) k.ctx 15 1023 unwritten
  (c, { k with accrued := ((cmdOf c q k.seq).getD k).accrued }, vs)

/-- Byte `off` of argument i is read: window, then poison. An access that the argument's declaration does not admit is no
word of an accepted container (07 R231 code 0x207). -/
def argRead (c : Chip) (q : Nat) (k : Cmd) (args : List ArgVal) (i off len : Nat) : Chip × Cmd × (Hit ⊕ List Nat) :=
  match (args[i]?).bind argMem with
  | some (m, rh, _, _) =>
    match readHit c k.owner 1 { mem := m, half := rh, off := off, len := len } with
    | some h => (c, k, .inl h)
    | none =>
      let vs := (objRead c m rh off len).map (fun b => b.toNat)
      let c := match tget c.mems m with | some o => noteRead c q k o rh off len | none => c
      (c, { k with accrued := ((cmdOf c q k.seq).getD k).accrued }, .inr vs)
  | none => (c, k, .inr [])

def argWrite (c : Chip) (q : Nat) (k : Cmd) (args : List ArgVal) (i off : Nat) (bs : List Byte) : Chip × Cmd × Ran :=
  match (args[i]?).bind argMem with
  | some (m, _, wh, d) =>
    if !isOutput d then (c, k, .ok) else
    match writeHit c k.owner 1 { mem := m, half := wh, off := off, len := bs.length } with
    | some h => (c, k, .hit h)
    | none => let p := attemptWrite c q k m wh off bs; (p.1, p.2, .ok)
  | none => (c, k, .ok)

def logicalOf (k : Cmd) (i : Nat) : Nat := 8 * (nth k.teams (i / 8)) + i % 8

/-- What a halt in cluster i of the launch, physical cluster p, records (07 R246). -/
def shadowOf (c : Chip) (k : Cmd) (i p : Nat) (off : W32) (cause addr : Nat) : Shadow :=
  let x := clusterCore c p
  { cause := cause, cluster := logicalOf k i, bodyOff := off, sp := x.sp, faultAddr := BitVec.ofNat 32 addr, loops := x.loops }

/-- One control word on cluster i of the launch, physical cluster p. A SPEC_SAFE program never writes the carried range (07 R243). -/
def wordOn (c : Chip) (q : Nat) (k : Cmd) (l : Launch) (i p : Nat) (w : BodyOp × W32) : Chip × Cmd × Ran :=
  let x := clusterCore c p
  match wordCause l.image x w.1 with
  | some (cause, addr) => (c, k, .halt (shadowOf c k i p w.2 cause addr))
  | none =>
    match w.1 with
    | .scratchRead off len =>
      let r := scratchRead c q k (cCarried l.image) p off len
      (setClusterCore r.1 p (x.show r.2.2 0), r.2.1, .ok)
    | .scratchWrite off bs =>
      if l.specSafe && off < cCarried l.image then (c, k, .ok) else
      let r := writeScratch c k (cCarried l.image) i off bs
      (r.1, r.2, .ok)
    | .argRead a off len =>
      let r := argRead c q k l.args a off len
      (match r.2.2 with
       | .inl h => (r.1, r.2.1, .hit h)
       | .inr vs => (setClusterCore r.1 p (x.show vs 0), r.2.1, .ok))
    | .argWrite a off bs => argWrite c q k l.args a off bs
    | o => (setClusterCore c p (ownWord l.image (cycleNow c) x o), k, .ok)

/-- KIND and value of an argument, as a program sees it. -/
def argView : ArgVal → Nat × Nat
  | .desc img _ _ _ _ => (0, img.toNat)
  | .obj _ _ _ _ => (1, 0)
  | .imm v => (2, v.toNat)

/-- The next word of the instance on cluster i. -/
def nextWord (l : Launch) (i : Nat) (x : Core) : Option (BodyOp × W32) :=
  Config.bodyWord l.image (i / 8) (i % 8) (l.args.map argView) (l.slots.filter (fun s => (cSlotIn l.image).contains s.1)) x.seen

/-- At most n words on one cluster, up to the end of its body or a word that does not complete. -/
def runCluster (q : Nat) (l : Launch) (i p : Nat) : Nat → Chip → Cmd → Chip × Cmd × Ran
  | 0, c, k => (c, k, .ok)
  | n + 1, c, k =>
    let x := clusterCore c p
    if x.ended then (c, k, .ok) else
    match nextWord l i x with
    | none => (setClusterCore c p { x with ended := true }, k, .ok)
    | some w =>
      let r := wordOn c q k l i p w
      match r.2.2 with
      | .ok => runCluster q l i p n r.1 r.2.1
      | _ => r

/-- The words that the clusters of a launch ran, cluster by cluster (log 7); the first word that does not complete stops all. -/
def runClusters (q : Nat) (l : Launch) : List (Nat × Nat) → Chip → Cmd → Chip × Cmd × Ran
  | [], c, k => (c, k, .ok)
  | w :: ws, c, k =>
    match (launchClusters c k.teams).find? (fun x => x.1 == w.1) with
    | none => runClusters q l ws c k
    | some x =>
      let r := runCluster q l x.1 x.2 w.2 c k
      match r.2.2 with
      | .ok => runClusters q l ws r.1 r.2.1
      | _ => r

/-- What a launch's body did up to an event. NFLAGS follows the flag registers. -/
def runBody (c : Chip) (q : Nat) (k : Cmd) (run : BodyRun) : Chip × Cmd × Ran :=
  match launchOf c k with
  | none => (c, k, .ok)
  | some l =>
    let r := runClusters q l run.words c k
    (r.1, { r.2.1 with nflags := launchFlags r.1 r.2.1.teams }, r.2.2)

end Sys2Proof.Machine
end

