-- ==== Sys2Proof/Machine/LinkLayer.lean ====
section
/-! DEFINITION. The sending side of the link layer (11 R333 to R335): channels, credits and the replay buffer, and frames routed from this
chip (11 R345). -/

namespace Sys2Proof.Machine

def linkTxOf (c : Chip) (q : Nat) : LinkTx := (tget c.links q).getD LinkTx.reset

def setLink (c : Chip) (q : Nat) (l : LinkTx) : Chip := { c with links := tset c.links q l }

/-- Credits that the receiver grants a channel (11 R333). -/
def portGrant (chan : Nat) : Nat := if chan == 2 then 4 else 14

/-- Credits of a channel that are out. -/
def onChan (l : LinkTx) (chan : Nat) : Nat := l.sent.countP (fun f => f.chan == chan)

/-- MGMT passes on every port that has trained, REQ and RSP on UP ports (11 R337); a retraining port holds its traffic (R334, R335). -/
def portSends (x : Port) (chan : Nat) : Bool := x.trained && x.retraining.isNone && (chan == 2 || x.state == 2)

/-- The frame may leave: its channel has a credit and the replay buffer has room. -/
def frameFits (x : Port) (l : LinkTx) (chan : Nat) : Bool :=
  portSends x chan && l.sent.length < 64 && onChan l chan < portGrant chan

/-- Frames leave in the order of their channel, and the others wait (11 R333). When a frame's acknowledgement and its credit return is
open (log 89). -/
def pumpFrames (x : Port) (q : Nat) : List TxFrame → List Nat → Chip → Chip
  | [], _, c => c
  | f :: r, blocked, c =>
    let l := linkTxOf c q
    if !blocked.contains f.chan && frameFits x l f.chan then
      let g := { f with seqNo := l.next, acked := c.clock + Config.freeNat c.free }
      pumpFrames x q r blocked (emit (setLink { c with free := c.free + 1 } q { l with sent := l.sent ++ [g], next := l.next + 1 }) f.body)
    else pumpFrames x q r (f.chan :: blocked) (setLink c q { l with queue := l.queue ++ [f] })

def pump (c : Chip) (f : Fabric) (q : Nat) : Chip :=
  let l := linkTxOf c q
  pumpFrames (portOf f q) q l.queue [] (setLink c q { l with queue := [] })

/-- A frame for port q. -/
def sendFrame (c : Chip) (f : Fabric) (q chan : Nat) (body : Output) (owner : Option (Nat × Nat)) : Chip :=
  let l := linkTxOf c q
  pump (setLink c q { l with queue := l.queue ++ [{ seqNo := 0, chan := chan, body := body, owner := owner, acked := 0 }] }) f q

/-- Every unacknowledged frame is sent again (11 R334, R335). -/
def resendAll (c : Chip) (q : Nat) : Chip := (linkTxOf c q).sent.foldl (fun c f => emit c f.body) c

/-- Acknowledgements and credits that have come back make room. -/
def ackLink (f : Fabric) (c : Chip) (q : Nat) : Chip :=
  let l := linkTxOf c q
  if (tget c.links q).isNone then c else pump (setLink c q { l with sent := l.sent.filter (fun g => c.clock < g.acked) }) f q

/-- The frames that a port held are lost; what waited for credits still waits. -/
def dropSent (c : Chip) (q : Nat) : Chip :=
  if (tget c.links q).isNone then c else setLink c q { linkTxOf c q with sent := [] }

/-- A frame discarded at an entry DROP or DOWN, or at a slice check (11 R345). -/
def dropRoute (c : Chip) : Chip := { c with dropRoute := BitVec.ofNat 64 (satAdd c.dropRoute.toNat 1 0xFFFFFFFFFFFFFFFF) }
def dropSlice (c : Chip) : Chip := { c with dropSlice := BitVec.ofNat 64 (satAdd c.dropSlice.toNat 1 0xFFFFFFFFFFFFFFFF) }

/-- A routed frame to chip `dest` at its first hop (11 R345); `body` makes the frame for its port. -/
def sendTo (c : Chip) (f : Fabric) (p : Place) (chan dest : Nat) (body : Nat → Output) (owner : Option (Nat × Nat)) : Chip :=
  let out := (route f p dest).1
  if out < 4 then sendFrame c f out chan (body out) owner else if out == 4 then c else dropRoute c

end Sys2Proof.Machine
end

