-- ==== Sys2Proof/Machine/Engine.lean ====
section
/-! DEFINITION. Engine work: what a stopped or finished attempt has written, completion of engine
commands (02 R66), the grant of engines (06 R192 to R195, 08 R257) and preemption (06 R197). -/

namespace Sys2Proof.Machine

/-! ### What engines do up to a point -/

/-- Elements in `done` destination bytes of a GROOM. -/
def groomElems (dst : DescRef) (done : Nat) : Nat := if dBits dst.img == 0 then 0 else done * 8 / dBits dst.img

def ofIdx (idx : Option DescRef) : List DescRef := match idx with | some r => [r] | none => []

/-- Free values that open elements of a GATHER may use (09 R297). -/
def groomFrees (dst : DescRef) : Nat := 2 * tensorEnd dst.img + (scaleExtent dst.img).1 + (scaleExtent dst.img).2 + 1

/-- A GROOM goes on from its position to element n, with the bytes it reads and writes counted (06 R198, 15 R446, R447). -/
def groomWork (c : Chip) (q : Nat) (k : Cmd) (src dst : DescRef) (idx : Option DescRef) (n : Nat) : Chip × Cmd :=
  let ms := ((groomMoves c (groomArgs k.bits) src dst idx).take n).drop k.progress
  let rd := sourceBytes src ms
  let c := match tget c.mems src.mem with
    | some o => cntCmd (rd.foldl (fun c b => cntHbm c 64 (o.at src.half b) 1) c) q k k.ctx 7 1023 rd.length
    | none => c
  let c := match if k.progress == 0 then idx.bind (fun r => (tget c.mems r.mem).map (fun o => (r, o))) else none with
    | some (r, o) => noteRead c q k o r.half (elemExtent r.img).1 (elemExtent r.img).2
    | none => c
  let c := cntCmd { (groomWrite c src dst idx ms) with free := (groomWrite c src dst idx ms).free + groomFrees dst } q k k.ctx 8 1023
    (groomBytes dst ms.length)
  let k := { k with accrued := ((cmdOf c q k.seq).getD k).accrued, progress := max k.progress n,
                    specWrites := if k.spec.isSome then k.specWrites ++ (moveAddrs c dst ms).map (fun a => (a, 1)) else k.specWrites }
  (c, markWrite k dst.mem dst.half)

/-- The reads and writes of the elements from k's position to n pass their window checks, and no source byte is poisoned. -/
def groomOk (c : Chip) (k : Cmd) (src dst : DescRef) (idx : Option DescRef) (n : Nat) : Bool :=
  let ms := ((groomMoves c (groomArgs k.bits) src dst idx).take n).drop k.progress
  let rd := (sourceBytes src ms).map (fun b => ({ mem := src.mem, half := src.half, off := b, len := 1 } : Access))
  let wr := (ms.flatMap (fun m => elemBytesAt dst m.dst)).map (fun b => ({ mem := dst.mem, half := dst.half, off := b, len := 1 } : Access))
  rd.all (fun a => (readHit c k.owner 2 a).isNone) && wr.all (fun a => (writeHit c k.owner 2 a).isNone)

/-- The index pre-read of the FAULT policy passes (09 R297), and so do the index accesses. -/
def groomPreOk (c : Chip) (k : Cmd) (src dst : DescRef) (idx : Option DescRef) : Bool :=
  ((ofIdx idx).flatMap descAccess).all (fun a => (readHit c k.owner 2 a).isNone) && !groomIndexFault c (groomArgs k.bits) src dst idx

/-- A REDUCE_TO_SCALAR folds the elements from its position to element n (05 R172, 06 R198). -/
def reduceWork (c : Chip) (q : Nat) (k : Cmd) (src : DescRef) (n : Nat) : Chip × Cmd :=
  let es := ((indices src.img).take n).drop k.progress
  let rd := (es.flatMap (elemBytesAt src)).eraseDups
  let f := foldRange c (bits k.bits 66 64) src k.fold k.progress n
  let c := match tget c.mems src.mem with
    | some o => cntCmd (rd.foldl (fun c b => cntHbm c 64 (o.at src.half b) 1) c) q k k.ctx 7 1023 rd.length
    | none => c
  (c, { k with accrued := ((cmdOf c q k.seq).getD k).accrued, fold := f, progress := max k.progress n })

/-- Bytes of SRC, elements and scales, in its first n elements (02 R88). -/
def reducedBytes (src : DescRef) (n : Nat) : Nat := (((indices src.img).take n).flatMap (elemBytesAt src)).eraseDups.length

/-- The elements from k's position to n can be read. -/
def reduceOk (c : Chip) (k : Cmd) (src : DescRef) (n : Nat) : Bool :=
  ((((indices src.img).take n).drop k.progress).flatMap (elemBytesAt src)).all (fun b =>
    (readHit c k.owner 3 { mem := src.mem, half := src.half, off := b, len := 1 }).isNone)

/-! ### What an OUTRIDE carries (11 R350 to R355) -/

/-- Bytes of a member's SRC: of the given host data for a HOST object. -/
def sideBytes (c : Chip) (m half off n : Nat) (host : List Byte) : List Byte :=
  match tget c.mems m with
  | some o => if o.kind == .host then (List.range n).map (fun i => host.getD i 0) else objRead c m half off n
  | none => []

/-- Reads and writes of one OUTRIDE on this chip: what is read, what is written and where. -/
structure Carry where
  reads : List Access
  writes : List Access
  data : List Byte
  flags : BitVec 5
  moved : Nat
  deriving DecidableEq, Repr

def partOf (parts : List Contribution) (r n : Nat) : List Byte :=
  match parts.find? (fun p => p.rank == r) with
  | some p => (List.range n).map (fun i => p.data.getD i 0)
  | none => List.replicate n 0

/-- What the OUTRIDE of job (sm, sh) to (dm, dh) carries, for the reply, host data and contributions that came. -/
def carry (c : Chip) (pl : Place) (a : OutrideArgs) (sm sh dm dh : Nat) (host : List Byte) (reply : List Byte) (parts : List Contribution) : Carry :=
  let src : Access := { mem := sm, half := sh, off := a.srcOff, len := a.len }
  let dst : Access := { mem := dm, half := dh, off := a.dstOff, len := a.len }
  let own := if sm == remoteMem then (List.range a.len).map (fun i => reply.getD i 0) else sideBytes c sm sh a.srcOff a.len host
  if a.oop == 0 || !isCollective a then { reads := [src], writes := [dst], data := own, flags := 0, moved := a.len }
  else if a.oop == 2 then
    if a.isRoot pl then { reads := [src], writes := [dst], data := own, flags := 0, moved := a.len }
    else { reads := [], writes := [dst], data := partOf parts a.rootRank a.len, flags := 0, moved := a.len }
  else if !a.isRoot pl then { reads := [src], writes := [], data := own, flags := 0, moved := a.len }
  else
    let all := (List.range (a.h * a.w)).map (fun r => if r == a.rank pl then own else partOf parts r a.len)
    if a.oop == 3 then
      { reads := [src], writes := [{ dst with len := a.len * (a.h * a.w) }], data := all.flatMap id, flags := 0, moved := a.len * (a.h * a.w) }
    else
      let r := reduceBytes a.etype a.redop a.len all own
      { reads := [src], writes := [dst], data := r.1, flags := r.2, moved := a.len }

/-- Accesses on this chip only. -/
def onThis (as : List Access) : List Access := as.filter (fun a => a.mem != remoteMem)

/-- Bytes [lo, n) of an access. -/
def Access.slice (a : Access) (lo n : Nat) : Access := { a with off := a.off + min lo a.len, len := min n a.len - min lo a.len }

/-- The side of an access is host memory. -/
def onHostSide (c : Chip) (a : Access) : Bool := match tget c.mems a.mem with | some o => o.kind == .host | none => false

/-- The link is down: host data can no longer come, and writes to host memory go only as far as crossing 4 has credits (03 R96,
01 R39). -/
def hostHeld (c : Chip) (k : Cmd) (w : Carry) (n : Nat) : Bool :=
  !c.linkUp && ((onThis w.reads).any (fun a => onHostSide c a && (a.slice k.progress n).len != 0)
    || !hostRoom c (sumBy (fun a => match tget c.mems a.mem with
        | some o => if o.kind == .host then writeEntries c k.owner (o.addr + (a.slice k.progress n).off) (a.slice k.progress n).len else 0
        | none => 0) (onThis w.writes)))

/-- The remote side of the command's COPY is read, or written, on another chip. -/
def remoteRead (k : Cmd) : Bool :=
  match k.job with | .outride sm _ _ _ => (outrideArgs k).oop == 0 && sm == remoteMem | _ => false
def remoteWrite (k : Cmd) : Bool :=
  match k.job with | .outride _ _ dm _ => (outrideArgs k).oop == 0 && dm == remoteMem | _ => false

/-- Chips to which the bytes that the command reads here leave: the target of a remote write, every other member from a BROADCAST
root, the root from a GATHER or REDUCE member (11 R351, R353). -/
def dataDests (e : Env) (k : Cmd) : List Nat :=
  let a := outrideArgs k
  if remoteWrite k then a.dest.toList
  else if !isCollective a || k.opcode != opOutride then []
  else if a.oop == 2 then (if a.isRoot e.place then a.others e.place else [])
  else if a.isRoot e.place then [] else [16 * a.rootRow + a.rootCol]

/-- An OUTRIDE goes on from its position to byte n of what it carries. -/
def outrideWork (c : Chip) (e : Env) (q : Nat) (k : Cmd) (w : Carry) (n : Nat) : Chip × Cmd :=
  let lo := k.progress
  let c := (onThis w.reads).foldl (fun c r => match tget c.mems r.mem with
    | some o =>
      let c := if o.kind == .host then hostReads c k.owner (o.addr + (r.slice lo n).off) (r.slice lo n).len else c
      noteRead c q k o r.half (r.slice lo n).off (r.slice lo n).len
    | none => c) c
  let k := { k with accrued := ((cmdOf c q k.seq).getD k).accrued, progress := max lo n,
                    wire := if (dataDests e k).isEmpty then k.wire else k.wire ++ (w.data.take n).drop lo }
  match onThis w.writes with
  | d :: _ => attemptWrite c q k d.mem d.half (d.off + lo) ((w.data.take n).drop lo)
  | [] => (c, k)

/-- The reads and writes of bytes [progress, n) pass. -/
def outrideOk (c : Chip) (k : Cmd) (w : Carry) (n : Nat) : Bool :=
  (onThis w.reads).all (fun a => (readHit c k.owner 3 (a.slice k.progress n)).isNone)
    && (onThis w.writes).all (fun a => (writeHit c k.owner 3 (a.slice k.progress n)).isNone)

/-- What a command had done when it stopped, or when a window of its tenant was cleared (06 R198, 10 R329): its work goes on to
the position that `stop` names, if the accesses up to there pass. -/
def partialWork (c : Chip) (e : Env) (q : Nat) (k : Cmd) (stop : Stop) : Chip × Cmd :=
  match k.job with
  | .launch _ _ _ _ _ _ _ _ _ _ => let r := runBody c q k stop.run; (r.1, r.2.1)
  | .groom src dst idx =>
    let n := min (groomElems dst stop.done) (groomMoves c (groomArgs k.bits) src dst idx).length
    if n ≤ k.progress || !groomPreOk c k src dst idx || !groomOk c k src dst idx n then (c, k) else groomWork c q k src dst idx n
  | .reduce src =>
    let n := min stop.done (elemCount src.img)
    if n ≤ k.progress || !reduceOk c k src n then (c, k) else reduceWork c q k src n
  | .outride sm sh dm dh =>
    let w := carry c e.place (outrideArgs k) sm sh dm dh stop.data stop.data stop.parts
    let n := min stop.done w.moved
    if n ≤ k.progress || !outrideOk c k w n || hostHeld c k w n then (c, k) else outrideWork c e q k w n
  | .none => (c, k)

/-- Bytes that an engine command has moved or written so far (02 R88). -/
def movedBytes (k : Cmd) : Nat :=
  match k.job with
  | .groom _ dst _ => groomBytes dst k.progress
  | .reduce src => reducedBytes src k.progress
  | .outride _ _ _ _ => k.progress
  | _ => 0

/-! ### Completion of engine commands -/

/-- Stamps of the outputs of an ended command (02 R66): all named ones when it succeeded, else those it wrote. -/
def stampOutputs (c : Chip) (k : Cmd) : Chip :=
  (if isFailure k.status || k.status == stCancelled then k.wroteOutputs else (k.outputs.map (fun o => o.mem)).eraseDups).foldl raiseStamp c

/-- A token's accepted requests (11 R349). -/
def modToken (c : Chip) (i : Nat) (f : Token → Token) : Chip :=
  match tget c.tokens i with | some t => { c with tokens := tset c.tokens i (f t) } | none => c

/-- The token of a remote OUTRIDE that this chip itself serves. -/
def localToken (e : Env) (k : Cmd) : Option Nat :=
  let a := outrideArgs k
  if k.opcode == opOutride && a.isRemote && remoteOut e a == 4
  then some (bits (if a.srcRemote then a.src else a.dst).toNat 13 0) else none

/-- An accepted request of this chip itself ends; a revoked token goes with its last one (11 R349). -/
def endToken (c : Chip) (e : Env) (k : Cmd) : Chip :=
  match k.job, localToken e k with
  | .outride _ _ _ _, some i =>
    let c := modToken c i (fun t => { t with accepted := t.accepted - 1 })
    match tget c.tokens i with
    | some t =>
      if t.revoking && t.accepted == 0 then
        let c := freeIndex (raiseReuse { c with tokens := terase c.tokens i } 10 i) 10 i
        (match tget c.mems t.mem with | some m => dropRef c m.handle | none => c)
      else c
    | none => c
  | _, _ => c

/-- Completion of a command whose job was fixed. ENGINE_NS runs from the first start on engines, also over the time it spent
out of them (05 R159, 06 R198); a collective member that never had them shows 0. -/
def completeJob (c : Chip) (e : Env) (q : Nat) (k : Cmd) (st det : Nat) (f : Option FaultInfo) : Chip :=
  let k := { k with engineNs := match k.engineClock with | some t => min (c.clock - t) 0xFFFFFFFF | none => 0 }
  endToken (complete c e q k st det f) e k

/-- Stamps of a command that ends outside a window; a speculative one owes them to its commit point. -/
def stampEnd (c : Chip) (k : Cmd) (st : Nat) : Chip := if k.spec.isNone then stampOutputs c { k with status := st } else c

/-- An engine command ends with its attempt (05 R155, R159). -/
def completeEngine (c : Chip) (e : Env) (q : Nat) (k : Cmd) (st det : Nat) (f : Option FaultInfo) : Chip :=
  let r := endAttempt c q k (movedBytes k) false
  completeJob (stampEnd r.1 r.2 st) e q r.2 st det f

/-- Completion by a refused access; TP_WIN_FAULTS shows a speculative one at its commit (01 R45). -/
def completeHit (c : Chip) (e : Env) (q : Nat) (k : Cmd) (h : Hit) : Chip :=
  let c := if h.count && k.spec.isNone then countWin c k.owner else c
  completeEngine (noteHit c h) e q k h.st h.det (some h.info)

/-! ### Engines and candidates -/

def queueCls (c : Chip) (x : Queue) : PrioClass := match tget c.contexts x.ctx with | some y => y.cls | none => .background

def clsRank : PrioClass → Nat
  | .realtime => 0
  | .interactive => 1
  | .batch => 2
  | .background => 3

def draining (c : Chip) (t : Nat) : Bool :=
  (List.range 8).any (fun i => c.compute.draining.contains (8 * t + i) || (physOf c (8 * t + i)).isNone)

/-- Free teams, ascending (08 R255). -/
def freeTeams (c : Chip) : List Nat := (List.range 40).filter (fun t => (tget c.compute.holders t).isNone && !draining c t)
def freeGrooms (c : Chip) : List Nat := (List.range 4).filter (fun g => (tget c.compute.groom g).isNone)
def freeOutriders (c : Chip) : List Nat := (List.range 8).filter (fun g => (tget c.compute.outrider g).isNone)

/-- Kind of engine (0 teams, 1 Groom, 2 Outrider) and how many. -/
def needOf (c : Chip) (k : Cmd) : Nat × Nat :=
  match k.job with
  | .launch _ teams _ _ _ _ _ _ _ _ => (0, teams)
  | _ =>
    if k.opcode == opLaunch then
      (0, match (tget c.mems (hIndex (fieldHandle k.bits 95))).bind (fun m => m.image) with | some i => cTeams i.bytes | none => 0)
    else if k.opcode == opGroom then (1, 1)
    else if k.opcode == opOutride && isCollective (outrideArgs k) then (2, 2)
    else (2, 1)

def freeCount (c : Chip) (kind : Nat) : Nat :=
  if kind == 0 then (freeTeams c).length else if kind == 1 then (freeGrooms c).length else (freeOutriders c).length

/-- Logbook units that a wanting command still has to take (13 R391). -/
def unitsFit (c : Chip) (e : Env) (x : Queue) (k : Cmd) : Bool :=
  match k.phase with
  | .wantResource _ _ => (match prepare c e x k with | .go p => p.units ≤ c.logFree | _ => true)
  | _ => true

def deadlineKey (c : Chip) (e : Env) (x : Queue) (k : Cmd) : Nat :=
  let next := match (tget c.contexts x.ctx).bind (fun y => y.beat) with | some d => (beatOf e d).next | none => 0
  if k.started then k.deadline.getD next else match x.lastMark with | some t => if t == 0 then next else t | none => next

/-- A command that waits for engines. -/
structure Cand where
  q : Nat
  seq : Nat
  kind : Nat
  need : Nat
  cls : Nat
  aged : Bool
  spec : Bool
  key : List Nat
  deriving DecidableEq, Repr

def waits (k : Cmd) : Option Bool :=
  match k.phase with
  | .wantResource _ a => some a
  | .preempted _ a => some a
  | .wantReplay => some false
  | _ => none

/-- Rank keys of 06 R192, in order; lower first. -/
def rankKey (c : Chip) (e : Env) (q : Nat) (x : Queue) (k : Cmd) (aged : Bool) (spec : Bool) : List Nat :=
  let cls := clsRank (queueCls c x)
  let r := c.rotation
  let rank := if aged then min cls 1 else cls
  let dl := if cls == 0 && k.beatFlag then [0, deadlineKey c e x k] else [1, 0]
  [rank, boolNat spec] ++ (if cls == 0 then dl else [1, 0])
    ++ [(x.owner + 32 - r.tenant % 32) % 32, (x.ctx + 4096 - (tget r.ctx x.owner).getD 0 % 4096) % 4096,
        (q + 16384 - (tget r.queue x.ctx).getD 0 % 16384) % 16384, k.seq]

def keyLt : List Nat → List Nat → Bool
  | [], [] => false
  | [], _ => true
  | _, [] => false
  | a :: r, b :: s => a < b || (a == b && keyLt r s)

/-- A remote OUTRIDE to another chip whose issuer entry is DOWN (11 R351). -/
def remoteDown (e : Env) (k : Cmd) : Bool := (remoteRead k || remoteWrite k) && remoteOut e (outrideArgs k) == 5

/-- Commands of a context that started speculatively and have not committed (06 R214). -/
def specCount (c : Chip) (ctx : Nat) : Nat :=
  sumBy (fun p => if p.2.ctx == ctx then p.2.cmds.countP (fun k => k.spec.isSome && k.started) else 0) c.queues

/-- Every command that waits for engines; a replay starts in no scheduling gap (14 R439), and a window that holds 64 speculative
commands of its context grants no more (06 R214). -/
def candsOf (c : Chip) (e : Env) : List Cand :=
  c.queues.flatMap (fun p => (p.2.cmds.filter (fun k => !remoteDown e k && !(e.gap && k.phase == .wantReplay)
      && (k.started || !inWindow p.2 || specCount c p.2.ctx < 64))).filterMap (fun k =>
    (waits k).map (fun aged =>
      let n := needOf c k
      let spec := if k.started then k.spec.isSome else inWindow p.2
      { q := p.1, seq := k.seq, kind := n.1, need := n.2, cls := clsRank (queueCls c p.2), aged := aged, spec := spec,
        key := rankKey c e p.1 p.2 k aged spec })))

/-- The highest-ranked command that waits for engines of a kind. -/
def best (c : Chip) (e : Env) (kind : Nat) : Option Cand :=
  ((candsOf c e).filter (fun d => d.kind == kind)).foldl (fun b d =>
    match b with | none => some d | some a => if keyLt d.key a.key then some d else some a) none

/-- The highest-ranked of all commands that wait for engines (06 R197). -/
def bestOf (c : Chip) (e : Env) : Option Cand :=
  (candsOf c e).foldl (fun b d => match b with | none => some d | some a => if keyLt d.key a.key then some d else some a) none

/-- The rotation pointers move past the chosen entry (06 R192 key 4). -/
def bump (c : Chip) (q : Nat) : Chip :=
  match tget c.queues q with
  | none => c
  | some x => { c with rotation := { tenant := (x.owner + 1) % 32, ctx := tset c.rotation.ctx x.owner ((x.ctx + 1) % 4096),
                                     queue := tset c.rotation.queue x.ctx ((q + 1) % 16384) } }

/-- Team indices of a launch (08 R257). -/
def chooseTeams (c : Chip) (ctx n : Nat) : List Nat :=
  let free := freeTeams c
  let own := fun (j : Nat) => free.find? (fun t => tget c.compute.tags t == some (ctx, j))
  let taken := (List.range n).filterMap own
  let rest := free.filter (fun t => !taken.contains t)
  let pool := rest.filter (fun t => (tget c.compute.tags t).isNone) ++ rest.filter (fun t => (tget c.compute.tags t).isSome)
  ((List.range n).foldl (fun (s : List Nat × List Nat) j =>
    match own j with
    | some t => (s.1 ++ [t], s.2)
    | none => match s.2 with | t :: r => (s.1 ++ [t], r) | [] => s) ([], pool)).1

/-- `n` free engines among `free`; which ones is open (log 6). -/
def pickN : Nat → Chip → List Nat → List Nat × Chip
  | 0, c, _ => ([], c)
  | n + 1, c, free =>
    match pick c free with
    | none => ([], c)
    | some (g, c) => let r := pickN n c (free.filter (fun h => h != g)); (g :: r.1, r.2)

/-- A staging partition is scrubbed before its reuse (10 R324): Groom engines have 0 to 3, Outrider engines 4 to 11. -/
def scrubStaging (c : Chip) (part : Nat) : Chip := { c with memory := { c.memory with sramBad := removeNat c.memory.sramBad part } }

/-- Gives engines to a command that has its job: holders, references of a resident program (02 R81), the interval of engine time. -/
def takeEngines (c : Chip) (q : Nat) (k : Cmd) (kind need : Nat) : Chip × Cmd :=
  let me := (q, k.seq)
  let ctx := ctxOfQueue c q
  let r : Chip × Cmd :=
    if kind == 0 then
      let ts := chooseTeams c ctx need
      let c := match k.job with
        | .launch prog _ _ _ _ _ _ _ _ _ => (match tget c.mems prog with | some m => takeRef c m.handle | none => c)
        | _ => c
      ({ c with compute := { c.compute with holders := ts.foldl (fun h t => tset h t me) c.compute.holders } }, { k with teams := ts })
    else if kind == 1 then
      let p := pickN 1 c (freeGrooms c)
      let p := (p.1, p.1.foldl scrubStaging p.2)
      ({ p.2 with compute := { p.2.compute with groom := p.1.foldl (fun h t => tset h t me) p.2.compute.groom } }, { k with groom := p.1.head? })
    else
      let p := pickN need c (freeOutriders c)
      let p := (p.1, p.1.foldl (fun c g => scrubStaging c (4 + g)) p.2)
      ({ p.2 with compute := { p.2.compute with outrider := p.1.foldl (fun h t => tset h t me) p.2.compute.outrider } }, { k with outriders := p.1 })
  let k := openRun r.1 { r.2 with phase := .running }
  let c := match k.trig with | some t => cntMax r.1 7 (r.1.clock - t) | none => r.1
  (c, { k with trig := none })

/-! ### Starts -/

/-- What every start fixes: times, deadline, segment (05 R169, 06 R213). -/
def begun (c : Chip) (x : Queue) (k : Cmd) : Cmd :=
  { k with startGait := c.gait, startClock := c.clock,
           deadline := match x.lastMark with | some t => if t == 0 then none else some t | none => none,
           spec := (x.segs.getLast?).map (fun s => s.branch) }

/-- A breakpoint or bisect fires (05 R184 to R186): no further command of the context starts, and its open windows are discarded
(06 R221). -/
def stopContext (c : Chip) (ctx q : Nat) (tag : Option W16) (detail : Nat) : Chip :=
  let c := modContext c ctx (fun y => { y with stopping := some { detail := detail, queue := q, tag := tag },
                                               brk := if detail == 0x83 then y.brk else none, bisect := if detail == 0x83 then none else y.bisect })
  (c.queues.filter (fun p => p.2.ctx == ctx)).foldl (fun c p => demote (discardWindows c p.1) p.1) c

/-- A body command counts against the bisect of its list; the start of the last one that it lets run stops the context (05 R185). -/
def countBisect (c : Chip) (q : Nat) (k : Cmd) (s : Nat) : Chip :=
  match (tget c.queues q).bind (fun x => listOf x s) with
  | none => c
  | some l =>
    match l.bisect with
    | none => c
    | some n =>
      let c := modQueue c q (fun x => modList x s (fun l => { l with bisect := if n ≤ 1 then none else some (n - 1) }))
      if n ≤ 1 then stopContext c k.ctx q none 0x83 else c

/-- Counters and rotation of a start. -/
def countStart (c : Chip) (q : Nat) (k : Cmd) : Chip :=
  let c := bump c q
  let c := match k.list with | some s => countBisect c q k s | none => c
  if k.spec.isSome then cntFix c 3 1 else c

/-- A command that fails or is cancelled at its start. -/
def failStart (c : Chip) (e : Env) (q : Nat) (k : Cmd) (st det : Nat) (f : Option FaultInfo) (count : Bool) : Chip :=
  match tget c.queues q with
  | none => c
  | some x =>
    let k := begun c x k
    let c := countStart c q k
    let c := if count && k.spec.isNone then countWin c x.owner else c
    complete c e q k st det f

/-- A remote OUTRIDE to this chip whose local side passes and that the target side refuses (11 R350). -/
def noteRefused (c : Chip) (e : Env) (x : Queue) (k : Cmd) : Chip :=
  let a := outrideArgs k
  if k.opcode == opOutride && a.isRemote
      && (match remoteLocal c e x k with | .go _ => (ownTarget c e x a).isSome | _ => false)
  then raiseRefused c else c

/-- The start of an engine command with its job fixed, without engines yet. -/
def fixJob (c : Chip) (e : Env) (q : Nat) (x : Queue) (k : Cmd) (p : Prep) : Chip × Cmd :=
  let k := { begun c x k with job := p.job, inputs := p.inputs, outputs := p.outputs, units := k.units + p.units, logOk := true }
  let c := countStart { c with logFree := c.logFree - p.units } q k
  let c := match localToken e k with | some i => modToken c i (fun t => { t with accepted := t.accepted + 1 }) | none => c
  (c, k)

/-- A member's start, as the other members hear of it (11 R352). -/
def memberStart (e : Env) (k : Cmd) : MemberStart :=
  let a := outrideArgs k
  { rank := a.rank e.place, tenant := k.owner, sig := a.sig, order := k.order }

/-- A routed frame of the command to each of some chips. -/
def sendEach (c : Chip) (e : Env) (q : Nat) (k : Cmd) (chan : Nat) (ds : List Nat) (body : Nat → Nat → Output) : Chip :=
  ds.foldl (fun c d => sendTo c e.fabric e.place chan d (fun p => body p d) (some (q, k.seq))) c

def mySlice (e : Env) : W16 := BitVec.ofNat 16 e.place.slice

/-- The request of a remote COPY (11 R350). -/
def remoteReq (e : Env) (k : Cmd) : RemoteReq :=
  let a := outrideArgs k
  { token := if a.srcRemote then a.src else a.dst, tenant := k.owner, slice := mySlice e, srcChip := e.place.num, isWrite := a.dstRemote,
    off := if a.srcRemote then a.srcOff else a.dstOff, length := a.len, data := k.wire }

/-- The bytes that the command has read leave for the chips that get them, and its wait for their answers begins (11 R351). -/
def sendData (c : Chip) (e : Env) (q : Nat) (k : Cmd) : Chip × Cmd :=
  let body := fun (p d : Nat) =>
    if remoteWrite k then Output.remote p d (remoteReq e k) else .contribution p d (mySlice e) (memberStart e k) k.wire
  (sendEach c e q k 0 (dataDests e k) body, { k with remote := some (false, c.clock) })

/-- A command on its engines sends its request to another chip: a read at once, and bytes that it has read; what it has still to read leaves
at its OUTRIDE_COMPLETE. -/
def sendRemote (c : Chip) (e : Env) (q : Nat) (k : Cmd) : Chip × Cmd :=
  if remoteRead k then
    (sendEach c e q k 0 (outrideArgs k).dest.toList (fun p d => .remote p d (remoteReq e k)), { k with remote := some (false, c.clock) })
  else if !(dataDests e k).isEmpty && k.progress == (outrideArgs k).len then sendData c e q k
  else (c, { k with remote := none })

/-- A member tells the other members that it has started (11 R352). -/
def announce (c : Chip) (e : Env) (q : Nat) (k : Cmd) : Chip × Cmd :=
  (sendEach c e q k 0 ((outrideArgs k).others e.place) (fun p d => .member p d (mySlice e) (memberStart e k)),
   { k with remote := some (false, c.clock) })

/-- The order of the next collective of a tenant and signature on this chip, and the count after it. -/
def startedOf (c : Chip) (t : Nat) (g : Signature) : Nat :=
  match c.started.find? (fun s => s.tenant == t && s.sig == g) with | some s => s.count | none => 0
def noteStarted (c : Chip) (t : Nat) (g : Signature) : Chip :=
  { c with started := { tenant := t, sig := g, count := startedOf c t g + 1 } :: c.started.filter (fun s => !(s.tenant == t && s.sig == g)) }

/-- An engine command that needs its engines now and finds them starts; a launch clears its scratch (10 R319). -/
def grant (c : Chip) (e : Env) (q seq : Nat) : Chip :=
  match tget c.queues q, cmdOf c q seq with
  | some x, some k =>
    match prepare c e x k with
    | .wait => updCmd c q seq (fun k => { k with phase := .fetched })
    | .fail st det f cnt => failStart (noteRefused c e x k) e q k st det (some f) cnt
    | .down => updCmd c q seq (fun k => { k with phase := .fetched })
    | .go p =>
      let n := needOf c k
      let r := fixJob c e q x k p
      let r := takeEngines r.1 q r.2 n.1 n.2
      let r := sendRemote r.1 e q r.2
      let c := match p.job with
        | .launch _ _ carried _ _ _ _ _ _ _ => seedCores (startScratch r.1 x.ctx carried r.2.teams) r.2
        | _ => r.1
      updCmd c q seq (fun _ => r.2)
  | _, _ => c

/-! ### Preemption (06 R197) -/

/-- Running work of a class below the waiting one, and speculative work of its class, in the order in which victims are chosen. -/
structure Victim where
  q : Nat
  seq : Nat
  held : Nat
  key : List Nat
  deriving DecidableEq, Repr

def heldCount (c : Chip) (k : Cmd) (kind : Nat) : Nat :=
  if kind == 0 then k.teams.countP (fun t => !draining c t) else if kind == 1 then (if k.groom.isSome then 1 else 0) else k.outriders.length

def victims (c : Chip) (d : Cand) : List Victim :=
  c.queues.flatMap (fun p => p.2.cmds.filterMap (fun k =>
    let cls := clsRank (queueCls c p.2)
    let n := heldCount c k d.kind
    if k.phase == .running && n != 0 && (d.cls < cls || (d.cls == cls && k.spec.isSome)) then
      some { q := p.1, seq := k.seq, held := n, key := [boolNat k.spec.isNone, 3 - cls, pow2 64 - k.startClock, pow2 64 - k.seq] }
    else none))

def insertVictim (v : Victim) : List Victim → List Victim
  | [] => [v]
  | w :: r => if keyLt w.key v.key then w :: insertVictim v r else v :: w :: r

/-- Engines of a kind that work already told to stop will free. -/
def comingFree (c : Chip) (kind : Nat) : Nat :=
  sumBy (fun p => sumBy (fun k => match k.phase with | .stopping _ => heldCount c k kind | _ => 0) p.2.cmds) c.queues
    + sumBy (fun g => heldCount c g.cmd kind) c.ghosts

def stopVictims (c : Chip) (need : Nat) : List Victim → Nat → Chip
  | [], _ => c
  | v :: r, have_ =>
    if need ≤ have_ then c
    else stopVictims (updCmd c v.q v.seq (fun k => { k with phase := .stopping .preempt })) need r (have_ + v.held)

/-- The highest-ranked waiting command, if it is not speculative, preempts work below its class, and speculative work of it, when
that suffices (06 R197). Its class K is that of its context, aged or not (06 R195). -/
def preemptFor (c : Chip) (d : Cand) : Chip :=
  if d.spec then c else
  let vs := (victims c d).foldr insertVictim []
  let have_ := freeCount c d.kind + comingFree c d.kind
  if have_ < d.need && d.need ≤ have_ + sumBy (fun v => v.held) vs then
    stopVictims (updCmd c d.q d.seq (fun k => { k with trig := some (k.trig.getD c.clock) })) d.need vs have_
  else c

/-! ### Arbitration (06 R192, R194) -/

/-- The resident program's reference fits (02 R82). -/
def progRoom (c : Chip) (k : Cmd) : Bool :=
  k.opcode != opLaunch || refRoom c (match k.job with
    | .launch prog _ _ _ _ _ _ _ _ _ => (match tget c.mems prog with | some m => m.handle | none => 0)
    | _ => fieldHandle k.bits 95)

def fits (c : Chip) (e : Env) (d : Cand) : Bool :=
  d.need ≤ freeCount c d.kind
    && (match tget c.queues d.q, cmdOf c d.q d.seq with | some x, some k => unitsFit c e x k && progRoom c k | _, _ => false)

def isFresh (c : Chip) (d : Cand) : Bool :=
  match cmdOf c d.q d.seq with | some k => (match k.phase with | .wantResource _ _ => true | _ => false) | none => false

def arbKind (e : Env) (kind : Nat) : Nat → Chip → Chip
  | 0, c => c
  | n + 1, c =>
    match best c e kind with
    | none => c
    | some d => if fits c e d && isFresh c d then arbKind e kind n (grant c e d.q d.seq) else c

/-- Preemption for the highest-ranked of all waiting commands, if its engines are not free (06 R197). -/
def arbPreempt (c : Chip) (e : Env) : Chip :=
  match bestOf c e with
  | some d => if fits c e d then c else preemptFor c d
  | none => c

/-- Resources go to the commands that wait for them, in rank order; a command that resumes or replays takes its engines in its
own row, and none of lower rank passes it. -/
def arbitrate (c : Chip) (e : Env) : Chip :=
  let n := (candsOf c e).length
  arbPreempt (arbKind e 2 n (arbKind e 1 n (arbKind e 0 n c))) e

/-- The command is the highest-ranked of its kind and its engines are free. -/
def mayResume (c : Chip) (e : Env) (q seq : Nat) : Bool :=
  match tget c.queues q, cmdOf c q seq with
  | some _, some k =>
    (match best c e (needOf c k).1 with
     | some d => d.q == q && d.seq == seq && fits c e d
     | none => false)
  | _, _ => false

end Sys2Proof.Machine
end

