-- ==== Sys2Proof/Machine/Sched.lean ====
section
/-! DEFINITION. Bridle's sequence: start conditions (06 R190), completion records (05 R157), retirement, lists, BRANCH resolution
and commit (06 R219), breakpoints (05 R184 to R186), fetch (04 R124 to R126, 06 R187), queue and context resets (13 R400, R401)
and the entry to WALK (13 R410). -/

namespace Sys2Proof.Machine

/-! ### Completion records -/

/-- 05 R157. -/
def compRecord (gait ns det op : Nat) (tag : W16) (st replays : Nat) (late : Bool) (nflags : BitVec 5) : W128 :=
  BitVec.ofNat 128 (field nflags.toNat 0 5 + field (boolNat late) 5 1 + field (min replays 3) 6 2 + field st 8 8 + field tag.toNat 16 16
    + field op 32 8 + field det 40 8 + field (min ns 0xFFFFFFFF) 48 32 + field gait 80 48)

def cqBase (c : Chip) (x : Queue) : Nat := match tget c.mems x.cq with | some m => m.addr + x.cqOff | none => 0

/-- CONS reread when the ring appears full (04 R132). -/
def refreshCq (c : Chip) (q : Nat) : Chip :=
  modQueue c q (fun x => { x with cons := rereadCons c (cqBase c x) x.prod x.cons (pow2 x.cqLog2) })

def cqRoom (x : Queue) : Bool := (x.prod - x.cons).toNat < pow2 x.cqLog2

/-- Writes one record: entry, PROD, interrupt (04 R131); then the references of its command drop (02 R85). -/
def writeRecord (c : Chip) (q : Nat) (r : OwedRec) : Chip :=
  match tget c.queues q with
  | none => c
  | some x =>
    let c := ringWrite c (cqBase c x) 16 x.cqLog2 x.prod r.bits.toNat
    let c := setQueue c q { x with prod := x.prod + 1 }
    dropRefs (raiseBind c x.bind) r.drops

/-- A record that becomes owed: written at once if it can be, else held (04 R133); the queue is held meanwhile (02 R81), from the
moment when its device half has room for that (02 R82). -/
def oweRecord (c : Chip) (q : Nat) (r : OwedRec) : Chip :=
  match tget c.queues q with
  | none => c
  | some x =>
    let c := modQueue c q (fun x => { x with owedCount := x.owedCount + 1 })
    let c := if cqRoom x then c else refreshCq c q
    match tget c.queues q with
    | none => c
    | some x =>
      if x.owed.isEmpty && cqRoom x then writeRecord c q r
      else
        let room := refRoom c x.handle
        modQueue (if room then takeRef c x.handle else c) q (fun x => { x with owed := x.owed ++ [{ r with ref := room }] })

/-- The oldest held record, once there is room. -/
def writeOwed (c : Chip) (q : Nat) : Chip :=
  let c := match tget c.queues q with | some x => if cqRoom x then c else refreshCq c q | none => c
  match tget c.queues q with
  | none => c
  | some x =>
    match x.owed with
    | [] => c
    | r :: rest =>
      if !cqRoom x then c else
      let c := writeRecord (modQueue c q (fun x => { x with owed := rest })) q r
      if r.ref then dropRef c x.handle else c

def needsRecord (k : Cmd) : Bool := k.statusFlag || k.opcode == opTag || !(k.status == stOk || k.status == stReplayed)

def recordOf (k : Cmd) : W128 :=
  compRecord k.doneGait k.engineNs k.detail k.opcode k.tag k.status k.replays k.late k.nflags

/-- The error record of a failed command (13 R385). -/
def failRecord (c : Chip) (x : Queue) (k : Cmd) (f : FaultInfo) : ErrRec :=
  { cls := f.cls, tenant := some x.owner, ctx := x.ctx, status := k.status, detail := k.detail, opcode := k.opcode, engine := f.engine,
    tag := k.tag, queue := x.handle, object := f.object, spec := k.specFault, p0 := f.p0, p1 := f.p1, p2 := f.p2,
    gait := if f.gait == 0 then c.gait else f.gait }

/-! ### Lists -/

/-- Bytes of a list image from a cell on. -/
def listCells (c : Chip) (mem half off first n : Nat) : List W128 :=
  (List.range n).map (fun i => BitVec.ofNat 128 (leNat (objRead c mem half (off + 16 * (first + i)) 16)))

/-- A header that the scan of a body steps over: a legal LEN. -/
def scanStep (p : Nat) : Option Nat :=
  if !opDefined (opcodeOf p) || lenOf p == 0 then none
  else match opLen p with | some n => if lenOf p == n then some n else none | none => some (lenOf p)

/-- The scan of an unexecuted body (13 R390): an illegal header ends it. -/
def scanBody (c : Chip) (e : Env) (q : Nat) (le : LegalEnv) (mem half off nparam body : Nat) : Nat → Nat → Chip
  | 0, _ => c
  | n + 1, pos =>
    if body ≤ pos then c else
    match listCells c mem half off (1 + nparam + pos) 1 with
    | [h] =>
      let len := lenOf h.toNat
      let past := body < pos + len
      let cells := if past then [h] else listCells c mem half off (1 + nparam + pos) (max len 1)
      let p := pkNat cells
      if (illegalDetail { le with pastEnd := past } p).isSome then c else
      let c := if opcodeOf p == opSignal then breakBy c e q p false else c
      scanBody c e q le mem half off nparam body n (pos + max len 1)
    | _ => c

/-- What legality depends on for a queue's packets. -/
def legalEnv (c : Chip) (e : Env) (x : Queue) (inList pastEnd : Bool) (params : List Param) : LegalEnv :=
  { inList := inList, pastEnd := pastEnd, params := params, tenant := x.owner, features := featuresOf c x.owner,
    pf0Features := featuresOf c 0, hasBeat := match tget c.contexts x.ctx with | some y => y.beat.isSome | none => false,
    row := e.place.y, col := e.place.x }

/-- Scans the body of a started list from `pos` on. -/
def scanList (c : Chip) (e : Env) (q : Nat) (l : ListExec) (pos : Nat) : Chip :=
  match tget c.queues q with
  | none => c
  | some x => scanBody c e q (legalEnv c e x true false l.params) l.mem l.half l.off l.params.length l.body l.body pos

/-- Header of a list image (05 R174): NPARAM and BODY_CELLS, if legal. -/
def listHeader (h : Nat) : Option (Nat × Nat) :=
  let body := bits h 95 64
  let np := bits h 39 32
  if bits h 127 96 == 0 && bits h 63 40 == 0 && bits h 31 0 == 0x3154534C && 1 ≤ body && body ≤ 1048576 && np ≤ 64 then some (np, body) else none

def paramLegal (p : Nat) : Bool :=
  bits p 127 74 == 0 && bits p 71 70 == 0 && bits p 69 64 == 0 && bits p 73 72 != 3 && (bits p 73 72 == 0 || bits p 63 32 == 0)

def patchLegal (p : Nat) : Bool :=
  bits p 127 74 == 0 && bits p 71 70 == 0 && bits p 73 72 != 3 && (bits p 73 72 == 0 || bits p 63 32 == 0)

def paramOf (p : Nat) : Param := { type := bits p 73 72, value := BitVec.ofNat 64 (bits p 63 0) }

/-- Applies patches in order (05 R181). Of the checks that fail the lowest DETAIL is reported (05 R153): 0x07 for a SLOT that does
not exist, 0x0B for a TYPE that differs. -/
def applyPatches (ps : List Param) (as : List Nat) : Nat ⊕ List Param :=
  let at_ := fun (a : Nat) => ps[bits a 69 64]?
  if as.any (fun a => (at_ a).isNone) then .inl 0x07
  else if as.any (fun a => match at_ a with | some p => p.type != bits a 73 72 | none => false) then .inl 0x0B
  else .inr (as.foldl (fun ps a => ps.set (bits a 69 64) (paramOf a)) ps)

/-- The list object, its header, parameters and patches at a start, and the window check of the whole image, legality before access
(05 R153, R174, R175, R181). An image in a HOST or DOUBLE object, which R174 forbids without naming a status, completes with
FAULT_HANDLE (the model's choice, log 80). -/
inductive ListReady where
  | fail (st det : Nat) (f : FaultInfo) (count : Bool)
  | go (mem half off body : Nat) (params : List Param)

def readList (c : Chip) (x : Queue) (k : Cmd) : ListReady :=
  let h := fieldHandle k.bits 95
  let off := bits k.bits 191 128
  match memNamed c x.owner k h with
  | none => .fail stHandle 0 (faultInfo c 2 4 h 0 0 0) false
  | some (m, o) =>
    if o.kind != .device || o.double then .fail stHandle 0 (faultInfo c 2 4 h 0 0 0) false
    else match windowReason c x.owner o 0 off 16 with
    | some r => .fail stWindow 0 (windowInfo c 4 h off 16 r) true
    | none =>
      match readPoison c (o.at 0 off) 16 with
      | some l => .fail stBroken 0x96 (faultInfo c 0x16 6 h (l * 64) 0 0) false
      | none =>
      match (listCells c m 0 off 0 1).head?.bind (fun w => listHeader w.toNat) with
      | none => .fail stProgram 0x0A (illegalInfo c k) false
      | some (np, body) =>
        let len := 16 * (1 + np + body)
        match windowReason c x.owner o 0 off (16 * (1 + np)) with
        | some _ => .fail stWindow 0 (windowInfo c 4 h off len ((windowReason c x.owner o 0 off len).getD 2)) true
        | none =>
          let cells := (listCells c m 0 off 1 np).map (fun w => w.toNat)
          match readPoison c (o.at 0 off) (16 * (1 + np)) with
          | some l => .fail stBroken 0x96 (faultInfo c 0x16 6 h (l * 64) 0 0) false
          | none =>
          if !cells.all paramLegal then .fail stProgram 0x0A (illegalInfo c k) false
          else
            let patches := if k.opcode == opReplayList then (List.range (bits k.bits 102 96)).map (patchOf k.bits) else []
            match applyPatches (cells.map paramOf) patches with
            | .inl d => .fail stProgram d (illegalInfo c k) false
            | .inr ps =>
              match windowReason c x.owner o 0 off len with
              | some r => .fail stWindow 0 (windowInfo c 4 h off len r) true
              | none => .go m 0 off body ps

/-- A list that is cancelled before it starts: its body is scanned from position 0 (13 R390). -/
def scanUnstarted (c : Chip) (e : Env) (q : Nat) (k : Cmd) : Chip :=
  match tget c.queues q with
  | none => c
  | some x =>
    if !(k.opcode == opList || k.opcode == opReplayList) || k.check.isSome then c else
    match readList c x k with
    | .fail _ _ _ _ => c
    | .go mem half off body ps => scanBody c e q (legalEnv c e x true false ps) mem half off ps.length body body 0

/-- A list's record (05 R159). -/
def composed (c : Chip) (e : Env) (q : Nat) (l : ListExec) : Cmd :=
  let st := match l.fail with | some p => p.1 | none => if l.anyReplayed then stReplayed else stOk
  { l.cmd with phase := .completed, status := st, detail := match l.fail with | some p => p.2 | none => 0, nflags := l.nflags,
               engineNs := min l.engineNs 0xFFFFFFFF, replays := min l.replays 3, doneGait := c.gait, late := missed c e q l.cmd }

/-- Write-back of a REPLAY_LIST's parameters (05 R183); no stamp rises. -/
def writeBack (c : Chip) (l : ListExec) : Chip :=
  l.params.zipIdx.foldl (fun c p =>
    objStore c l.mem l.half (l.off + 16 * (1 + p.2)) (toLe 16 (p.1.value.toNat + field p.1.type 72 2))) c

/-! ### Breakpoints (05 R184 to R186) -/

/-- Started commands of a context that have not retired; started lists go on after a resume (log 14). -/
def ctxBusy (c : Chip) (ctx : Nat) : Bool :=
  c.queues.any (fun p => p.2.ctx == ctx && (p.2.cmds.any (fun k => k.started) || p.2.lists.any (fun l => l.ended)))

def sqCell (c : Chip) (x : Queue) (n : Nat) : W128 :=
  BitVec.ofNat 128 (leNat (objRead c x.sq 0 (x.sqOff + 16 * (n % pow2 x.sqLog2)) 16))

/-- The first cell of the packet that the queue fetches next: of an open list's body, else of its ring. -/
def nextCell (c : Chip) (x : Queue) : Option W128 :=
  match x.lists.getLast? with
  | some l =>
    if !l.ended then (listCells c l.mem l.half l.off (1 + l.params.length + l.pos) 1).head?
    else if x.tail == x.head then none else some (sqCell c x x.head.toNat)
  | none => if x.tail == x.head then none else some (sqCell c x x.head.toNat)

/-- TAG of the first command of the queue that has not started (05 R186); a free value where none is committed (log 27). -/
def nextTag (c : Chip) (x : Queue) : W16 :=
  match x.front with
  | some k => k.tag
  | none => match nextCell c x with | some h => tagOf h.toNat | none => BitVec.ofNat 16 (Config.freeNat c.free)

/-- A stopping context whose started commands have all retired moves to STOPPED with one break record. -/
def settleStop (c : Chip) (ctx : Nat) : Chip :=
  match tget c.contexts ctx with
  | none => c
  | some y =>
    match y.stopping with
    | none => c
    | some s =>
      if ctxBusy c ctx then c else
      let c := modContext { c with free := c.free + 1 } ctx (fun y => { y with runnable := false, stopping := none })
      let tag := match s.tag with
        | some t => t
        | none => match tget c.queues s.queue with | some x => nextTag { c with free := c.free - 1 } x | none => 0
      oweRecord c s.queue { bits := compRecord c.gait 0 s.detail opBreakOn tag stOk 0 false 0, drops := [], ref := false }

/-- A breakpoint fires; a context with nothing started stops at once. -/
def fireBreak (c : Chip) (ctx q : Nat) (tag : W16) (detail : Nat) : Chip := settleStop (stopContext c ctx q (some tag) detail) ctx

/-! ### BRANCH (05 R177, 06 R213, R219) -/

def slotsRead (c : Chip) (k : Cmd) : List Nat :=
  let p := k.bits
  let o := k.opcode
  if o == opScalar then bits p 87 80 :: (if bit p 96 then [] else [bits p 95 88])
  else if o == opBranch then bits p 71 64 :: (if bit p 80 then [] else [bits p 79 72])
  else if o == opLoopBegin then (if bit p 72 then [] else [bits p 71 64])
  else if o == opLaunch then
    (match (tget c.mems (hIndex (fieldHandle p 95))).bind (fun m => m.image) with | some i => cSlotIn i.bytes | none => [])
  else []

def slotsWritten (c : Chip) (k : Cmd) : List Nat :=
  let p := k.bits
  let o := k.opcode
  if o == opScalar then [bits p 79 72]
  else if o == opReduce then [bits p 79 72]
  else if o == opLaunch then
    match k.job with
    | .launch _ _ _ _ _ _ so _ _ _ => so
    | _ => (match (tget c.mems (hIndex (fieldHandle p 95))).bind (fun m => m.image) with | some i => cSlotOut i.bytes | none => [])
  else []

/-- An earlier unretired command of the queue still has to write a slot that k reads; within a window a completed speculative
writer has done so (06 R217). -/
def slotBlocked (c : Chip) (x : Queue) (k : Cmd) : Bool :=
  let rs := slotsRead c k
  x.cmds.any (fun j => j.seq < k.seq && (slotsWritten c j).any (fun s => rs.contains s) && !(j.spec.isSome && j.phase == .completed))

def branchOutcome (c : Chip) (x : Queue) (k : Cmd) : Bool :=
  let p := k.bits
  let b := if bit p 80 then BitVec.ofNat 64 (bits p 191 128) else slotVal c x k (bits p 79 72)
  branchHolds (bits p 83 81) (slotVal c x k (bits p 71 64)) b

/-- Position and loop stack that a BRANCH at `pos` gives when taken; none where the target is not permitted (05 R177). -/
def branchTaken (l : ListExec) (k : Cmd) : Option (Nat × List LoopEntry) :=
  let t : Int := k.pos + sext 32 (bits k.bits 127 96)
  match l.stack with
  | [] => if 0 ≤ t && t ≤ l.body then some (t.toNat, []) else none
  | i :: r =>
    if t == i.e + 1 then some (i.e + 1, r)
    else if (i.b : Int) + 2 ≤ t && t ≤ i.e then some (t.toNat, i :: r) else none

/-- The list goes on at a position. -/
def goTo (c : Chip) (q s pos : Nat) (stack : List LoopEntry) : Chip :=
  modQueue c q (fun x => modList x s (fun l => if l.ended then l else { l with pos := pos, stack := stack, ctl := false, ended := l.body ≤ pos }))

/-- A confirmed segment starts no further command (06 R219): what waits for engines goes back to the start position. -/
def confirm (c : Chip) (q b : Nat) : Chip :=
  demote (modQueue c q (fun x => { x with segs := x.segs.map (fun t => if t.branch == b then { t with confirmed := true } else t) })) q

/-- A started BRANCH whose slots have their values resolves (06 R219, R220). -/
def resolveBranch (c : Chip) (e : Env) (q : Nat) (k : Cmd) : Chip :=
  match tget c.queues q with
  | none => c
  | some x =>
    if k.phase != .branching || slotBlocked c x k then c else
    let out := branchOutcome c x k
    match x.segs.find? (fun s => s.branch == k.seq) with
    | some s =>
      if out == s.predict then
        confirm c q s.branch
      else
        let c := discardFrom c q s.branch
        let c := modQueue c q (fun x => modList x (k.list.getD 0) (fun l =>
          { l with pos := s.other, stack := s.otherStack, ctl := false, ended := l.body ≤ s.other }))
        complete c e q k stOk 0 none
    | none =>
      match k.list.bind (listOf x) with
      | none => complete c e q k stOk 0 none
      | some l =>
        let p := if out then (branchTaken l k).getD (k.pos + 2, l.stack) else (k.pos + 2, l.stack)
        complete (goTo c q l.cmd.seq p.1 p.2) e q k stOk 0 none

def resolveAll (c : Chip) (e : Env) (q : Nat) : Chip :=
  match tget c.queues q with
  | none => c
  | some x => (x.cmds.filter (fun k => k.phase == .branching)).foldl (fun c k =>
      match cmdOf c q k.seq with | some k => resolveBranch c e q k | none => c) c

/-! ### Retirement (05 R155) -/

/-- What retires next: a command, or a list whose body has all retired. -/
def headOf (x : Queue) : Option (Cmd ⊕ ListExec) :=
  match x.cmds.head?, x.lists.head? with
  | some k, some l =>
    if l.cmd.seq < k.seq && k.list != some l.cmd.seq then (if l.ended then some (.inr l) else none) else some (.inl k)
  | some k, none => some (.inl k)
  | none, some l => if l.ended then some (.inr l) else none
  | none, none => none

/-- Scalar writes of a retiring command (05 R170). -/
def applySlots (c : Chip) (ctx : Nat) (w : Tab W64) : Chip :=
  w.foldl (fun c p => modContext c ctx (fun y => { y with slots := tset y.slots p.1 p.2 })) c

/-- Record, logbook and references of a retired command. -/
def closeCmd (c : Chip) (q : Nat) (k : Cmd) : Chip :=
  let c := { c with logFree := c.logFree + k.units }
  let ctx := ctxOfQueue c q
  let c := if needsRecord k && k.late then cntEv (cntFix c 13 1) ctx 12 1023 1 .all else c
  if needsRecord k then oweRecord c q { bits := recordOf k, drops := k.refs, ref := false } else dropRefs c k.refs

/-- One body command's share of its list's record (05 R159). -/
def tallyList (l : ListExec) (k : Cmd) : ListExec :=
  { l with fail := if l.fail.isNone && isFailure k.status then some (k.status, k.detail) else l.fail,
           anyReplayed := l.anyReplayed || k.status == stReplayed, nflags := l.nflags ||| k.nflags,
           engineNs := l.engineNs + k.engineNs, replays := l.replays + k.replays }

/-- While a MODE 1 break stops a context, its record names the command that retired last (05 R186). -/
def noteLast (c : Chip) (ctx q : Nat) (k : Cmd) : Chip :=
  modContext c ctx (fun y => { y with stopping := y.stopping.map (fun s =>
    if s.detail == 0x81 then { s with queue := q, tag := some k.tag } else s) })

/-- MODE 1 of DEBUG_BREAK_ON counts a retirement (05 R184); the packet that arms does not count itself. -/
def countBreak (c : Chip) (q : Nat) (x : Queue) (k : Cmd) : Chip :=
  let c := noteLast c x.ctx q k
  match (tget c.contexts x.ctx).bind (fun y => y.brk) with
  | some (.count target seen aq aseq) =>
    if aq == q && aseq == k.seq then c
    else
      let c := modContext c x.ctx (fun y => { y with brk := some (.count target (seen + 1) aq aseq) })
      if target ≤ seen + 1 then fireBreak c x.ctx q k.tag 0x81 else c
  | _ => c

/-- The effects of one command's retirement, apart from its list. -/
def retireCmd (c : Chip) (e : Env) (q : Nat) (x : Queue) (k : Cmd) : Chip :=
  let c := applySlots c x.ctx k.scalarW
  let flagsRead := k.opcode == opReduce && bits k.bits 66 64 == 6 && k.status == stOk
  let c := modQueue c q (fun x => { x with flags := if flagsRead then 0 else x.flags ||| k.nflags,
                                           cmds := x.cmds.filter (fun j => j.seq != k.seq) })
  let c := if k.opcode == opBeatMark && k.status == stOk then
      modQueue c q (fun x => { x with lastMark := some 0, cmds := x.cmds.map (fun j => if k.seq < j.seq then { j with deadline := none } else j),
                                      lists := x.lists.map (fun l => if k.seq < l.cmd.seq then { l with cmd := { l.cmd with deadline := none } } else l) })
    else c
  let c := cntEv (cntFix c 2 1) x.ctx 3 1023 1 .all
  let c := if k.opcode == opLaunch then cntEv c x.ctx 4 1023 1 .all else c
  let c := match k.fault with | some f => postError c (failRecord c x k f) | none => c
  let c := match k.list with
    | some s =>
      let first := match listOf x s with | some l => l.fail.isNone && isFailure k.status | none => false
      let c := modQueue c q (fun x => modList x s (fun l => tallyList l k))
      if first then (match listOf x s with | some l => scanList c e q l (k.pos + max (lenOf k.bits) 1) | none => c) else c
    | none => c
  let c := closeCmd c q k
  let c := resolveAll c e q
  settleStop (countBreak c q x k) x.ctx

/-- A list retires after its body (05 R159, R183). -/
def retireList (c : Chip) (e : Env) (q : Nat) (x : Queue) (l : ListExec) : Chip :=
  let k := composed c e q l
  let c := if k.opcode == opReplayList && (k.status == stOk || k.status == stReplayed) then writeBack c l else c
  let c := modQueue c q (fun x => { x with lists := x.lists.filter (fun m => m.cmd.seq != l.cmd.seq) })
  let c := if l.bisect.isSome then modContext c x.ctx (fun y => { y with bisect := none }) else c
  let c := cntEv (cntFix c 2 1) x.ctx 3 1023 1 .all
  let c := closeCmd c q k
  settleStop (countBreak c q x k) x.ctx

/-- The next command of the queue retires, if it has completed and no record is held (04 R133). -/
def retireHead (c : Chip) (e : Env) (q : Nat) : Chip :=
  match tget c.queues q with
  | none => c
  | some x =>
    if !x.owed.isEmpty then c else
    match headOf x with
    | some (.inl k) => if k.phase == .completed && k.spec.isNone then retireCmd c e q x k else c
    | some (.inr l) => retireList c e q x l
    | none => c

/-! ### Commit (06 R219) -/

/-- Counters that a committed command owes (15 R445). -/
def payAccrued (c : Chip) (ctx : Nat) (k : Cmd) : Chip :=
  k.accrued.foldl (fun c p =>
    if 1048576 ≤ p.1 then cntFix c (p.1 - 1048576) p.2 else cntEv c ctx (p.1 / 1024) (p.1 % 1024) p.2 .unmarked) c

/-- The record of a recoverable fault that is replayed (13 R385). -/
def replayRecord (c : Chip) (q : Nat) (k : Cmd) (f : FaultInfo) (spec : Bool) : ErrRec :=
  { cls := f.cls, tenant := (tget c.queues q).map (fun x => x.owner), ctx := ctxOfQueue c q, opcode := k.opcode, engine := f.engine,
    tag := k.tag, queue := match tget c.queues q with | some x => x.handle | none => 0, object := f.object, spec := spec,
    replayed := true, p0 := f.p0, p1 := f.p1, gait := f.gait }

/-- TP_WIN_FAULTS counts a held refusal of an access at its commit (01 R45, 09 R297). -/
def heldWin (k : Cmd) : Bool := match k.fault with | some f => f.cls == 3 && f.p2 != 5 | none => false

/-- One command of the committed segment: stamps, slots, its wait's trace, the records of its held faults (13 R385), and its
failure. -/
def commitCmd (c : Chip) (q : Nat) (k : Cmd) : Chip :=
  let ctx := k.ctx
  let c := stampOutputs c k
  let c := payAccrued c ctx k
  let c := applySlots c ctx k.scalarW
  let c := match k.trace with | some r => postTrace c r | none => c
  let c := k.heldReplays.foldl (fun c f => postError c (replayRecord c q k f true)) c
  let failed := k.phase == .completed && isFailure k.status
  let c := if failed && heldWin k then countWin c k.owner else c
  let c := match (if failed then k.fault else none), tget c.queues q with
    | some f, some x => postError c (failRecord c x k f)
    | _, _ => c
  let k := { k with spec := none, scalarW := [], accrued := [], trace := none, heldReplays := [], specWrites := [] }
  let c := updCmd c q k.seq (fun _ => { k with fault := if failed then none else k.fault })
  if failed then takeFailure c q k else c

/-- The outermost segment is confirmed and every command that started in it has completed. An inner segment that is confirmed
first waits for it: 06 R219 gives no order there (the model's choice, log 79). -/
def mayCommit (x : Queue) : Bool :=
  match x.segs with
  | s :: _ => s.confirmed && x.cmds.all (fun k => k.spec != some s.branch || !k.started || k.phase == .completed || k.phase == .branching)
  | [] => false

/-- Waiters that a committed segment registered become visible (06 R217). -/
def showWaiters (c : Chip) (q seq : Nat) : Chip :=
  { c with hitches := c.hitches.map (fun p => (p.1, { p.2 with waiters := p.2.waiters.map (fun w =>
      match w with | .cmd a b t s => .cmd a b t (if a == q && b == seq then false else s) | w => w) })) }

def flipPub (c : Chip) (m : Nat) : Chip :=
  modMem c m (fun o => if o.double then { o with pub := 1 - o.pub, stamp := o.stamp + 1 } else o)

/-- The commit point (06 R219): held stamps, flips, then held effects in program order; the BRANCH completes. -/
def commitSeg (c : Chip) (e : Env) (q : Nat) : Chip :=
  match tget c.queues q with
  | none => c
  | some x =>
    if !mayCommit x then c else
    match x.segs with
    | [] => c
    | s :: _ =>
      let ks := x.cmds.filter (fun k => k.spec == some s.branch && k.started)
      let outs := (ks.flatMap (fun k => k.outputs.map (fun o => o.mem))).eraseDups
      let c := modQueue c q (fun x => { x with segs := x.segs.drop 1 })
      let c := cntFix c 4 1
      let c := match x.cmds.find? (fun k => k.seq == s.branch) with | some b => complete c e q { b with spec := none } stOk 0 none | none => c
      let c := ks.foldl (fun c k => match cmdOf c q k.seq with | some k => showWaiters (commitCmd c q k) q k.seq | none => c) c
      let c := outs.foldl flipPub c
      resolveAll (demote c q) e q

/-! ### Start conditions (06 R190) -/

def earlierUnretired (x : Queue) (k : Cmd) : Bool :=
  x.cmds.any (fun j => j.seq < k.seq) || x.lists.any (fun l => l.cmd.seq < k.seq && k.list != some l.cmd.seq)

/-- A WAIT_HITCH or BEAT_MARK of the queue has started and not completed. -/
def holdsQueue (x : Queue) : Bool :=
  x.cmds.any (fun j => match j.phase with | .waiting => true | .wantSlot => true | .beat _ => true | _ => false)

def debugArmed (y : Context) : Bool := y.brk.isSome || y.bisect.isSome

/-- SPEC holds the command at the start position of an open window (05 R180, 06 R214, R218, R219). A packet that its fetch found
illegal names nothing that R180 could judge. -/
def specBlocked (c : Chip) (x : Queue) (k : Cmd) : Bool :=
  inWindow x &&
    (!k.specOk || !hasFeat (featuresOf c x.owner) featSpec || 64 ≤ specCount c x.ctx || x.segs.any (fun s => s.confirmed)
      || x.cmds.any (fun j => j.specFault && j.spec == (x.segs.getLast?).map (fun s => s.branch))
      || (match tget c.contexts x.ctx with | some y => debugArmed y | none => true) || c.dev == .walk
      || !(specMay c x k || (match k.check with | some p => p.1 == stProgram | none => false)))

/-- Whether the command at the start position starts in its row, and how. -/
inductive Start where
  | hold
  /-- the queue is in error: CANCELLED (13 R389) -/
  | cancel (x : Queue) (k : Cmd)
  /-- a breakpoint stops the context before it (DETAIL 0x82) -/
  | break_ (x : Queue) (k : Cmd) (detail : Nat)
  /-- the fetch found it illegal or a handle bad -/
  | fail (k : Cmd) (st det : Nat) (f : FaultInfo)
  | go (x : Queue) (k : Cmd)

def tagBreak (c : Chip) (x : Queue) (k : Cmd) : Bool :=
  match (tget c.contexts x.ctx).bind (fun y => y.brk) with | some (.tag t) => t == k.tag | _ => false

/-- A list before the command in the sequence still has body packets to fetch. -/
def behindList (x : Queue) (k : Cmd) : Bool := x.lists.any (fun l => !l.ended && l.cmd.seq < k.seq && k.list != some l.cmd.seq)

/-- A BRANCH may speculate (06 R213). -/
def maySpeculate (c : Chip) (x : Queue) (k : Cmd) : Bool :=
  k.specOk && hasFeat (featuresOf c x.owner) featSpec && c.dev != .walk
    && (match tget c.contexts x.ctx with | some y => !debugArmed y | none => false)
    && sumBy (fun p => if p.2.ctx == x.ctx then p.2.segs.countP (fun s => !s.confirmed) else 0) c.queues < 2

/-- A WAIT_HITCH would register a waiter whose reference does not fit (02 R82). -/
def waitHeld (c : Chip) (k : Cmd) : Bool :=
  let h := fieldHandle k.bits 95
  match tget c.hitches (hIndex h) with
  | some y => y.broken == 0 && !(targetOf k).toNat ≤ y.value.toNat && !refRoom c h
  | none => true

/-- SLOT (06 R190): a BRANCH that may speculate is not held by it. -/
def slotHeld (c : Chip) (x : Queue) (k : Cmd) : Bool := slotBlocked c x k && !(k.opcode == opBranch && maySpeculate c x k)

/-- The start of the command at the start position of queue q, if its opcode passes `ok` and no condition of 06 R190 holds it; the
rank order is not looked at. RECORD holds it while a record of its queue waits for room. -/
def readyOf (c : Chip) (e : Env) (q : Nat) (ok : Nat → Bool) : Start :=
  match tget c.queues q with
  | none => .hold
  | some x =>
    match x.front, tget c.contexts x.ctx with
    | some k, some y =>
      if !ok k.opcode || k.phase != .fetched || !y.runnable || y.stopping.isSome || !isUp c || e.power != .active || holdsQueue x
          || !x.owed.isEmpty || behindList x k then .hold
      else if (k.fenceFlag || opFence k.opcode) && earlierUnretired x k then .hold
      else if x.err.isSome then .cancel x k
      else if slotHeld c x k then .hold
      else if specBlocked c x k then .hold
      else if tagBreak c x k then .break_ x k 0x82
      else match k.check with
        | some (st, det, f) => .fail k st det f
        | none => if k.opcode == opWait && waitHeld c k then .hold else .go x k
    | _, _ => .hold

/-- The opcode needs an engine: its start is the arbiter's grant (06 R192, R193). -/
def needsEngine (k : Cmd) : Bool :=
  k.opcode == opLaunch || k.opcode == opGroom || k.opcode == opOutride || (k.opcode == opReduce && bits k.bits 66 64 != 6)

/-- The command that queue p could start now without an engine. -/
def idleReady (c : Chip) (e : Env) (p : Nat) : Option (Queue × Cmd) :=
  match readyOf c e p (fun _ => true), tget c.queues p with
  | .go x k, _ => if needsEngine k then none else some (x, k)
  | .fail k _ _ _, some x => some (x, k)
  | _, _ => none

/-- Another queue has a command that needs no engine, can start, and ranks higher (06 R189, R192). -/
def outranked (c : Chip) (e : Env) (q : Nat) (x : Queue) (k : Cmd) : Bool :=
  c.queues.any (fun p => p.1 != q && (match idleReady c e p.1 with
    | some (y, j) => keyLt (rankKey c e p.1 y j false (inWindow y)) (rankKey c e q x k false (inWindow x))
    | none => false))

/-- The start of the command at the start position of queue q: the sequencer takes the highest-ranked of the commands that need no
engine (06 R192); one that needs an engine takes its place among those that wait for it. -/
def startOf (c : Chip) (e : Env) (q : Nat) (ok : Nat → Bool) : Start :=
  match readyOf c e q ok, tget c.queues q with
  | .go x k, _ => if !needsEngine k && outranked c e q x k then .hold else .go x k
  | .fail k st det f, some x => if outranked c e q x k then .hold else .fail k st det f
  | r, _ => r

/-- CANCELLED at the start position (13 R389, R390). -/
def cancelStart (c : Chip) (e : Env) (q : Nat) (x : Queue) (k : Cmd) : Chip :=
  let c := if k.opcode == opSignal && k.check.isNone then breakBy c e q k.bits true else c
  let c := scanUnstarted c e q k
  let k := begun c x ((cmdOf c q k.seq).getD k)
  let c := complete (countStart c q k) e q k stCancelled 0 none
  if k.opcode == opBranch || k.opcode == opLoopBegin || k.opcode == opLoopEnd then
    match k.list with
    | some s =>
      let c := match listOf x s with | some l => scanList c e q l (k.pos + max (lenOf k.bits) 1) | none => c
      stopList c q s
    | none => c
  else c

/-- What every packet row does before its own effect. -/
def atStart (c : Chip) (e : Env) (q : Nat) (ok : Nat → Bool) (f : Queue → Cmd → Chip) : Chip :=
  match startOf c e q ok with
  | .hold => c
  | .cancel x k => arbitrate (cancelStart c e q x k) e
  | .break_ x k d => arbitrate (fireBreak c x.ctx q k.tag d) e
  | .fail k st det g => arbitrate (failStart c e q k st det (some g) (g.cls == 3)) e
  | .go x k => arbitrate (f x k) e

/-- A command without engine work starts and completes in one step. -/
def doneStart (c : Chip) (e : Env) (q : Nat) (x : Queue) (k : Cmd) (st det : Nat) (g : Option FaultInfo) : Chip :=
  let k := begun c x k
  complete (countStart c q k) e q k st det g

/-! ### Fetch -/

/-- Objects that a packet names, for references and handle checks: field value and permitted TYPEs (05 R163, R164, R182). -/
def namedObjects (e : Env) (p : Nat) (params : List Param) : List (Handle × List Nat) :=
  let o := opcodeOf p
  if o == opQuery then
    let k := bits p 71 64
    [(fieldHandle p 127, [if k ≤ 1 then 1 else if k == 2 then 5 else 6]), (fieldHandle p 159, [3])]
  else if o == opLaunch then
    (fieldHandle p 95, [4]) :: (List.range (bits p 102 96)).filterMap (fun i =>
      let a := argOf p i
      if bits a 63 62 == 1 then some (BitVec.ofNat 32 (bits a 31 0), [3])
      else if bits a 63 62 == 3 then
        match params[a % 64]? with | some v => if v.type == 1 then some (BitVec.ofNat 32 v.value.toNat, [3]) else none | none => none
      else none)
  else if o == opList || o == opReplayList then [(fieldHandle p 95, [3])]
  else if o == opWait || o == opSignal then [(fieldHandle p 95, [5])]
  else if o == opOutride then
    let root := bits p 447 440 == e.place.y && bits p 439 432 == e.place.x
    let oop := bits p 66 64
    (if bit p 74 || (oop == 2 && !root) then [] else [(fieldHandle p 159, [3])])
      ++ (if bit p 75 || ((oop == 1 || oop == 3) && !root) then [] else [(fieldHandle p 191, [3])])
  else if o == opRetain || o == opRelease then [(fieldHandle p 95, [1, 2, 3, 4, 5, 6])]
  else []

/-- Memory objects reached through the descriptors that a packet names. -/
def namedDescs (c : Chip) (t p : Nat) (params : List Param) : List Handle :=
  let o := opcodeOf p
  let ids :=
    if o == opGroom then [bits p 159 128, bits p 191 160, bits p 223 192]
    else if o == opReduce && bits p 66 64 != 6 then [bits p 159 128]
    else if o == opLaunch then (List.range (bits p 102 96)).filterMap (fun i =>
      let a := argOf p i
      if bits a 63 62 == 0 then some (bits a 31 0)
      else if bits a 63 62 == 3 then
        match params[a % 64]? with | some v => if v.type == 2 then some (v.value.toNat % pow2 32) else none | none => none
      else none)
    else []
  ids.filterMap (fun i => (descOf c t i).bind (fun d => if handleOk c t [3] (dObject d) then some (dObject d) else none))

/-- The checks of a fetched packet (05 R153 steps 1 and 2). Argument handles of a launch wait for its argument matching. -/
def fetchCheck (c : Chip) (e : Env) (x : Queue) (k : Cmd) (le : LegalEnv) : Option (Nat × Nat × FaultInfo) :=
  match illegalDetail le k.bits with
  | some d => some (stProgram, d, illegalInfo c k)
  | none =>
    if k.opcode == opReplayList && !((List.range (bits k.bits 102 96)).all (fun j => patchLegal (patchOf k.bits j))) then
      some (stProgram, 0x04, illegalInfo c k)
    else
      let ns := namedObjects e k.bits le.params
      let ns := if k.opcode == opLaunch then ns.take 1 else ns
      (ns.find? (fun n => !handleOk c x.owner n.2 n.1)).map (fun n => (stHandle, 0, faultInfo c 2 4 n.1 0 0 0))

/-- The queue with a fetched command at its place: a body command stands before the ring commands that were fetched behind its
list, which take new sequence numbers (log 75). -/
def joinQueue (x : Queue) (k : Cmd) : Queue :=
  match k.list with
  | none => { x with cmds := x.cmds ++ [k], nextSeq := x.nextSeq + 1 }
  | some l =>
    let behind := fun (j : Cmd) => j.list.isNone && l < j.seq
    renumberQueue { x with cmds := x.cmds.filter (fun j => !behind j) ++ k :: x.cmds.filter behind, nextSeq := x.nextSeq + 1 } l

/-- `n` more references fit (02 R82). -/
def refRoomN (c : Chip) (h : Handle) (n : Nat) : Bool :=
  match objOf c h with | some (_, r) => r.dev + n ≤ 0xFFFFFFFF | none => true

/-- A fetched packet joins the queue: references, checks, one logbook unit (02 R81, 13 R391); none while a reference does not fit.
A REPLAY_LIST holds its list object a second time. -/
def enqueue (c : Chip) (e : Env) (q : Nat) (x : Queue) (k : Cmd) (le : LegalEnv) (check : Option (Nat × Nat × FaultInfo)) : Option Chip :=
  let legal := check.isNone && (illegalDetail le k.bits).isNone
  let hs := if legal then
      ((namedObjects e k.bits le.params).filterMap (fun n => if handleOk c x.owner n.2 n.1 then some n.1 else none)
        ++ namedDescs c x.owner k.bits le.params).eraseDups
    else []
  let refs := (x.handle :: hs).eraseDups ++ (if k.opcode == opReplayList then hs else [])
  if !refs.all (fun h => refRoomN c h (refs.count h)) then none else
  let k := { k with refs := refs, check := match check with | some f => some f | none => fetchCheck c e x k le }
  some (refs.foldl takeRef (modQueue { c with logFree := c.logFree - 1 } q (fun x => joinQueue x k)))

def sqPoison (c : Chip) (x : Queue) (n len : Nat) : Option Nat :=
  match tget c.mems x.sq with
  | some o => (List.range len).findSome? (fun i => readPoison c (o.at 0 (x.sqOff + 16 * ((n + i) % pow2 x.sqLog2))) 16)
  | none => none

def ueInfo (c : Chip) (line : Nat) : FaultInfo :=
  faultInfo c 0x16 4 ((objAt c (line * 64)).map (fun p => p.2.handle) |>.getD 0) (line * 64) 0 0

/-- The next packet of the ring (04 R124 to R126). -/
def fetchRing (c : Chip) (e : Env) (q : Nat) (x : Queue) : Option Chip :=
  let avail := (x.tail - x.head).toNat
  if avail == 0 then none else
  let le := legalEnv c e x false false []
  let h := sqCell c x x.head.toNat
  let len := lenOf h.toNat
  let fresh := freshCmd x.nextSeq x.ctx x.owner none [] x.head.toNat
  match sqPoison c x x.head.toNat 1 with
  | some l =>
    enqueue (modQueue (detectPoison c l 0) q (fun x => { x with head := x.tail })) e q x (fresh [0]) le (some (stBroken, 0x96, ueInfo c l))
  | none =>
    if len == 0 || pow2 x.sqLog2 < len then
      enqueue (modQueue c q (fun x => { x with head := x.tail })) e q x (fresh [h]) le
        (some (stProgram, (illegalDetail le h.toNat).getD 0x02, illegalInfo c (fresh [h])))
    else if avail < len then none
    else
      let bad := sqPoison c x x.head.toNat len
      let c := match bad with | some l => detectPoison c l 0 | none => c
      enqueue (modQueue c q (fun x => { x with head := x.head + BitVec.ofNat 32 len })) e q x
        (fresh ((List.range len).map (fun i => sqCell c x (x.head.toNat + i)))) le (bad.map (fun l => (stBroken, 0x96, ueInfo c l)))

/-- The next packet of a list body (05 R176); a control packet holds the fetch until it has executed. -/
def fetchBody (c : Chip) (e : Env) (q : Nat) (x : Queue) (l : ListExec) : Option Chip :=
  match listCells c l.mem l.half l.off (1 + l.params.length + l.pos) 1 with
  | [h] =>
    let len := max (lenOf h.toNat) 1
    let past := l.body < l.pos + len
    let n := if past then 1 else len
    let k := freshCmd x.nextSeq x.ctx x.owner (some l.cmd.seq) l.params l.pos
      (listCells c l.mem l.half l.off (1 + l.params.length + l.pos) n)
    let le := legalEnv c e x true past l.params
    let addr := match tget c.mems l.mem with | some o => o.at l.half (l.off + 16 * (1 + l.params.length + l.pos)) | none => 0
    let bad := readPoison c addr (16 * n)
    let c := match bad with | some p => detectPoison c p 0 | none => c
    let o := k.opcode
    let ctl := o == opBranch || o == opLoopBegin || o == opLoopEnd
    let c := modQueue c q (fun x => modList x l.cmd.seq (fun l => { l with pos := l.pos + n, ctl := ctl, ended := !ctl && l.body ≤ l.pos + n }))
    let c := match tget c.mems l.mem with | some m => noteRead c q k m l.half (l.off + 16 * (1 + l.params.length + l.pos)) (16 * n) | none => c
    enqueue c e q x k le (bad.map (fun p => (stBroken, 0x96, ueInfo c p)))
  | _ => none

/-- A list packet that has not started stands in the queue: its body comes next in the sequence (05 R155, log 81). -/
def listPending (x : Queue) : Bool := x.cmds.any (fun k => !k.started && (k.opcode == opList || k.opcode == opReplayList))

/-- The chip with the next packet of queue q fetched, where Bridle may fetch it (02 R86, 04 R133, 06 R187, 13 R391). -/
def fetchTry (c : Chip) (e : Env) (q : Nat) : Option Chip :=
  match tget c.queues q with
  | none => none
  | some x =>
    match tget c.contexts x.ctx with
    | none => none
    | some y =>
      if !isUp c || e.power != .active || !y.runnable || 64 ≤ x.cmds.length + x.lists.length || !x.owed.isEmpty || c.logFree == 0 then none
      else match x.lists.getLast? with
        | some l =>
          if !l.ended then (if l.ctl then none else fetchBody c e q x l)
          else if x.refs.host == 0 || listPending x then none else fetchRing c e q x
        | none => if x.refs.host == 0 || listPending x then none else fetchRing c e q x

/-- Rank of the command that queue q fetches next (06 R188). -/
def nextKey (c : Chip) (e : Env) (q : Nat) : List Nat :=
  match tget c.queues q with
  | some x =>
    let h := match nextCell c x with | some h => h | none => 0
    rankKey c e q x (freshCmd x.nextSeq x.ctx x.owner none [] 0 [h]) false (inWindow x)
  | none => []

/-- Another queue has a fetchable packet whose command ranks higher (06 R188). -/
def fetchOutranked (c : Chip) (e : Env) (q : Nat) : Bool :=
  c.queues.any (fun p => p.1 != q && (fetchTry c e p.1).isSome && keyLt (nextKey c e p.1) (nextKey c e q))

/-- PACKET_FETCH: one packet of the queue that ranks highest among those with fetchable packets. -/
def fetchOne (c : Chip) (e : Env) (q : Nat) : Chip :=
  if fetchOutranked c e q then c else (fetchTry c e q).getD c

/-! ### Flush and reset (04 R129, 13 R400, R401) -/

/-- A committed, unfetched packet of a flush: it completes with CANCELLED and retires in its turn (04 R129, R133). -/
def flushed (c : Chip) (x : Queue) (cells : List W128) : Cmd :=
  { freshCmd x.nextSeq x.ctx x.owner none [] x.head.toNat cells with
    phase := .completed, status := stCancelled, startGait := c.gait, startClock := c.clock, doneGait := c.gait, refs := [x.handle], units := 0 }

/-- Step 1 of a flush: committed, unfetched whole packets complete with CANCELLED, in order. A header whose LEN gives no boundary
ends it. Each holds the queue until its record is written (02 R86). -/
def flushPackets (c : Chip) (e : Env) (q : Nat) : Nat → Chip
  | 0 => c
  | n + 1 =>
    match tget c.queues q with
    | none => c
    | some x =>
      let avail := (x.tail - x.head).toNat
      let h := sqCell c x x.head.toNat
      let len := lenOf h.toNat
      if avail == 0 || len == 0 || pow2 x.sqLog2 < len || avail < len then c else
      let k := flushed c x ((List.range len).map (fun i => sqCell c x (x.head.toNat + i)))
      let c := modQueue c q (fun x => joinQueue { x with head := x.head + BitVec.ofNat 32 len } k)
      let c := takeRef c x.handle
      let legal := (illegalDetail (legalEnv c e x false false []) k.bits).isNone
      let c := if legal && k.opcode == opSignal then breakBy c e q k.bits false else c
      flushPackets (if legal then scanUnstarted c e q k else c) e q n

/-- A ring flush (04 R129). -/
def flushRing (c : Chip) (e : Env) (q : Nat) : Chip :=
  match tget c.queues q with
  | none => c
  | some x =>
    let c := flushPackets c e q (x.tail - x.head).toNat
    modQueue c q (fun x => { x with head := x.tail })

/-- A release that brought a queue's host half to 0 flushes its ring (02 R86). -/
def flushReleased (c : Chip) (e : Env) (h : Handle) : Chip :=
  if hType h == 2 then
    match tget c.queues (hIndex h) with
    | some x => if x.refs.host == 0 then destroyIfFree (flushRing c e (hIndex h)) h else c
    | none => c
  else c

def stopFor (stops : List Stop) (q seq : Nat) : Stop :=
  (stops.find? (fun s => s.q == q && s.seq == seq)).getD
    { q := q, seq := seq, done := 0, run := BodyRun.none, data := [], parts := [] }

/-- A started member of a collective is stopped by a reset: its partners hear of it (13 R405). -/
def tellPartners (c : Chip) (e : Env) (q : Nat) (k : Cmd) : Chip :=
  match k.job with
  | .outride _ _ _ _ =>
    if k.phase == .completed || !isCollective (outrideArgs k) then c
    else sendEach c e q k 0 ((outrideArgs k).others e.place) (fun p d => .memberReset p d (mySlice e) (memberStart e k))
  | _ => c

/-- Steps 1 and 2 of RESET_QUEUE for one started command: it completes with CANCELLED where it stands. -/
def cancelStarted (c : Chip) (e : Env) (q : Nat) (stops : List Stop) (k : Cmd) : Chip :=
  let c := tellPartners c e q k
  match k.phase with
  | .running => let p := partialWork c e q k (stopFor stops q k.seq); completeEngine p.1 e q p.2 stCancelled 0 none
  | .stopping _ => let p := partialWork c e q k (stopFor stops q k.seq); completeEngine p.1 e q p.2 stCancelled 0 none
  | .waiting => endWait c e q k stCancelled 3 none none
  | .wantSlot => endWait c e q k stCancelled 3 none none
  | .preempted _ _ =>
    let r := endAttempt c q k (movedBytes k) false
    completeJob (stampEnd r.1 r.2 stCancelled) e q r.2 stCancelled 0 none
  | .wantReplay => completeJob (stampEnd c k stCancelled) e q k stCancelled 0 none
  | .undecided => completeJob (stampEnd c k stCancelled) e q k stCancelled 0 none
  | .beat _ => complete c e q k stCancelled 0 none
  | .branching => complete c e q k stCancelled 0 none
  | .collective => completeJob c e q k stCancelled 0 none
  | _ => c

/-- Discarded engine work stops: its last bytes land and are unspecified, its account closes, its engines are free (06 R220). -/
def endGhost (c : Chip) (e : Env) (g : Ghost) (stop : Stop) : Chip :=
  let c := { c with ghosts := c.ghosts.filter (fun h => h != g) }
  let p := partialWork c e g.q { g.cmd with specWrites := [] } stop
  let r := endAttempt p.1 g.q p.2 (movedBytes p.2) true
  spoil r.1 r.2

def endGhosts (c : Chip) (e : Env) (q : Nat) (stops : List Stop) : Chip :=
  (c.ghosts.filter (fun g => g.q == q)).foldl (fun c g => endGhost c e g (stopFor stops q g.cmd.seq)) c

/-- Retires what stands in the queue, in sequence order, records held or not (13 R400). -/
def retireOut (c : Chip) (e : Env) (q : Nat) : Nat → Chip
  | 0 => c
  | n + 1 =>
    match tget c.queues q with
    | none => c
    | some x =>
      match headOf x with
      | some (.inl k) => if k.phase == .completed then retireOut (retireCmd c e q x k) e q n else c
      | some (.inr l) => retireOut (retireList c e q x l) e q n
      | none => c

/-- A started list of a reset queue: it is CANCELLED unless a body command failed, and the rest of its body is scanned. -/
def cancelList (c : Chip) (e : Env) (q : Nat) (l : ListExec) : Chip :=
  if l.ended then c else
  let c := scanList c e q l l.pos
  modQueue c q (fun x => modList x l.cmd.seq (fun l => { l with ended := true, ctl := false, fail := some (l.fail.getD (stCancelled, 0)) }))

/-- Applies f to every command of the queue that satisfies p, as each then stands. -/
def eachCmd (c : Chip) (q : Nat) (p : Cmd → Bool) (f : Chip → Cmd → Chip) : Chip :=
  match tget c.queues q with
  | none => c
  | some x => (x.cmds.filter p).foldl (fun c k => match cmdOf c q k.seq with | some j => f c j | none => c) c

/-- A fetched command of a reset queue that has not started (13 R400 step 4). -/
def cancelFetched (c : Chip) (e : Env) (q : Nat) (k : Cmd) : Chip :=
  let c := if k.opcode == opSignal && k.check.isNone then breakBy c e q k.bits true else c
  let c := scanUnstarted c e q k
  match cmdOf c q k.seq with | some k => complete c e q k stCancelled 0 none | none => c

def cancelLists (c : Chip) (e : Env) (q : Nat) : Chip :=
  match tget c.queues q with | some x => x.lists.foldl (fun c l => cancelList c e q l) c | none => c

/-- RESET_QUEUE's steps 1 to 5 (13 R400); the windows discarded are those of every queue of the context (06 R221). The queue keeps
its binding, slot and rings. -/
def resetQueue (c : Chip) (e : Env) (q : Nat) (stops : List Stop) : Chip :=
  match tget c.queues q with
  | none => c
  | some x =>
    let c := endGhosts (takeRef c x.handle) e q stops
    let c := eachCmd c q Cmd.started (fun c k => cancelStarted c e q stops k)
    let c := (c.queues.filter (fun p => p.2.ctx == x.ctx)).foldl (fun c p => demote (discardWindows c p.1) p.1) c
    let c := eachCmd c q (fun k => !k.started) (fun c k => cancelFetched c e q k)
    let c := flushRing (cancelLists c e q) e q
    let c := match tget c.queues q with | some y => retireOut c e q (y.cmds.length + y.lists.length + 1) | none => c
    let c := modQueue c q (fun y => { y with err := none, flags := 0 })
    settleStop (dropRef c x.handle) x.ctx

/-- RESET_CONTEXT (13 R401). -/
def resetContext (c : Chip) (e : Env) (ctx : Nat) (stops : List Stop) : Chip :=
  match tget c.contexts ctx with
  | none => c
  | some y =>
    let c := takeRef c y.handle
    let c := (c.queues.filter (fun p => p.2.ctx == ctx)).foldl (fun c p => resetQueue c e p.1 stops) c
    let c := clearTags (modContext c ctx (fun y => { y with slots := [], brk := none, bisect := none, stopping := none, runnable := true })) ctx
    dropRef c y.handle

/-! ### Replay boundary (13 R394) and WALK (13 R410) -/

/-- The first condition of the replay boundary that fails, as WHY; none when the command may be replayed. -/
def replayWhy (c : Chip) (k : Cmd) : Option Nat :=
  let conds : List (Bool × Nat) :=
    [(k.inputs.any (fun i => match tget c.mems i.mem with | some m => m.stamp != i.stamp | none => true), 1),
     (k.wroteInput, 2), (k.carriedLost, 3), (k.published, 4), (3 ≤ k.replays, 5), (!k.logOk, 6), (c.dev == .walk, 7)]
  (conds.find? (fun p => p.1)).map (fun p => p.2)

/-- Outside the boundary (13 R397): the command fails with BROKEN_INPUT, its record carries WHY. -/
def replayRefused (c : Chip) (e : Env) (q : Nat) (k : Cmd) (f : FaultInfo) (why : Nat) : Chip :=
  let c := cntCmdFix c q k 9 1
  let k := { k with accrued := ((cmdOf c q k.seq).getD k).accrued }
  completeJob (stampEnd c k stBroken) e q k stBroken (0x90 + (f.cls - 0x10)) (some { f with p2 := BitVec.ofNat 64 why })

/-- Engine work of a queue when the device enters WALK. -/
def walkCmd (e : Env) (q : Nat) (c : Chip) (k : Cmd) : Chip :=
  match cmdOf c q k.seq with
  | none => c
  | some k =>
    let copy := match tget c.queues q with | some x => k.opcode == opOutride && walkCopy c x k | none => false
    match k.phase with
    | .running => if copy then c else updCmd c q k.seq (fun k => { k with phase := .stopping .degraded })
    | .stopping _ => if copy then c else updCmd c q k.seq (fun k => { k with phase := .stopping .degraded })
    | .preempted _ _ =>
      if copy then c else
      let r := endAttempt c q k (movedBytes k) false
      completeJob (stampEnd r.1 r.2 stDegraded) e q r.2 stDegraded 0 none
    | .wantReplay => completeJob (stampEnd c k stDegraded) e q k stDegraded 0 none
    | .undecided => completeJob (stampEnd c k stDegraded) e q k stDegraded 0 none
    | .collective => completeJob c e q k stDegraded 0 none
    | _ => c

/-- A walk cause arises (13 R409, R410). In OFF and BRINGUP it waits for the end of bring-up. -/
def walkEntry (c : Chip) (e : Env) (cause : Nat) : Chip :=
  if bit c.walk.toNat cause then { c with walkCleared := c.walkCleared &&& ~~~(BitVec.ofNat 5 (1 <<< cause)) } else
  let c := { c with walk := c.walk ||| BitVec.ofNat 5 (1 <<< cause), walkCleared := c.walkCleared &&& ~~~(BitVec.ofNat 5 (1 <<< cause)) }
  if c.dev == .off || c.dev == .bringup then c else
  let first := c.dev != .walk
  let c := raiseSource { c with dev := .walk } 29
  let c := postEvent c 0x22 0 c.walk.toNat 0 0
  if !first then c else
  let c := c.queues.foldl (fun c p => demote (discardWindows c p.1) p.1) c
  c.queues.foldl (fun c p => p.2.cmds.foldl (walkCmd e p.1) c) c

end Sys2Proof.Machine
end

