-- ==== Sys2Proof/Machine/Env.lean ====
section
/-! DEFINITION. What the chip part reads of the other parts, and one 250 MHz cycle of the timebase (15 R462, 11 R358, log 1). -/

namespace Sys2Proof.Machine

/-- Farrier is in a scheduling gap (14 R438, R439). -/
def inGap (f : Farrier) : Bool := match f.update with | .gap _ _ _ _ => true | _ => false

def placeNow (s : State) : Place := placeOf s.fabric.plan s.fuses.serial.toNat

def envOf (s : State) : Env :=
  { fabric := s.fabric, beats := s.beats, gap := inGap s.farrier, image := s.farrier.running,
    place := placeNow s, power := s.halter.power }

/-- A change of the chip part alone. -/
def onChip (s : State) (f : Chip → Env → Chip) : State := { s with chip := f s.chip (envOf s) }

/-- ns by which the gait counter advances in a cycle: one cycle of every 256 advances by 3 or 5 while it slews (11 R358). -/
def gaitStep (c : Chip) (f : Fabric) : Nat :=
  if c.phase == 255 then (if f.slew < 0 then 3 else if 0 < f.slew then 5 else 4) else 4

/-- Fixed counters that accrue with time (15 R444, R448): cluster-cycles and busy ns. -/
def accrueTick (c : Chip) (cyc : Nat) : Chip :=
  let c := c.compute.holders.foldl (fun c h =>
    (List.range 8).foldl (fun c i => cntFix c (128 + 8 * h.1 + i) cyc) (cntFix c 0 (8 * cyc))) c
  let c := c.compute.groom.foldl (fun c h => cntFix c (32 + h.1) 4) c
  c.compute.outrider.foldl (fun c h => cntFix c (48 + h.1) 4) c

/-- The gait counter runs from step 2 of bring-up on (14 R418). -/
def gaitRuns (s : State) : Bool :=
  s.chip.dev != .off && s.halter.sysclk && (match s.halter.bootAt with | some b => b + 2000000 ≤ s.chip.clock | none => true)

/-- One cycle of the timebase. -/
def tick (s : State) : State :=
  let c := s.chip
  let cyc := if isUp c then 4 * s.gov.clMhz else 0
  let c1 := { c with setNow := [], clock := c.clock + 4, phase := (c.phase + 1) % 256, cycles := c.cycles + cyc,
                     gait := if gaitRuns s then c.gait + gaitStep c s.fabric else c.gait }
  let c2 := accrueTick c1 ((c.cycles + cyc) / 1000 - c.cycles / 1000)
  let c3 := if s.gov.thermalLimiting || s.gov.powerLimiting then cntFix c2 16 4 else c2
  { s with chip := c3 }

end Sys2Proof.Machine
end

