-- ==== Sys2Proof/Machine/Freeze.lean ====
section
/-! DEFINITION. Counter freezes: triggers, merging, broadcast and the latch (15 R455 to R458). -/

namespace Sys2Proof.Machine

/-- Broadcast frames are sent and obeyed only while FREEZE_TRIGGER is agreed for PF0 (15 R455). -/
def freezeAgreed (c : Chip) : Bool := hasFeat (featuresOf c 0) featFreeze

/-- Sends a freeze frame on the given ports, and remembers its FREEZE_ID (15 R457). -/
def sendFreeze (c : Chip) (f : Fabric) (ports : List Nat) (tf : Nat) (id slice : W16) : Chip :=
  if !freezeAgreed c then c else
  let c := ports.foldl (fun c p => sendFrame c f p 2 (.freezeFrame p tf id slice) none) c
  { c with counters := { c.counters with forwarded := if c.counters.forwarded.contains id then c.counters.forwarded else id :: c.counters.forwarded } }

/-- A trigger while a bank is held (15 R458). -/
def missFreeze (c : Chip) : Chip := { c with counters := { c.counters with missed := satAdd c.counters.missed 1 0xFFFF } }

def originate (c : Chip) (e : Env) (tf source : Nat) (bcast : Bool) : Chip :=
  let n := (c.counters.seq + 1) % 256
  let id : W16 := BitVec.ofNat 16 (256 * e.place.num + n)
  let c := { c with counters := { c.counters with seq := n, pendingFreeze := some { tf := tf, id := id, source := source, broadcast := bcast } } }
  if bcast then sendFreeze c e.fabric (upPorts e.fabric) tf id (BitVec.ofNat 16 e.place.slice) else c

/-- A local trigger: request (source 0), FREEZE_IN (1) or packet (3) (15 R455, R458). -/
def triggerFreeze (c : Chip) (e : Env) (tf source : Nat) (bcast : Bool) : Chip :=
  if c.counters.heldBank.isSome then missFreeze c else
  match c.counters.pendingFreeze with
  | none => originate c e tf source bcast
  | some p =>
    if tf < p.tf then originate c e tf source (p.broadcast || bcast)
    else { c with counters := { c.counters with pendingFreeze := some { p with broadcast := p.broadcast || bcast } } }

/-- A freeze frame of a chip of the same slice (15 R457, R458). -/
def freezeFrame (c : Chip) (e : Env) (port tf : Nat) (id slice : W16) : Chip :=
  if !freezeAgreed c || slice.toNat != e.place.slice || !isUp c then c else
  let c := if c.counters.forwarded.contains id then c
           else sendFreeze c e.fabric ((upPorts e.fabric).filter (fun p => p != port)) tf id slice
  if c.counters.heldBank.isSome then missFreeze c else
  match c.counters.pendingFreeze with
  | none => { c with counters := { c.counters with pendingFreeze := some { tf := tf, id := id, source := 2, broadcast := true } } }
  | some p =>
    if tf < p.tf then { c with counters := { c.counters with pendingFreeze := some { tf := tf, id := id, source := 2, broadcast := true } } } else c

/-- The gait counter has reached T_F: what is counted later is not in the bank (15 R456). -/
def noteTf (c : Chip) : Chip :=
  match c.counters.pendingFreeze, c.counters.atTf with
  | some p, none => if c.gait < p.tf then c else { c with counters := { c.counters with atTf := some c.counters.value } }
  | _, _ => c

/-- The latch at T_F (15 R456). -/
def latchFreeze (c : Chip) (e : Env) : Chip :=
  match c.counters.pendingFreeze with
  | none => c
  | some p =>
    if c.gait < p.tf then c else
    let c := { c with counters := { c.counters with pendingFreeze := none, atTf := none,
                                                    heldBank := some (p, c.counters.atTf.getD c.counters.value),
                                                    alignedAt := alignedNow c.dev e.fabric e.place } }
    raiseSource c 14

end Sys2Proof.Machine
end

