-- ==== Sys2Proof/Machine/Packets.lean ====
section
/-! DEFINITION. The packets that Bridle's sequencer starts (05 R162 to R186). Each row takes the command at the start position of
queue `q`, if it is of the row's opcode and its start conditions hold (06 R190). -/

namespace Sys2Proof.Machine

/-! ### Shared starts -/

def only (o : Nat) (x : Nat) : Bool := x == o

/-- A command that completes with OK at its start, after a change `f` of the rest. -/
def okStart (c : Chip) (e : Env) (q : Nat) (x : Queue) (k : Cmd) (f : Chip → Chip) : Chip := doneStart (f c) e q x k stOk 0 none

/-- An illegal packet found at its execution (05 R153). -/
def illegalStart (c : Chip) (e : Env) (q : Nat) (x : Queue) (k : Cmd) (detail : Nat) : Chip :=
  doneStart c e q x k stProgram detail (some (illegalInfo c k))

/-- An engine command at its start position (06 R190, R192): held, failed, or waiting for its engines. -/
def engineStart (c : Chip) (e : Env) (q : Nat) (x : Queue) (k : Cmd) : Chip :=
  if c.dev == .walk && !(k.opcode == opOutride && walkCopy c x k) then doneStart c e q x k stDegraded 0 none
  else match prepare c e x k with
    | .wait => c
    | .fail st det f cnt => failStart (noteRefused c e x k) e q k st det (some f) cnt
    | .down => c
    | .go p =>
      if k.opcode == opOutride && isCollective (outrideArgs k) then
        if p.units ≤ c.logFree then
          let r := fixJob c e q x k p
          let g := (outrideArgs k).sig
          let r := announce (noteStarted r.1 x.owner g) e q { r.2 with order := startedOf c x.owner g }
          updCmd r.1 q k.seq (fun _ => { r.2 with phase := .collective })
        else c
      else updCmd c q k.seq (fun k => { k with phase := .wantResource c.clock false })

/-! ### QUERY (02 R87 to R90) -/

/-- 02 R88. -/
def utilNat (c : Chip) (y : Context) : Nat :=
  field c.gait 0 64 + field y.util.clusterCycles.toNat 64 64 + field y.util.specDiscard.toNat 128 64
    + field y.util.computeBusy.toNat 192 64 + field y.util.groomBusy.toNat 256 64 + field y.util.outriderBusy.toNat 320 64
    + field y.util.groomBytes.toNat 384 64 + field y.util.outriderBytes.toNat 448 64

/-- The commands of context ctx, and its discarded work that has not stopped. -/
def ctxCmds (c : Chip) (ctx : Nat) : List Cmd :=
  c.queues.flatMap (fun p => if p.2.ctx == ctx then p.2.cmds else [])
    ++ (c.ghosts.filter (fun g => g.cmd.ctx == ctx)).map (fun g => g.cmd)

/-- Scratch declared by the launches that hold teams: SCRATCH_BYTES of each of their clusters. -/
def scratchHeld (k : Cmd) : Nat :=
  match k.job with
  | .launch _ _ _ scratch _ _ _ _ _ _ => scratch * 8 * k.teams.length
  | _ => 0

/-- 02 R89; a program image counts in HBM_BYTES (07 R227). -/
def memUseNat (c : Chip) (ctx : Nat) : Nat :=
  let homed := c.mems.filter (fun p => p.2.home == some ctx)
  let ks := ctxCmds c ctx
  let waits := sumBy (fun p => p.2.waiters.countP (fun w => match w with
    | .cmd q _ _ s => !s && ctxOfQueue c q == ctx
    | .event _ _ => false)) c.hitches
  field c.gait 0 64 + field (sumBy (fun p => if p.2.kind == .host then 0 else 65536 * p.2.charge) homed) 64 64
    + field (sumBy scratchHeld ks) 128 64
    + field (sumBy (fun k => (if k.groom.isSome then 524288 else 0) + 1048576 * k.outriders.length) ks) 192 64
    + field (sumBy (fun p => if p.2.kind == .host then p.2.size else 0) homed) 256 64
    + field homed.length 320 32 + field waits 352 32 + field (c.queues.countP (fun p => p.2.ctx == ctx)) 384 16

def eventCode : EventState → Nat
  | .idle => 0
  | .armed => 1
  | .fired => 2
  | .broken => 3

/-- The record that a QUERY of KIND `kind` writes about the object of index `i`, and its length. -/
def queryRecord (c : Chip) (kind i : Nat) : List Byte :=
  if kind == 0 then (match tget c.contexts i with | some y => toLe 64 (utilNat c y) | none => [])
  else if kind == 1 then toLe 64 (memUseNat c i)
  else if kind == 2 then
    match tget c.hitches i with
    | some h => toLe 16 (field h.value.toNat 0 64
        + field (h.waiters.countP (fun w => match w with | .cmd _ _ _ s => !s | .event _ _ => true)) 64 32 + field h.broken.toNat 96 32)
    | none => []
  else match tget c.events i with | some v => toLe 16 (field v.fireGait 0 64 + field (eventCode v.state) 64 2) | none => []

def queryStart (c : Chip) (e : Env) (q : Nat) (x : Queue) (k : Cmd) : Chip :=
  let h := fieldHandle k.bits 159
  let bytes := queryRecord c (bits k.bits 71 64) (hIndex (fieldHandle k.bits 127))
  let off := bits k.bits 255 192
  match memNamed c x.owner k h with
  | none => doneStart c e q x k stHandle 0 (some (faultInfo c 2 4 h 0 0 0))
  | some (m, o) =>
    if o.kind != .device then doneStart c e q x k stHandle 0 (some (faultInfo c 2 4 h 0 0 0))
    else
      let half := writeHalf x o
      match windowReason c x.owner o half off bytes.length with
      | some r => failStart c e q k stWindow 0 (some (windowInfo c 4 h off bytes.length r)) true
      | none =>
        let k := { begun c x k with outputs := [{ mem := m, half := half }] }
        let c := updCmd (countStart c q k) q k.seq (fun _ => k)
        let r := attemptWrite c q k m half off bytes
        let c := if r.2.spec.isNone then stampOutputs r.1 { r.2 with status := stOk } else r.1
        complete c e q r.2 stOk 0 none

/-! ### Lists (05 R174 to R183) -/

/-- The bisect counter that a starting list takes (05 R185): none while another list of the context has it. -/
def bisectFor (c : Chip) (ctx : Nat) : Option Nat :=
  if c.queues.any (fun p => p.2.ctx == ctx && p.2.lists.any (fun l => l.bisect.isSome)) then none
  else (tget c.contexts ctx).bind (fun y => y.bisect)

def listStart (c : Chip) (e : Env) (q : Nat) (x : Queue) (k : Cmd) : Chip :=
  match readList c x k with
  | .fail st det f cnt =>
    let c := if f.cls == 0x16 then detectPoison c (f.p0.toNat / 64) 0 else c
    failStart c e q k st det (some f) cnt
  | .go mem half off body params =>
    let k := { begun c x k with phase := .running }
    let b := bisectFor c x.ctx
    let c := countStart c q k
    let c := match tget c.mems mem with | some o => noteRead c q k o half off (16 * (1 + params.length)) | none => c
    let c := modQueue c q (fun x => { x with
      cmds := x.cmds.filter (fun j => j.seq != k.seq),
      lists := x.lists ++ [{ cmd := k, mem := mem, half := half, off := off, body := body, params := params, pos := 0, ctl := false,
                             stack := [], ended := false, bisect := b, fail := none, anyReplayed := false, nflags := 0,
                             engineNs := 0, replays := 0 }] })
    if b == some 0 then settleStop (stopContext c x.ctx q none 0x83) x.ctx else c

/-! ### WAIT_HITCH (02 R70, R72, 05 R168) -/

/-- Takes a waiter slot for the started wait k. -/
def registerWait (c : Chip) (q : Nat) (k : Cmd) (h : Handle) : Chip :=
  let c := modHitch c (hIndex h) (fun y => { y with waiters := y.waiters ++ [.cmd q k.seq (targetOf k) k.spec.isSome] })
  updCmd (takeRef c h) q k.seq (fun _ => { k with phase := .waiting, specReg := k.spec.isSome })

def waitStart (c : Chip) (e : Env) (q : Nat) (x : Queue) (k : Cmd) : Chip :=
  let h := fieldHandle k.bits 95
  match tget c.hitches (hIndex h) with
  | none => c
  | some y =>
    if y.broken != 0 then doneStart c e q x k stBroken 0 none
    else if (targetOf k).toNat ≤ y.value.toNat then doneStart c e q x k stOk 0 none
    else
      let k := begun c x k
      let c := countStart c q k
      if slotRoom c x.owner then registerWait c q k h
      else
        let k := { k with phase := .wantSlot, slotWait := true }
        cntCmd (cntCmdFix (updCmd c q k.seq (fun _ => k)) q k 10 1) q k x.ctx 10 1023 1

/-- The wait held for a slot evaluates its hitch once a slot is free (02 R70, R72). -/
def slotObtained (c : Chip) (e : Env) (q : Nat) : Chip :=
  match tget c.queues q with
  | none => c
  | some x =>
    match x.cmds.find? (fun k => k.phase == .wantSlot) with
    | none => c
    | some k =>
      let h := fieldHandle k.bits 95
      match tget c.hitches (hIndex h) with
      | none => c
      | some y =>
        if !slotRoom c x.owner || !refRoom c h then c
        else if y.broken != 0 then endWait c e q k stBroken 1 y.breaker none
        else if (targetOf k).toNat ≤ y.value.toNat then endWait c e q k stOk 0 none none
        else registerWait c q k h

/-- TIMEOUT_US of a wait; 0 for none. -/
def timeoutUs (k : Cmd) : Nat := bits k.bits 127 96

def waitTimeout (c : Chip) (e : Env) (q : Nat) : Chip :=
  match tget c.queues q with
  | none => c
  | some x =>
    match x.cmds.find? (fun k => k.phase == .waiting || k.phase == .wantSlot) with
    | none => c
    | some k =>
      if timeoutUs k == 0 || c.clock < k.startClock + 1000 * timeoutUs k then c
      else endWait c e q k stTimeout 2 none (some (faultInfo c 6 4 (fieldHandle k.bits 95) 0 0 0))

/-! ### SIGNAL_HITCH (02 R69) -/

def signalStart (c : Chip) (e : Env) (q : Nat) (x : Queue) (k : Cmd) : Chip :=
  let h := hIndex (fieldHandle k.bits 95)
  match tget c.hitches h with
  | none => c
  | some y =>
    if y.broken != 0 then doneStart c e q x k stBroken 0 none
    else doneStart (signalHitch c e h (targetOf k) (sigOf x k c.gait)) e q x k stOk 0 none

/-! ### Scalars and control (05 R170 to R178) -/

def scalarStart (c : Chip) (e : Env) (q : Nat) (x : Queue) (k : Cmd) : Chip :=
  let p := k.bits
  let b := if bit p 96 then BitVec.ofNat 64 (bits p 191 128) else slotVal c x k (bits p 95 88)
  let r := scalarResult (bits p 71 64) (slotVal c x k (bits p 87 80)) b
  doneStart c e q x { k with scalarW := [(bits p 79 72, r.1)], nflags := r.2 } stOk 0 none

/-- ROP FLAGS (05 R173): the accumulator goes to DST and is cleared when the command retires, which its fence makes the same
moment for the queue's flags. -/
def flagsStart (c : Chip) (e : Env) (q : Nat) (x : Queue) (k : Cmd) : Chip :=
  doneStart c e q x { k with scalarW := [(bits k.bits 79 72, BitVec.ofNat 64 x.flags.toNat)] } stOk 0 none

def branchStart (c : Chip) (e : Env) (q : Nat) (x : Queue) (k : Cmd) : Chip :=
  match k.list.bind (listOf x) with
  | none => c
  | some l =>
    let blocked := slotBlocked c x k
    match branchTaken l k with
      | none => illegalStart c e q x k 0x08
      | some t =>
        let after := (k.pos + 2, l.stack)
        if blocked then
          let predict := bit k.bits 84
          let on := if predict then t else after
          let off := if predict then after else t
          let k := { begun c x k with phase := .branching }
          let c := updCmd (countStart c q k) q k.seq (fun _ => k)
          let c := modQueue c q (fun x => { x with segs := x.segs ++
            [{ branch := k.seq, predict := predict, confirmed := false, other := off.1, stack := l.stack, otherStack := off.2 }] })
          goTo c q l.cmd.seq on.1 on.2
        else
          let p := if branchOutcome c x k then t else after
          doneStart (goTo c q l.cmd.seq p.1 p.2) e q x k stOk 0 none

def loopBeginStart (c : Chip) (e : Env) (q : Nat) (x : Queue) (k : Cmd) : Chip :=
  match k.list.bind (listOf x) with
  | none => c
  | some l =>
    let p := k.bits
    let n := bits p 127 96
    if n < 2 || l.body ≤ k.pos + n then illegalStart c e q x k 0x09
    else
      let count := if bit p 72 then bits p 191 128 else (slotVal c x k (bits p 71 64)).toNat
      if count == 0 then okStart c e q x k (fun c => goTo c q l.cmd.seq (k.pos + n + 1) l.stack)
      else if 4 ≤ l.stack.length then illegalStart c e q x k 0x09
      else okStart c e q x k (fun c => goTo c q l.cmd.seq (k.pos + 2) ({ b := k.pos, e := k.pos + n, count := count } :: l.stack))

def loopEndStart (c : Chip) (e : Env) (q : Nat) (x : Queue) (k : Cmd) : Chip :=
  match k.list.bind (listOf x) with
  | none => c
  | some l =>
    match l.stack with
    | [] => illegalStart c e q x k 0x09
    | i :: r =>
      if i.b + bits k.bits 127 96 != k.pos || k.pos != i.e then illegalStart c e q x k 0x09
      else if i.count == 1 then okStart c e q x k (fun c => goTo c q l.cmd.seq (i.e + 1) r)
      else okStart c e q x k (fun c => goTo c q l.cmd.seq (i.b + 2) ({ i with count := i.count - 1 } :: r))

def beatMarkStart (c : Chip) (q : Nat) (x : Queue) (k : Cmd) : Chip :=
  let k := { begun c x k with phase := .beat (bits k.bits 71 64) }
  updCmd (countStart c q k) q k.seq (fun _ => k)

/-! ### RETAIN, RELEASE (02 R80, R83, R86) -/

def retainStart (c : Chip) (e : Env) (q : Nat) (x : Queue) (k : Cmd) : Chip :=
  let h := fieldHandle k.bits 95
  if !named c x.owner { k with refs := [] } [1, 2, 3, 4, 5, 6] h then
    doneStart c e q x k stHandle 0 (some (faultInfo c 2 4 h 0 0 0))
  else match objOf c h with
    | none => c
    | some (_, r) =>
      if r.host == 0xFFFFFFFF then doneStart c e q x k stRefused 0 none
      else okStart c e q x k (fun c => setRefs c h { r with host := r.host + 1 })

def releaseStart (c : Chip) (e : Env) (q : Nat) (x : Queue) (k : Cmd) : Chip :=
  let h := fieldHandle k.bits 95
  if !named c x.owner { k with refs := [] } [1, 2, 3, 4, 5, 6] h then
    doneStart c e q x k stHandle 0 (some (faultInfo c 2 4 h 0 0 0))
  else match objOf c h with
    | none => c
    | some (_, r) =>
      let c := doneStart (setRefs c h { r with host := r.host - 1 }) e q x k stOk 0 none
      flushReleased c e h

/-! ### Debug packets (05 R184, R185) -/

def breakOnStart (c : Chip) (e : Env) (q : Nat) (x : Queue) (k : Cmd) : Chip :=
  let p := k.bits
  let b : Option Breakpoint :=
    if bits p 65 64 == 1 then some (.count (bits p 191 128) 0 q k.seq)
    else if bits p 65 64 == 2 then some (.tag (BitVec.ofNat 16 (bits p 95 80))) else none
  okStart c e q x k (fun c => modContext c x.ctx (fun y => { y with brk := b }))

def bisectStart (c : Chip) (e : Env) (q : Nat) (x : Queue) (k : Cmd) : Chip :=
  let b := if bit k.bits 96 then none else some (bits k.bits 95 64)
  okStart c e q x k (fun c =>
    let c := { c with queues := c.queues.map (fun p => (p.1, if p.2.ctx == x.ctx
      then { p.2 with lists := p.2.lists.map (fun l => { l with bisect := none }) } else p.2)) }
    modContext c x.ctx (fun y => { y with bisect := b }))

/-! ### The rows -/

def execPacketFetch (q : Nat) (s : State) : Host.Outcome State Fault Refusal := .next (onChip s (fun c e => fetchOne c e q))

def execUndefinedOpcode (q : Nat) (s : State) : Host.Outcome State Fault Refusal :=
  .next (onChip s (fun c e => atStart c e q (fun o => !opDefined o) (fun x k => illegalStart c e q x k 0x01)))

def execNop (q : Nat) (s : State) : Host.Outcome State Fault Refusal :=
  .next (onChip s (fun c e => atStart c e q (only opNop) (fun x k => doneStart c e q x k stOk 0 none)))

def execTag (q : Nat) (s : State) : Host.Outcome State Fault Refusal :=
  .next (onChip s (fun c e => atStart c e q (only opTag) (fun x k => doneStart c e q x k stOk 0 none)))

def execQuery (q : Nat) (s : State) : Host.Outcome State Fault Refusal :=
  .next (onChip s (fun c e => atStart c e q (only opQuery) (queryStart c e q)))

def execLaunchProgram (q : Nat) (s : State) : Host.Outcome State Fault Refusal :=
  .next (onChip s (fun c e => atStart c e q (only opLaunch) (engineStart c e q)))

def execLaunchList (q : Nat) (s : State) : Host.Outcome State Fault Refusal :=
  .next (onChip s (fun c e => atStart c e q (only opList) (listStart c e q)))

def execReplayList (q : Nat) (s : State) : Host.Outcome State Fault Refusal :=
  .next (onChip s (fun c e => atStart c e q (only opReplayList) (listStart c e q)))

def execWaitHitch (q : Nat) (s : State) : Host.Outcome State Fault Refusal :=
  .next (onChip s (fun c e => atStart c e q (only opWait) (waitStart c e q)))

def execWaitSlotObtained (q : Nat) (s : State) : Host.Outcome State Fault Refusal :=
  .next (onChip s (fun c e => arbitrate (slotObtained c e q) e))

def execWaitTimeout (q : Nat) (s : State) : Host.Outcome State Fault Refusal :=
  .next (onChip s (fun c e => arbitrate (waitTimeout c e q) e))

def execSignalHitch (q : Nat) (s : State) : Host.Outcome State Fault Refusal :=
  .next (onChip s (fun c e => atStart c e q (only opSignal) (signalStart c e q)))

def execGroom (q : Nat) (s : State) : Host.Outcome State Fault Refusal :=
  .next (onChip s (fun c e => atStart c e q (only opGroom) (engineStart c e q)))

def execOutride (q : Nat) (s : State) : Host.Outcome State Fault Refusal :=
  .next (onChip s (fun c e => atStart c e q (only opOutride) (engineStart c e q)))

def execScalarOp (q : Nat) (s : State) : Host.Outcome State Fault Refusal :=
  .next (onChip s (fun c e => atStart c e q (only opScalar) (scalarStart c e q)))

def execReduceToScalar (q : Nat) (s : State) : Host.Outcome State Fault Refusal :=
  .next (onChip s (fun c e => atStart c e q (only opReduce) (fun x k =>
    if bits k.bits 66 64 == 6 then flagsStart c e q x k else engineStart c e q x k)))

def execBranch (q : Nat) (s : State) : Host.Outcome State Fault Refusal :=
  .next (onChip s (fun c e => atStart c e q (only opBranch) (branchStart c e q)))

def execLoopBegin (q : Nat) (s : State) : Host.Outcome State Fault Refusal :=
  .next (onChip s (fun c e => atStart c e q (only opLoopBegin) (loopBeginStart c e q)))

def execLoopEnd (q : Nat) (s : State) : Host.Outcome State Fault Refusal :=
  .next (onChip s (fun c e => atStart c e q (only opLoopEnd) (loopEndStart c e q)))

def execBeatMark (q : Nat) (s : State) : Host.Outcome State Fault Refusal :=
  .next (onChip s (fun c e => atStart c e q (only opBeatMark) (beatMarkStart c q)))

/-- 05 R167: OK whatever becomes of the trigger. -/
def execFreeze (q : Nat) (s : State) : Host.Outcome State Fault Refusal :=
  .next (onChip s (fun c e => atStart c e q (only opFreeze) (fun x k =>
    okStart c e q x k (fun c => triggerFreeze c e (c.gait + 50000) 3 (bit k.bits 64)))))

def execRetain (q : Nat) (s : State) : Host.Outcome State Fault Refusal :=
  .next (onChip s (fun c e => atStart c e q (only opRetain) (retainStart c e q)))

def execRelease (q : Nat) (s : State) : Host.Outcome State Fault Refusal :=
  .next (onChip s (fun c e => atStart c e q (only opRelease) (releaseStart c e q)))

def execDebugBreakOn (q : Nat) (s : State) : Host.Outcome State Fault Refusal :=
  .next (onChip s (fun c e => atStart c e q (only opBreakOn) (breakOnStart c e q)))

def execDebugBisect (q : Nat) (s : State) : Host.Outcome State Fault Refusal :=
  .next (onChip s (fun c e => atStart c e q (only opBisect) (bisectStart c e q)))

end Sys2Proof.Machine
end

