-- ==== Sys2Proof/Machine/Engines.lean ====
section
/-! DEFINITION. What engines, retirement and record rings do on their own: completion of engine commands (07 R236, 09 R301, 11 R355,
05 R172), retirement and commit (05 R155, 06 R219), records (04 R132 to R134), aging and preemption (06 R195 to R198), and the
ends of launches by exception or trap (07 R244 to R249). An event that is not enabled changes nothing (log 15). -/

namespace Sys2Proof.Machine

/-- The command (q, seq) while its attempt is on its engines and not discarded. -/
def attemptOf (c : Chip) (q seq : Nat) : Option Cmd :=
  match cmdOf c q seq with
  | some k => (match k.phase with | .running => some k | .stopping _ => some k | _ => none)
  | none => none

/-- How much of `n` an engine had done when an access was refused: open (10 R329, log 6). -/
def openCount (c : Chip) (n : Nat) : Nat × Chip := (Config.freeNat c.free % (n + 1), { c with free := c.free + 1 })

def progHandle (c : Chip) (k : Cmd) : Handle :=
  match k.job with
  | .launch prog _ _ _ _ _ _ _ _ _ => (match tget c.mems prog with | some m => m.handle | none => 0)
  | _ => 0

/-! ### Launches -/

/-- NUMERIC_TRAP (07 R244, 13 R387). -/
def trapEnd (c : Chip) (e : Env) (q : Nat) (k : Cmd) : Chip :=
  completeEngine c e q k stTrap 0 (some (faultInfo c 5 1 (progHandle c k) k.nflags.toNat 0 0))

def trapped (k : Cmd) : Bool :=
  match k.job with
  | .launch _ _ _ _ _ _ _ _ mask _ => k.nflags &&& mask != 0
  | _ => false

/-- 07 R246. -/
def spValid (image : List Byte) (sp : Nat) : Bool := sp % 16 == 0 && cStackLo image + 64 ≤ sp && sp ≤ cStackHi image

/-- The exception frame (07 R246). -/
def frameNat (h : Shadow) : Nat :=
  field h.cause 0 8 + field h.cluster 16 9 + field h.bodyOff.toNat 32 32 + field h.sp.toNat 64 32
    + field h.faultAddr.toNat 96 32 + field h.loops 128 4

/-- A halted core pushes its frame, or fills its fault-shadow register set (07 R246, R247). -/
def pushFrame (c : Chip) (k : Cmd) (l : Launch) (h : Shadow) : Chip × Cmd :=
  if spValid l.image h.sp.toNat then
    match (launchClusters c k.teams).find? (fun x => logicalOf k x.1 == h.cluster) with
    | some x => writeScratch c k (cCarried l.image) x.1 (h.sp.toNat - 64) (toLe 64 (frameNat h))
    | none => (c, k)
  else
    match physOf c h.cluster with
    | some p => ({ c with compute := { c.compute with shadows := tset c.compute.shadows p h } }, k)
    | none => (c, k)

/-- The launch ends by the exceptions of its cores, the first of them `h` (07 R248, 13 R387). -/
def exceptionEnd (c : Chip) (e : Env) (q : Nat) (k : Cmd) (l : Launch) (h : Shadow) (others : List Shadow) : Chip :=
  let ok := fun (x : Shadow) => spValid l.image x.sp.toNat
  let s := (h :: others).foldl (fun s x => pushFrame s.1 s.2 l x) (c, k)
  let f := faultInfo c 4 1 (progHandle c k) (field h.cause 0 8 + field h.cluster 16 9 + field h.bodyOff.toNat 32 32)
    (h.sp.toNat + (if ok h then 0 else pow2 32)) 0
  if (h :: others).all ok then completeEngine s.1 e q s.2 stProgram h.cause (some f)
  else completeEngine s.1 e q s.2 stDouble 0 (some f)

/-- After the run of a launch's body: a refused access or an exception ends it, and a raised flag of TRAP_MASK; else it goes on
with `f`. -/
def afterRun (e : Env) (q : Nat) (r : Chip × Cmd × Ran) (f : Chip → Cmd → Chip) : Chip :=
  match r.2.2, launchOf r.1 r.2.1 with
  | .hit h, _ => completeHit r.1 e q r.2.1 h
  | .halt x, some l => exceptionEnd r.1 e q r.2.1 l x []
  | .halt _, none => r.1
  | .ok, _ => if trapped r.2.1 then trapEnd r.1 e q r.2.1 else f r.1 r.2.1

/-- The lead cluster's values for the SLOT_OUT slots (07 R236). -/
def slotResults (c : Chip) (k : Cmd) (slotsOut : List Nat) (slotsIn : Tab W64) : Tab W64 :=
  let x := match launchClusters c k.teams with | (0, p) :: _ => clusterCore c p | _ => Core.reset
  slotsOut.map (fun s => (s, (tget x.slots s).getD ((tget slotsIn s).getD 0)))

def launchComplete (c : Chip) (e : Env) (q : Nat) (k : Cmd) (run : BodyRun) : Chip :=
  match k.job with
  | .launch _ _ _ _ _ slotsIn slotsOut _ _ _ =>
    afterRun e q (runBody c q k run) (fun c k => completeEngine c e q { k with scalarW := slotResults c k slotsOut slotsIn } stOk 0 none)
  | _ => c

/-- A trap stops every cluster at its next yield point or its end. -/
def launchTrap (c : Chip) (e : Env) (q : Nat) (k : Cmd) (run : BodyRun) : Chip :=
  match k.job with
  | .launch _ _ _ _ _ _ _ _ _ _ => afterRun e q (runBody c q k run) (fun c k => updCmd c q k.seq (fun _ => k))
  | _ => c

/-- The halts of one event, in the order of 07 R248. -/
def haltBefore (k : Cmd) (a b : CoreHalt) : Bool :=
  a.cycle < b.cycle || (a.cycle == b.cycle && logicalOf k a.cluster ≤ logicalOf k b.cluster)

def insertHalt (k : Cmd) (a : CoreHalt) : List CoreHalt → List CoreHalt
  | [] => [a]
  | b :: r => if haltBefore k a b then a :: b :: r else b :: insertHalt k a r

/-- What a core that meets a bad word records, if the word raises an exception there. -/
def haltShadow (c : Chip) (k : Cmd) (l : Launch) (h : CoreHalt) : Option Shadow :=
  match (launchClusters c k.teams).find? (fun x => x.1 == h.cluster) with
  | none => none
  | some x => (badCause l.image (clusterCore c x.2) h.word).map (fun p => shadowOf c k x.1 x.2 h.bodyOff p.1 p.2)

/-- Control cores meet words that no accepted container holds (07 R232, R245 to R248). -/
def coreHalts (c : Chip) (e : Env) (q : Nat) (k : Cmd) (halts : List CoreHalt) (run : BodyRun) : Chip :=
  let r := runBody c q k run
  match launchOf c k with
  | none => c
  | some l =>
    match (halts.foldr (insertHalt k) []).filterMap (haltShadow r.1 r.2.1 l) with
    | [] => c
    | h :: others =>
      match r.2.2 with
      | .hit x => completeHit r.1 e q r.2.1 x
      | .halt x => exceptionEnd r.1 e q r.2.1 l x []
      | .ok => exceptionEnd r.1 e q r.2.1 l h others

/-- A cluster of the launch has counted 131,072 cycles since its last yield point (07 R241). -/
def yieldExceeded (c : Chip) (e : Env) (q : Nat) (k : Cmd) (i : Nat) (off : W32) (run : BodyRun) : Chip :=
  let r := runBody c q k run
  match launchOf c k, (launchClusters r.1 k.teams).find? (fun x => x.1 == i), r.2.2 with
  | some l, some x, .ok =>
    if cycleNow r.1 < (clusterCore r.1 x.2).yieldAt + 131072 then c
    else exceptionEnd r.1 e q r.2.1 l (shadowOf r.1 r.2.1 i x.2 off 0x43 0) []
  | _, _, _ => c

/-! ### GROOM and REDUCE_TO_SCALAR -/

def poisonHit (c : Chip) (engine m l : Nat) : Hit :=
  { st := stBroken, det := 0x96,
    info := faultInfo c 0x16 engine (match tget c.mems m with | some o => o.handle | none => 0) (l * 64) 0 0, count := false }

/-- A poisoned line among the bytes at the given offsets of a half. -/
def poisonAmong (c : Chip) (engine : Nat) (r : DescRef) (offs : List Nat) : Option Hit :=
  match tget c.mems r.mem with
  | none => none
  | some o => (offs.findSome? (fun b => readPoison c (o.at r.half b) 1)).map (poisonHit c engine r.mem)

def windowHit (c : Chip) (t engine : Nat) (as : List Access) : Option Hit :=
  (refused c t engine as).map (fun f => { st := stWindow, det := 0, info := f, count := true })

/-- Offset of the first index outside its range. -/
def badIndex (c : Chip) (g : GroomArgs) (src dst ix : DescRef) : Nat :=
  let n := if g.gop == 1 then dSize src.img g.x else dSize dst.img g.x
  match (List.range (dSize ix.img 0)).find? (fun i => (resolveIdx 2 n (idxValue c ix i)).isNone) with
  | some i => elemByte ix.img [i]
  | none => 0

/-- How far work at position `lo` had come when an access before position `n` was refused: open, but nothing past a refused access
(`ok` tests the accesses up to a position) is written (10 R329, log 16). -/
def openUpTo (c : Chip) (lo n : Nat) (ok : Nat → Bool) : Nat × Chip :=
  let m := lo + Config.freeNat c.free % (n - lo + 1)
  (if ok m then m else lo, { c with free := c.free + 1 })

/-- GROOM_COMPLETE (09 R295 to R301). -/
def groomComplete (c : Chip) (e : Env) (q : Nat) (x : Queue) (k : Cmd) (src dst : DescRef) (idx : Option DescRef) : Chip :=
  let g := groomArgs k.bits
  let ms := groomMoves c g src dst idx
  let pre : Option Hit := if k.progress != 0 then none else match windowHit c x.owner 2 ((ofIdx idx).flatMap descAccess) with
    | some h => some h
    | none => (ofIdx idx).findSome? (fun r => poisonAmong c 6 r ((List.range (elemExtent r.img).2).map (fun i => (elemExtent r.img).1 + i)))
  match pre with
  | some h => completeHit c e q k h
  | none =>
    if k.progress == 0 && groomIndexFault c g src dst idx then
      let ix := idx.getD src
      let f := windowInfo c 2 (match tget c.mems ix.mem with | some o => o.handle | none => 0) (badIndex c g src dst ix) 4 5
      completeEngine c e q k stWindow 0 (some f)
    else
      let hit := match windowHit c x.owner 2 ([src, dst].flatMap descAccess) with
        | some h => some h
        | none => poisonAmong c 6 src (sourceBytes src (ms.drop k.progress))
      match hit with
      | some h =>
        let n := openUpTo c k.progress ms.length (groomOk c k src dst idx)
        let r := groomWork n.2 q k src dst idx n.1
        completeHit r.1 e q r.2 h
      | none =>
        let r := groomWork c q k src dst idx ms.length
        completeEngine r.1 e q r.2 stOk 0 none

/-- REDUCE_COMPLETE (05 R172): the fold goes on from its position to the last element (06 R198). A poisoned SRC is recorded with
ENGINE 3 (06 R193). The bytes that it reads count in OUTRIDER_BYTES (the model's choice, log 21). -/
def reduceComplete (c : Chip) (e : Env) (q : Nat) (x : Queue) (k : Cmd) (src : DescRef) : Chip :=
  let n := elemCount src.img
  let bs := ((((indices src.img).take n).drop k.progress).flatMap (elemBytesAt src)).eraseDups
  match (match windowHit c x.owner 3 (descAccess src) with | some h => some h | none => poisonAmong c 3 src bs) with
  | some h => completeHit c e q k h
  | none =>
    let r := reduceWork c q k src n
    let v := foldResult (bits k.bits 66 64) (etypeIsFloat (dEtype src.img)) r.2.fold
    completeEngine r.1 e q { r.2 with scalarW := [(bits k.bits 79 72, v.1)], nflags := v.2 } stOk 0 none

/-! ### OUTRIDE (11 R350 to R355) -/

/-- An OUTRIDE does what is left of its work on this chip, then `f`. -/
def outrideMove (c : Chip) (e : Env) (q : Nat) (k : Cmd) (sm sh dm dh : Nat) (host reply : List Byte)
    (parts : List Contribution) (f : Chip → Cmd → Chip) : Chip :=
  let w := carry c e.place (outrideArgs k) sm sh dm dh host reply parts
  let hit := match (onThis w.reads).findSome? (fun a => readHit c k.owner 3 (a.slice k.progress a.len)) with
    | some h => some h
    | none => (onThis w.writes).findSome? (fun a => writeHit c k.owner 3 (a.slice k.progress a.len))
  match hit with
  | some h =>
    let n := openUpTo c k.progress w.moved (outrideOk c k w)
    let r := outrideWork n.2 e q k w n.1
    completeHit r.1 e q r.2 h
  | none =>
    if hostHeld c k w w.moved then c else
    let r := outrideWork c e q { k with nflags := w.flags } w w.moved
    f r.1 r.2

/-- The work ends with the command. -/
def outrideComplete (c : Chip) (e : Env) (q : Nat) (k : Cmd) (sm sh dm dh : Nat) (host reply : List Byte)
    (parts : List Contribution) : Chip :=
  outrideMove c e q k sm sh dm dh host reply parts (fun c k => completeEngine c e q k stOk 0 none)

/-- A remote OUTRIDE whose target has answered (11 R350, R351). -/
def outrideReply (c : Chip) (e : Env) (q : Nat) (k : Cmd) (sm sh dm dh : Nat) (host : List Byte) (r : RemoteReply) : Chip :=
  let a := outrideArgs k
  let tok := if a.srcRemote then a.src else a.dst
  match r with
  | .none => c
  | .done d =>
    if remoteRead k then outrideComplete c e q k sm sh dm dh host d [] else completeEngine c e q k stOk 0 none
  | .faultHandle => completeEngine c e q k stHandle 0 (some (faultInfo c 2 4 tok 0 0 0))
  | .faultWindow w =>
    completeEngine (countWin c k.owner) e q k stWindow 0
      (some (windowInfo c 3 tok (if a.srcRemote then a.srcOff else a.dstOff) a.len w))
  | .poisoned l => completeEngine c e q k stBroken 0x96 (some (faultInfo c 0x16 6 tok l 0 0))
  | .degraded => completeEngine c e q k stDegraded 0 none
  | .retry => updCmd c q k.seq (fun k => { k with remote := some (true, c.clock + 10000) })

/-- The contributions that a member needs have arrived whole: every other member's at a GATHER or REDUCE root, the root's at a BROADCAST
member (11 R353). -/
def partsIn (a : OutrideArgs) (p : Place) (parts : List Contribution) : Bool :=
  (if a.oop == 2 then [a.rootRank] else List.range (a.h * a.w)).all (fun r =>
    r == a.rank p || parts.any (fun c => c.rank == r && c.data.length == a.len))

/-- Every other member has acknowledged its DST written (11 R355). -/
def allAcked (a : OutrideArgs) (p : Place) (parts : List Contribution) : Bool :=
  (List.range (a.h * a.w)).all (fun r => r == a.rank p || parts.any (fun c => c.rank == r))

/-- A collective command is refused or put off by the root's chip (11 R351). -/
def memberReply (c : Chip) (e : Env) (q : Nat) (k : Cmd) (r : RemoteReply) : Chip :=
  match r with
  | .degraded => if k.phase == .collective then completeJob c e q k stDegraded 0 none else completeEngine c e q k stDegraded 0 none
  | .retry => updCmd c q k.seq (fun k => { k with remote := some (true, c.clock + 10000) })
  | _ => c

/-- A member that has its engines (11 R353, R355): a BROADCAST root and a GATHER or REDUCE member read and send, then complete with
the acknowledgements; the others complete with the bytes they need, and acknowledge them. -/
def memberEnd (c : Chip) (e : Env) (q : Nat) (k : Cmd) (sm sh dm dh : Nat) (host : List Byte) (reply : RemoteReply)
    (parts : List Contribution) : Chip :=
  let a := outrideArgs k
  if reply == .degraded || reply == .retry then memberReply c e q k reply
  else if (dataDests e k).isEmpty then
    if !partsIn a e.place parts then c else
    outrideMove c e q k sm sh dm dh host [] parts (fun c k =>
      completeEngine (sendEach c e q k 1 (if a.oop == 2 then [16 * a.rootRow + a.rootCol] else a.others e.place)
        (fun p d => .collectiveAck p d (mySlice e) (memberStart e k))) e q k stOk 0 none)
  else match k.remote with
    | none => outrideMove c e q k sm sh dm dh host [] [] (fun c k => let r := sendData c e q k; updCmd r.1 q k.seq (fun _ => r.2))
    | some (false, _) =>
      if (if a.oop == 2 then allAcked a e.place parts else reply == .done []) then completeEngine c e q k stOk 0 none else c
    | some (true, _) => c

/-- A reply for a command that a reset has ended is absorbed and counted (13 R407). -/
def absorb (c : Chip) (r : RemoteReply) : Chip := if r == .none then c else cntFix c 12 1

/-- OUTRIDE_COMPLETE (11 R355): the engine has read what leaves for another chip and sends it, or what the command waits for has come. -/
def outrideEnd (c : Chip) (e : Env) (q : Nat) (k : Cmd) (host : List Byte) (reply : RemoteReply) (parts : List Contribution) : Chip :=
  match k.job with
  | .outride sm sh dm dh =>
    if isCollective (outrideArgs k) then memberEnd c e q k sm sh dm dh host reply parts
    else if remoteRead k || remoteWrite k then
      (match k.remote with
       | some (false, _) => outrideReply c e q k sm sh dm dh host reply
       | some (true, _) => c
       | none => outrideMove c e q k sm sh dm dh host [] [] (fun c k => let r := sendData c e q k; updCmd r.1 q k.seq (fun _ => r.2)))
    else outrideComplete c e q k sm sh dm dh host [] parts
  | _ => c

/-! ### Preemption -/

/-- The command gives its engines up and waits for engines again (06 R198). -/
def preempt (c : Chip) (q : Nat) (k : Cmd) : Chip :=
  let c := cntCmd (cntFix c 6 1) q k k.ctx 13 1023 1
  let k := { k with accrued := ((cmdOf c q k.seq).getD k).accrued }
  let s := suspend c q k
  updCmd s.1 q k.seq (fun j => { j with phase := .preempted c.clock false })

/-- The command reaches its preemption point (06 R198, 13 R410): what it had done until then has landed, and it keeps its position
and its partial result. -/
def preemptionPoint (c : Chip) (e : Env) (q : Nat) (k : Cmd) (stop : Stop) : Chip :=
  match k.phase with
  | .stopping .degraded =>
    let p := partialWork c e q k stop
    completeEngine p.1 e q p.2 stDegraded 0 none
  | .stopping .preempt =>
    match k.job with
    | .launch _ _ _ scratch _ _ _ _ _ _ =>
      afterRun e q (runBody c q k stop.run) (fun c k =>
        preempt c q { k with saved := saveScratch c scratch k.teams, cores := saveCores c k.teams })
    | _ => let p := partialWork c e q k stop; preempt p.1 q p.2
  | _ => c

/-- A command that waits in phase `preempted` takes its engines (06 R198, 10 R320; a matched collective member, 11 R352). -/
def resumeCmd (c : Chip) (e : Env) (q : Nat) (x : Queue) (k : Cmd) : Chip :=
  if !mayResume c e q k.seq || remoteDown e k then c else
  let n := needOf c k
  let first := k.engineClock.isNone
  let c := if first then cntCmd c q k x.ctx 11 1023 (c.clock - k.startClock) else c
  let k := { k with accrued := ((cmdOf c q k.seq).getD k).accrued }
  let r := takeEngines c q k n.1 n.2
  let r := sendRemote r.1 e q r.2
  let c := match k.job with
    | .launch _ _ carried _ _ _ _ _ _ _ => putCores (resumeScratch r.1 carried r.2.teams k.saved) r.2.teams k.cores
    | _ => r.1
  updCmd c q k.seq (fun _ => { r.2 with saved := [], cores := [] })

/-- Aging (06 R195). -/
def ageCmd (c : Chip) (q seq : Nat) : Chip :=
  match tget c.queues q, cmdOf c q seq with
  | some x, some k =>
    match k.phase with
    | .wantResource since _ =>
      if 2 ≤ clsRank (queueCls c x) && since + 250000000 ≤ c.clock then updCmd c q seq (fun k => { k with phase := .wantResource since true })
      else c
    | _ => c
  | _, _ => c

/-! ### The rows -/

/-- An event on the attempt of (q, seq), then arbitration. -/
def onAttempt (s : State) (q seq : Nat) (f : Chip → Env → Queue → Cmd → Chip) : State :=
  onChip s (fun c e =>
    match tget c.queues q, attemptOf c q seq with
    | some x, some k => arbitrate (f c e x k) e
    | _, _ => c)

def execLaunchComplete (q seq : Nat) (run : BodyRun) (s : State) : Host.Outcome State Fault Refusal :=
  .next (onAttempt s q seq (fun c e _ k => launchComplete c e q k run))

def execGroomComplete (q seq : Nat) (s : State) : Host.Outcome State Fault Refusal :=
  .next (onAttempt s q seq (fun c e x k => match k.job with | .groom src dst idx => groomComplete c e q x k src dst idx | _ => c))

def execOutrideComplete (q seq : Nat) (hostData : List Byte) (reply : RemoteReply) (parts : List Contribution) (s : State) :
    Host.Outcome State Fault Refusal :=
  .next (onChip s (fun c e =>
    match cmdOf c q seq with
    | some k =>
      if k.onEngine then arbitrate (outrideEnd c e q k hostData reply parts) e
      else if k.phase == .collective then arbitrate (memberReply c e q k reply) e else c
    | none => absorb c reply))

def execReduceComplete (q seq : Nat) (s : State) : Host.Outcome State Fault Refusal :=
  .next (onAttempt s q seq (fun c e x k => match k.job with | .reduce src => reduceComplete c e q x k src | _ => c))

def execCommandRetire (q : Nat) (s : State) : Host.Outcome State Fault Refusal :=
  .next (onChip s (fun c e => arbitrate (retireHead c e q) e))

def execCommitPoint (q : Nat) (s : State) : Host.Outcome State Fault Refusal :=
  .next (onChip s (fun c e => arbitrate (commitSeg c e q) e))

def execDiscardedWorkStop (stop : Stop) (s : State) : Host.Outcome State Fault Refusal :=
  .next (onChip s (fun c e =>
    match c.ghosts.find? (fun g => g.q == stop.q && g.cmd.seq == stop.seq) with
    | some g => arbitrate (endGhost c e g stop) e
    | none => c))

def execRecordHeldWrite (q : Nat) (s : State) : Host.Outcome State Fault Refusal := .next (onChip s (fun c _ => writeOwed c q))

/-- A full ring's CONS is reread (04 R132); the global queue's CONS is a register. -/
def rereadRing (c : Chip) (r : RingId) : Chip :=
  match r with
  | .completion q => (match tget c.queues q with | some x => if cqRoom x then c else refreshCq c q | none => c)
  | .notice t => modTenant c t (fun x => { x with noticeRing := x.noticeRing.map (fun r => r.refresh c) })
  | .error t => modTenant c t (fun x => { x with errorRing := x.errorRing.map (fun r => r.refresh c) })
  | .trace t => modTenant c t (fun x => { x with traceRing := x.traceRing.map (fun r => r.refresh c) })
  | .global => c

def execConsReread (ring : RingId) (s : State) : Host.Outcome State Fault Refusal := .next (onChip s (fun c _ => rereadRing c ring))

def execNoticePost (tenant : Nat) (s : State) : Host.Outcome State Fault Refusal :=
  .next (onChip s (fun c e => if (tenantOf c tenant).held.isEmpty then c else checkpoint (postNotices c tenant) e))

def execCommandAged (q seq : Nat) (s : State) : Host.Outcome State Fault Refusal :=
  .next (onChip s (fun c e => arbitrate (ageCmd c q seq) e))

def execPreemptionPoint (stop : Stop) (s : State) : Host.Outcome State Fault Refusal :=
  .next (onAttempt s stop.q stop.seq (fun c e _ k => preemptionPoint c e stop.q k stop))

def execPreemptedResume (q seq : Nat) (s : State) : Host.Outcome State Fault Refusal :=
  .next (onChip s (fun c e =>
    match tget c.queues q, cmdOf c q seq with
    | some x, some k => (match k.phase with | .preempted _ _ => arbitrate (resumeCmd c e q x k) e | _ => c)
    | _, _ => c))

def execControlCoreException (q seq : Nat) (halts : List CoreHalt) (run : BodyRun) (s : State) : Host.Outcome State Fault Refusal :=
  .next (onAttempt s q seq (fun c e _ k => coreHalts c e q k halts run))

def execYieldSpacingExceeded (q seq : Nat) (late : LateYield) (run : BodyRun) (s : State) : Host.Outcome State Fault Refusal :=
  .next (onAttempt s q seq (fun c e _ k => yieldExceeded c e q k late.cluster late.bodyOff run))

def execTrapRaised (q seq : Nat) (run : BodyRun) (s : State) : Host.Outcome State Fault Refusal :=
  .next (onAttempt s q seq (fun c e _ k => launchTrap c e q k run))

end Sys2Proof.Machine
end

