-- ==== Sys2Proof/Machine/Faults.lean ====
section
/-! DEFINITION. Recoverable faults and replay (13 R393 to R398), failing clusters and spares (14 R440 to R442), memory errors,
channels and repair (10 R307 to R309, R323 to R326), and the background filler (10 R315). -/

namespace Sys2Proof.Machine

/-! ### The replay boundary -/

def recNum : RecClass → Nat
  | .cluster => 0x10
  | .scratchUe => 0x11
  | .stagingUe => 0x12
  | .link => 0x13
  | .firmware => 0x14
  | .resetHit => 0x15

/-- ENGINE of 13 R386 on which a command of this opcode runs. -/
def engineNo (k : Cmd) : Nat := if isLaunch k then 1 else if k.opcode == opGroom then 2 else 3

def recEngine (r : RecClass) (k : Cmd) : Nat :=
  match r with
  | .cluster => 1
  | .scratchUe => 1
  | .stagingUe => if k.opcode == opGroom then 2 else 3
  | .link => 5
  | .firmware => 7
  | .resetHit => engineNo k

/-- A LINK fault whose partner was stopped by a reset (13 R384 DETAIL 0x97). -/
def partnerReset (f : FaultInfo) : Bool := f.cls == 0x13 && bit f.p0.toNat 16

/-- Farrier decides the replay of a stopped attempt (13 R394, R397). -/
def decideReplay (c : Chip) (e : Env) (q : Nat) (k : Cmd) : Chip :=
  match k.fault with
  | none => c
  | some f =>
    match replayWhy c k with
    | some w => replayRefused c e q k f w
    | none =>
      let c := if k.spec.isNone then postError c (replayRecord c q k f false) else c
      updCmd c q k.seq (fun _ => { k with phase := .wantReplay,
                                          heldReplays := if k.spec.isNone then k.heldReplays else k.heldReplays ++ [f] })

/-- A recoverable fault f ends the attempt (13 R393); in a scheduling gap the decision waits (14 R439). -/
def strike (c : Chip) (e : Env) (q : Nat) (k : Cmd) (f : FaultInfo) (lost published : Bool) : Chip :=
  let r := endAttempt c q k (movedBytes k) false
  let k := { r.2 with nflags := 0, cores := [], remote := none, wire := [], trig := none, saved := [], fault := some f, progress := 0,
                      fold := Fold.start,
                      carriedLost := r.2.carriedLost || lost, published := r.2.published || published }
  let c := updCmd r.1 q k.seq (fun _ => k)
  if partnerReset f then
    completeJob (stampEnd c k stBroken) e q k stBroken 0x97 (some f)
  else if e.gap then updCmd c q k.seq (fun k => { k with phase := .undecided })
  else decideReplay c e q k

/-- Whether a fault finds an attempt: on engines, or preempted; a matched collective also while it waits for its partners. -/
def struck (k : Cmd) (partner : Bool) : Bool :=
  match k.phase with
  | .running => true
  | .stopping _ => true
  | .preempted _ _ => true
  | .collective => partner
  | _ => false

/-- The attempt is stopped at `stop` by fault f. -/
def hitFault (c : Chip) (e : Env) (q : Nat) (k : Cmd) (stop : Stop) (f : FaultInfo) (lost published : Bool) : Chip :=
  if !struck k (partnerReset f) then c else
  let p := partialWork c e q k stop
  strike p.1 e q p.2 f lost published

/-- Every decision that a scheduling gap held up (14 R439). -/
def decideHeld (c : Chip) (e : Env) : Chip :=
  c.queues.foldl (fun c p => eachCmd c p.1 (fun k => k.phase == .undecided) (fun c k => decideReplay c e p.1 k)) c

/-- REPLAY_START (13 R396): the boundary is checked again; logged lines are restored and the attempt runs anew. -/
def replayStart (c : Chip) (e : Env) (q : Nat) (x : Queue) (k : Cmd) : Chip :=
  if k.phase != .wantReplay || !mayResume c e q k.seq then c else
  match replayWhy c k with
  | some w => (match k.fault with | some f => replayRefused c e q k f w | none => c)
  | none =>
    let c := cntCmd (cntCmdFix c q k 8 1) q k x.ctx 14 1023 1
    let k := { k with accrued := ((cmdOf c q k.seq).getD k).accrued, replays := k.replays + 1, wroteInput := false, scalarW := [],
                      engineClock := none, fault := none }
    let n := needOf c k
    let r := takeEngines c q k n.1 n.2
    let r := sendRemote r.1 e q r.2
    let c := match k.job with
      | .launch _ _ carried _ _ _ _ _ _ _ => seedCores (putLines (startScratch r.1 x.ctx carried r.2.teams) r.2.teams k.undo) r.2
      | _ => r.1
    updCmd c q k.seq (fun _ => { r.2 with undo := [] })

/-! ### Clusters and spares -/

/-- The command that holds team t. -/
def holderOf (c : Chip) (t : Nat) : Option (Nat × Cmd) :=
  (tget c.compute.holders t).bind (fun h => (cmdOf c h.1 h.2).map (fun k => (h.1, k)))

/-- A carried line of physical cluster p was written and the undo log does not hold it (10 R322). -/
def unloggedLine (c : Chip) (k : Cmd) (teams : List Nat) (p lo hi : Nat) : Bool :=
  match k.job with
  | .launch _ _ carried _ _ _ _ _ _ _ =>
    match (launchClusters c teams).find? (fun x => x.2 == p) with
    | some x => c.memory.written.any (fun l =>
        p * 24576 + lo ≤ l && l < p * 24576 + min hi (carried / 64) && !k.undo.any (fun u => u.cluster == x.1 && u.line == l - p * 24576))
    | none => false
  | _ => false

/-- Commands that wait for replay and whose carried lines lie in the lost lines [lo, hi) of cluster l. -/
def noteLost (c : Chip) (l p lo hi : Nat) : Chip :=
  c.queues.foldl (fun c w => eachCmd c w.1 (fun k => k.phase == .wantReplay || k.phase == .undecided) (fun c k =>
    let mine := k.heldBy.zipIdx.any (fun t => t.1 == l / 8 && tget c.compute.tags t.1 == some (w.2.ctx, t.2))
    if mine && unloggedLine c k k.heldBy p lo hi then updCmd c w.1 k.seq (fun k => { k with carriedLost := true }) else c)) c

def setPhys (c : Chip) (p : Nat) (v : ClState × Option Nat) : Chip :=
  { c with compute := { c.compute with phys := tset c.compute.phys p v } }

def freeSpares (c : Chip) : List Nat := (c.compute.phys.filter (fun p => p.2.1 == .spare)).map (fun p => p.1)

/-- A free spare is left for one more draining cluster. -/
def spareLeft (c : Chip) : Bool := c.compute.draining.length < (freeSpares c).length

/-- Grid distance (14 R441). -/
def gridDist (a b : Nat) : Nat :=
  (max (a / 16) (b / 16) - min (a / 16) (b / 16)) + (max (a % 16) (b % 16) - min (a % 16) (b % 16))

/-- The nearest free spare, lowest physical index among equals. -/
def nearestSpare (c : Chip) (p : Nat) : Option Nat :=
  (freeSpares c).foldl (fun b s =>
    match b with | none => some s | some a => if gridDist p s < gridDist p a then some s else some a) none

def undrain (c : Chip) (l : Nat) : Chip :=
  { c with compute := { c.compute with draining := removeNat c.compute.draining l, readable := removeNat c.compute.readable l } }

/-- A cluster fails and no spare takes its number (01 R30, 13 R409). -/
def loseCluster (c : Chip) (e : Env) (l p : Nat) : Chip := walkEntry (checkpoint (raiseGen (setPhys (dropLines (undrain c l) p 0) p (.failed, none))) e) e 2

/-- The start of a drain (14 R440): the team is not free, and a launch on it gives it up at its next preemption point. -/
def drainCluster (c : Chip) (e : Env) (l p : Nat) (readable : Bool) : Chip :=
  if !spareLeft c then loseCluster c e l p else
  let c := { c with compute := { c.compute with draining := insertNat c.compute.draining l,
                                                readable := if readable then insertNat c.compute.readable l else c.compute.readable } }
  match holderOf c (l / 8) with
  | some (q, k) => if k.phase == .running then updCmd c q k.seq (fun k => { k with phase := .stopping .preempt }) else c
  | none => c

/-- A fault of class `cls` strikes the launch that holds logical cluster l, of physical index p. -/
def strikeCluster (c : Chip) (e : Env) (l p : Nat) (f : FaultInfo) (readable : Bool) (run : BodyRun) : Chip :=
  let c := match holderOf c (l / 8) with
    | some (q, k) =>
      if struck k false then
        let w := partialWork c e q k { stopFor [] q k.seq with run := run }
        strike w.1 e q w.2 f (!readable && unloggedLine w.1 w.2 w.2.teams p 0 24576) false
      else c
    | none => c
  if readable then c else dropLines (noteLost c l p 0 24576) p 0

/-- CLUSTER_FAULT: a cluster fails its hardware checks or stops answering (13 R383, 14 R440). -/
def failCluster (c : Chip) (e : Env) (l : Nat) (readable : Bool) (run : BodyRun) : Chip :=
  match physOf c l with
  | none => c
  | some p =>
    if c.compute.draining.contains l then c else
    let c := strikeCluster c e l p (faultInfo c 0x10 1 0 (l + field p 16 9) 0 0) readable run
    arbitrate (drainCluster c e l p readable) e

/-- Spares that fail their self-test are marked failed until one passes (14 R441). -/
def passingSpare : Nat → Chip → Nat → List Nat → Option Nat × Chip
  | 0, c, _, _ => (none, c)
  | n + 1, c, p, bad =>
    match nearestSpare c p with
    | none => (none, c)
    | some s => if bad.contains s then passingSpare n (setPhys c s (.failed, none)) p bad else (some s, c)

/-- The lines of a cluster go to a spare (10 R321). -/
def copyScratch (c : Chip) (p s : Nat) : Chip :=
  ((c.memory.written.filter (fun l => p * 24576 ≤ l && l < (p + 1) * 24576)).map (fun l => l - p * 24576)).foldl
    (fun c l => setLine c s l (lineBytes c p l)) (dropLines c s 0)

/-- MAP_IN_COMPLETE (14 R442). -/
def mapIn (c : Chip) (e : Env) (l : Nat) (bad : List Nat) : Chip :=
  if e.gap || !c.compute.draining.contains l || (tget c.compute.holders (l / 8)).isSome then c else
  match physOf c l with
  | none => c
  | some p =>
    let r := passingSpare 17 c p bad
    match r.1 with
    | none => arbitrate (loseCluster r.2 e l p) e
    | some s =>
      let c := if c.compute.readable.contains l then copyScratch r.2 p s else dropLines r.2 s 0
      let c := setPhys (setPhys (dropLines c p 0) p (.failed, none)) s (.enabled, some l)
      arbitrate (checkpoint (postRepair (raiseGen (undrain c l)) 5 (l + field p 16 9 + field s 32 9)) e) e

/-! ### Channels and repair -/

def day : Nat := 86400000000000

/-- A channel is retired (10 R307, R309). -/
def retireChannel (c : Chip) (e : Env) (s ch : Nat) : Chip :=
  let x := stackState c s
  if x.dead.contains ch || (tget x.migrating ch).isSome then c else
  match x.spareFree with
  | i :: r => checkpoint (raiseGen (setStack c s { x with spareFree := r, migrating := tset x.migrating ch i })) e
  | [] => walkEntry (checkpoint (raiseGen (setStack c s { x with dead := insertNat x.dead ch })) e) e 3

/-- The location index of a record, whose numbering the spec does not state (13 R387, log 17). -/
def locIndex (c : Chip) : Nat × Chip := (Config.freeNat c.free, { c with free := c.free + 1 })

/-- A REPAIR record of a kind whose location index is open. -/
def postRepairAt (c : Chip) (kind : Nat) : Chip := let n := locIndex c; postRepair n.2 kind n.1

/-- CHANNEL_MIGRATION_DONE (10 R308). -/
def migrationDone (c : Chip) (e : Env) (s ch : Nat) : Chip :=
  let x := stackState c s
  match tget x.migrating ch with
  | none => c
  | some i =>
    checkpoint (postRepairAt (raiseGen (setStack c s { x with migrating := terase x.migrating ch, retired := tset x.retired ch i })) 4) e

/-- A channel that stops answering (10 R307, R308): nothing more can be read from it. -/
def channelStops (c : Chip) (e : Env) (s ch : Nat) : Chip :=
  if 8 ≤ s || 32 ≤ ch then c else
  let x := stackState c s
  arbitrate (retireChannel (setStack c s { x with lost := tset x.lost ch [] }) e s ch) e

/-- A row is repaired (10 R326, R307); a channel whose repaired rows reach 64 is retired. -/
def repairRow (c : Chip) (e : Env) (s ch : Nat) : Chip :=
  let n := (tget c.memory.rowRepairs (32 * s + ch)).getD 0 + 1
  let c := postRepairAt { c with memory := { c.memory with rowRepairs := tset c.memory.rowRepairs (32 * s + ch) n } } 3
  if 64 ≤ n then retireChannel c e s ch else c

/-- Numbers of the rows and columns that an error counts for: one HBM row, or a row and a column of an SRAM bank. A scratch bank is
that of the physical cluster. -/
def ceKeys (c : Chip) : CeLoc → List Nat
  | .hbm s ch row => [8 * ((32 * s + ch) + 256 * row)]
  | .scratch l b row col =>
    let p := (physOf c l).getD 0
    [8 * (p + 336 * (b + 65536 * row)) + 1, 8 * (p + 336 * (b + 65536 * col)) + 2]
  | .staging b row col => [8 * (b + 65536 * row) + 3, 8 * (b + 65536 * col) + 4]
  | .control b row col => [8 * (b + 65536 * row) + 5, 8 * (b + 65536 * col) + 6]

/-- A bank or channel with nothing left for repair is retired (10 R326, 13 R409). -/
def noSpareLeft (c : Chip) (e : Env) (loc : CeLoc) : Chip :=
  match loc with
  | .hbm s ch _ => retireChannel c e s ch
  | .scratch l _ _ _ =>
    match physOf c l with
    | some p => if c.compute.draining.contains l then c else drainCluster c e l p true
    | none => c
  | .staging _ _ _ => walkEntry c e 4
  | .control _ _ _ => walkEntry c e 4

def repairLoc (c : Chip) (e : Env) (loc : CeLoc) : Chip :=
  match loc with
  | .hbm s ch _ => repairRow c e s ch
  | _ => postRepairAt c 2

/-- CORRECTABLE_ERROR (10 R323, R326): counted; the third in one row or column within 24 hours repairs it. -/
def correctable (c : Chip) (e : Env) (loc : CeLoc) (noSpare : Bool) : Chip :=
  let ok := match loc with | .hbm s ch _ => s < 8 && ch < 32 | .scratch l _ _ _ => (physOf c l).isSome | _ => true
  if c.dev == .off || !ok then c else
  let c := match loc with | .hbm s _ _ => cntFix c (80 + s) 1 | _ => cntFix c 96 1
  let keys := ceKeys c loc
  let log := keys.map (fun n => (n, c.clock)) ++ c.memory.ceLog.filter (fun p => c.clock < p.2 + day)
  let c := checkpoint { c with memory := { c.memory with ceLog := log } } e
  let full := keys.filter (fun n => 3 ≤ log.countP (fun p => p.1 == n))
  if full.isEmpty then c else
  let c := { c with memory := { c.memory with ceLog := log.filter (fun p => !full.contains p.1) } }
  arbitrate (checkpoint (if noSpare then noSpareLeft c e loc else repairLoc c e loc) e) e

/-! ### Uncorrectable errors (10 R323, R324) -/

/-- An uncorrectable error counts towards its channel's retirement. -/
def countUe (c : Chip) (e : Env) (s ch : Nat) : Chip :=
  let log := (32 * s + ch, c.clock) :: c.memory.ueLog.filter (fun p => c.clock < p.2 + day)
  let full := 4 ≤ log.countP (fun p => p.1 == 32 * s + ch)
  let c := checkpoint { c with memory := { c.memory with ueLog := if full then log.filter (fun p => p.1 != 32 * s + ch) else log } } e
  if full then retireChannel c e s ch else c

/-- A line of the device address space is poisoned, and recorded at its first detection. -/
def poisonHbm (c : Chip) (e : Env) (addr loc : Nat) : Chip :=
  let line := addr / 64
  if linePoisoned c line then detectPoison c line loc else
  let c := { c with memory := { c.memory with poison := insertNat c.memory.poison line } }
  countUe (detectPoison (cntFix c (88 + stackOf (line * 64)) 1) line loc) e (stackOf (line * 64)) (channelOf (line * 64))

/-- A POISON record with an open location index. -/
def postPoison (c : Chip) (tenant : Option Nat) (object : W32) (loc : Nat) : Chip :=
  let n := locIndex c
  postError n.2 { cls := 0x20, tenant := tenant, engine := 6, object := object, p0 := BitVec.ofNat 64 n.1, p1 := BitVec.ofNat 64 loc }

/-- A poisoned line of the private region: which stack and channel hold it is open (10 R310). -/
def poisonPrivate (c : Chip) (e : Env) (tenant : Option Nat) (object : W32) : Chip :=
  let s := Config.freeNat c.free % 8
  let ch := Config.freeNat (c.free + 1) % 32
  countUe (postPoison (cntFix { c with free := c.free + 2 } (88 + s) 1) tenant object 1) e s ch

/-- A poisoned word of SRAM. -/
def poisonSram (c : Chip) (loc : Nat) : Chip := postPoison (cntFix c 97 1) none 0 loc

/-- A poisoned place of staging or Farrier's data that stays poisoned until it is scrubbed or its core restarts: recorded at its
first detection only (10 R323). -/
def poisonKept (c : Chip) (key loc : Nat) : Chip :=
  if c.memory.sramBad.contains key then c else
  poisonSram { c with memory := { c.memory with sramBad := insertNat c.memory.sramBad key } } loc

/-- The reading command's attempt fails with HBM_UE (13 R384). -/
def hbmFault (c : Chip) (e : Env) (hit : Option Stop) (object : W32) (p0 loc : Nat) : Chip :=
  match hit with
  | none => c
  | some s =>
    match attemptOf c s.q s.seq with
    | none => c
    | some k =>
      let w := partialWork c e s.q k s
      completeEngine w.1 e s.q w.2 stBroken 0x96 (some (faultInfo c 0x16 6 object p0 loc 0))

/-- An uncorrectable scratch word (10 R324). -/
def scratchUe (c : Chip) (e : Env) (l off : Nat) (stops : List Stop) : Chip :=
  match physOf c l with
  | none => c
  | some p =>
    let line := off / 64
    match holderOf c (l / 8) with
    | some (q, k) =>
      let carried := match k.job with | .launch _ _ carried _ _ _ _ _ _ _ => carried | _ => 0
      let c := poisonSram c (if off < carried then 3 else 2)
      if !struck k false then dropLine c p line else
      let w := partialWork c e q k (stopFor stops q k.seq)
      let lost := unloggedLine w.1 w.2 w.2.teams p line (line + 1)
      let f := faultInfo c 0x11 1 0 (l + field p 16 9 + field off 32 32) 0 0
      strike (dropLine w.1 p line) e q w.2 f lost false
    | none => dropLine (noteLost (poisonSram c 2) l p line (line + 1)) p line

/-- An uncorrectable error in a staging partition (10 R324): the command that uses it. -/
def stagingUe (c : Chip) (e : Env) (part : Nat) (hit : Option Stop) : Chip :=
  let c := poisonKept c part 4
  let who : Option (Nat × Nat) := if part < 4 then tget c.compute.groom part else if part < 12 then tget c.compute.outrider (part - 4)
    else hit.map (fun s => (s.q, s.seq))
  match who with
  | none => c
  | some (q, seq) =>
    match cmdOf c q seq with
    | some k => hitFault (scrubStaging c part) e q k (stopFor hit.toList q seq) (faultInfo c 0x12 (recEngine .stagingUe k) 0 part 0 0) false false
    | none => c

def poisonImage (c : Chip) (e : Env) (m line : Nat) (hit : Option Stop) : Chip :=
  match tget c.mems m with
  | none => c
  | some o =>
    match o.image with
    | none => c
    | some im =>
      let c := if im.poisoned.contains line then c else
        poisonPrivate (modMem c m (fun o => { o with image := some { im with poisoned := insertNat im.poisoned line } })) e (some o.owner) o.handle
      hbmFault c e hit o.handle line 1

def poisonDesc (c : Chip) (e : Env) (t i : Nat) (hit : Option Stop) : Chip :=
  let d := (tenantOf c t).descs
  let c := if d.poisoned.contains i || (tget d.pages (i / 1024)).isNone then c else
    poisonPrivate (modTenant c t (fun x => { x with descs := { x.descs with poisoned := insertNat x.descs.poisoned i } })) e (some t) 0
  hbmFault c e hit 0 i 1

/-- What an uncorrectable error does at each location but Farrier's own data (10 R324). -/
def uncorrectable (c : Chip) (e : Env) (loc : ErrLoc) (hit : Option Stop) : Chip :=
  if c.dev == .off then c else
  match loc with
  | .hbmObject a =>
    if hbmBytes c ≤ a then c else
    let c := poisonHbm c e a 0
    hbmFault c e hit ((objAt c a).map (fun p => p.2.handle) |>.getD 0) (a / 64 * 64) 0
  | .programImage m line => poisonImage c e m line hit
  | .descriptorPage t i => poisonDesc c e t i hit
  | .scratch l off => scratchUe c e l off hit.toList
  | .staging part => stagingUe c e part hit
  | .requestEntry fn slot =>
    if (tenantOf c fn).chan.poisoned.contains (slot % 64) then c else
    modTenant (poisonSram c 5) fn (fun x => { x with chan := { x.chan with poisoned := insertNat x.chan.poisoned (slot % 64) } })
  | .hbmRequest a => if hbmBytes c ≤ a then c else poisonHbm c e a 6
  | .contextState k => resetContext (poisonSram c 7) e k hit.toList
  | .logbook q seq =>
    (match cmdOf c q seq with
     | some k => if k.logOk then updCmd (poisonSram c 8) q seq (fun k => { k with logOk := false }) else c
     | none => poisonSram c 8)
  | .farrierData core => poisonKept c (16 + core) 9
  | .spareImage a =>
    if (tget (stackState c (stackOf a)).migrating (channelOf a)).isSome && a < hbmBytes c then poisonHbm c e a 10 else c

/-- The background filler zeroes a pending granule of the oldest lazy object (10 R315). -/
def fillNext (c : Chip) : Chip :=
  let pend := c.mems.filter (fun p => p.2.lazy && p.2.filled.length < p.2.span / 65536)
  let oldest : Option (Nat × MemObj) := pend.foldl (fun b p =>
    match b with | none => some p | some a => if p.2.born < a.2.born then some p else some a) none
  match oldest with
  | none => c
  | some (m, o) =>
    match (List.range (o.span / 65536)).find? (fun g => !o.filled.contains g) with
    | some g => fillGranule c m g
    | none => c

/-! ### The rows -/

/-- The bits of P0 that 13 R387 gives each class. -/
def infoMask (cls : RecClass) : Nat :=
  match cls with
  | .cluster => 0x1FF + field 0x1FF 16 9
  | .scratchUe => 0x1FF + field 0x1FF 16 9 + field 0xFFFFFFFF 32 32
  | .stagingUe => 0xF
  | .link => 0x3 + field 0xFF 8 8 + field 1 16 1
  | .firmware => 0x7 + field 1 8 1
  | .resetHit => 0xFF

/-- RECOVERABLE_FAULT. A LINK fault strikes transfers whose frames a failed port held (11 R335), and a collective whose partner was
stopped by a reset. -/
def faultedBy (c : Chip) (e : Env) (k : Cmd) (stop : Stop) (cls : RecClass) (info : W64) (lost published : Bool) : Chip :=
  let l := bits info.toNat 8 0
  let me := (stop.q, stop.seq)
  if cls == .link && !bit info.toNat 16 && !c.linkHit.contains me then c
  else if cls == .cluster then (if k.teams.contains (l / 8) then failCluster c e l (!lost) stop.run else c)
  else hitFault { c with linkHit := c.linkHit.filter (fun h => h != me) } e stop.q k stop { (faultInfo c (recNum cls) (recEngine cls k) 0 0 0 0) with p0 := info &&& BitVec.ofNat 64 (infoMask cls) } lost published

def execRecoverableFault (stop : Stop) (cls : RecClass) (info : W64) (carriedLost published : Bool) (s : State) :
    Host.Outcome State Fault Refusal :=
  .next (onChip s (fun c e =>
    match cmdOf c stop.q stop.seq with
    | some k => arbitrate (faultedBy c e k stop cls info carriedLost published) e
    | none => c))

def execReplayStart (q seq : Nat) (s : State) : Host.Outcome State Fault Refusal :=
  .next (onChip s (fun c e =>
    match tget c.queues q, cmdOf c q seq with
    | some x, some k => arbitrate (replayStart c e q x k) e
    | _, _ => c))

def execClusterFault (logical : Nat) (readable : Bool) (run : BodyRun) (s : State) : Host.Outcome State Fault Refusal :=
  .next (onChip s (fun c e => failCluster c e logical readable run))

def execMapInComplete (logical : Nat) (failedSpares : List Nat) (s : State) : Host.Outcome State Fault Refusal :=
  .next (onChip s (fun c e => mapIn c e logical failedSpares))

def execCorrectableError (loc : CeLoc) (noSpare : Bool) (s : State) : Host.Outcome State Fault Refusal :=
  .next (onChip s (fun c e => correctable c e loc noSpare))

def execChannelMigrationDone (stack channel : Nat) (s : State) : Host.Outcome State Fault Refusal :=
  .next (onChip s (fun c e => migrationDone c e stack channel))

def execChannelStopsAnswering (stack channel : Nat) (s : State) : Host.Outcome State Fault Refusal :=
  .next (onChip s (fun c e => if c.dev == .off then c else channelStops c e stack channel))

/-- The filler works in ACTIVE and IDLE. -/
def execBackgroundFill (s : State) : Host.Outcome State Fault Refusal :=
  .next (onChip s (fun c _ => if s.halter.power == .active || s.halter.power == .idle then fillNext c else c))

/-- A request without an answer within 10 ms of its last frame is hit by a LINK fault (11 R351). Which of several chips P0 names is open
(log 6). A BROADCAST is published once any member has acknowledged: that member has completed (13 R395). -/
def noAnswer (c : Chip) (e : Env) (k : Cmd) (stop : Stop) : Chip :=
  match k.remote, pick c (if remoteRead k then (outrideArgs k).dest.toList else dataDests e k) with
  | some (false, t), some (d, c') =>
    if c.clock < t + 10000000 then c else
    hitFault c' e stop.q k stop (faultInfo c 0x13 5 0 ((route e.fabric e.place d).1 % 4 + field d 8 8) 0 0) false
      (isCollective (outrideArgs k) && (outrideArgs k).oop == 2 && !stop.parts.isEmpty)
  | _, _ => c

def execRemoteNoAnswer (stop : Stop) (s : State) : Host.Outcome State Fault Refusal :=
  .next (onAttempt s stop.q stop.seq (fun c e _ k => noAnswer c e k stop))

/-- A retry that falls due leaves again; with its entry DOWN the command gives its engines up and waits (11 R351). -/
def remoteRetry (c : Chip) (e : Env) (q : Nat) (k : Cmd) : Chip :=
  match k.remote with
  | some (true, t) =>
    if c.clock < t then c
    else if remoteDown e k then
      let r := suspend c q k
      updCmd r.1 q k.seq (fun j => { j with phase := .preempted c.clock false, remote := none })
    else
      let r := sendRemote c e q k
      updCmd r.1 q k.seq (fun _ => r.2)
  | _ => c

/-- A waiting member announces its start again. -/
def memberRetry (c : Chip) (e : Env) (q : Nat) (k : Cmd) : Chip :=
  match k.remote with
  | some (true, t) => if c.clock < t then c else let r := announce c e q k; updCmd r.1 q k.seq (fun _ => r.2)
  | _ => c

def execRemoteRetry (q seq : Nat) (s : State) : Host.Outcome State Fault Refusal :=
  .next (onChip s (fun c e =>
    match cmdOf c q seq with
    | some k =>
      if k.onEngine then arbitrate (remoteRetry c e q k) e
      else if k.phase == .collective then arbitrate (memberRetry c e q k) e else c
    | none => c))

end Sys2Proof.Machine
end

