-- ==== Sys2Proof/Machine/Rein.lean ====
section
/-! DEFINITION. Rein's operations (12 R360 to R382): sensing, delivery to Farrier cores and to the host, completions, ownership. -/

namespace Sys2Proof.Machine

/-! ### Sensing (12 R364 to R367) -/

/-- An accepted change to `level` is an occurrence under SENSE, or a change into the asserted level. -/
def sensed (sense : Nat) (level : Bool) : Bool :=
  if sense == 0 || sense == 2 then level else if sense == 1 || sense == 3 then !level else sense == 4

def setLevel (c : Chip) (s : Nat) (level : Bool) : Chip :=
  { c with rein := { c.rein with levels := if level then insertNat c.rein.levels s else removeNat c.rein.levels s } }

/-- Changes of the level of source s count from gait time t on. -/
def countFrom (c : Chip) (s t : Nat) : Chip := { c with rein := { c.rein with counting := tset c.rein.counting s t } }

/-- What an occurrence on a pin source does: pending state, the edge that an EXTERNAL beat domain takes from source 5 (R367), but not
from a change that Halter presents (R378), and the freeze trigger of source 4 (15 R455). `t` is the gait time of the synchronised
change. -/
def pinOccurrence (c : Chip) (e : Env) (s t : Nat) (beat : Bool) : Chip :=
  let c := if (srcCfg c s).sense ≤ 1 then settleLevel c s else raiseSource c s
  let c := if s == 5 && beat && e.beats.any (fun p => p.2.ext) then { c with rein := { c.rein with edges := c.rein.edges ++ [t] } } else c
  if s == 4 && isUp c then triggerFreeze c e (t + 50000) 1 c.counters.pinBroadcast else c

/-- An accepted change of pin source s. -/
def acceptChange (c : Chip) (e : Env) (s : Nat) (level : Bool) (t : Nat) (beat : Bool) : Chip :=
  let c := countFrom (setLevel c s level) s t
  if sensed (srcCfg c s).sense level then pinOccurrence c e s t beat else settleLevel c s

/-! ### Core path (12 R368 to R371) -/

def coreOf (c : Chip) (k : Nat) : ReinCore := (tget c.rein.cores k).getD { vbase := 0, eligible := false, stack := [] }
def setCore (c : Chip) (k : Nat) (x : ReinCore) : Chip := { c with rein := { c.rein with cores := tset c.rein.cores k x } }

/-- Running priority plus 1: 0 for -1. -/
def runPrio (x : ReinCore) : Nat := match x.stack with | p :: _ => p + 1 | [] => 0

/-- Cores eligible for a source. -/
def eligibleCores (c : Chip) (g : SrcCfg) : List Nat :=
  (List.range 8).filter (fun k => bit g.coreMask k && (coreOf c k).eligible && runPrio (coreOf c k) < g.priority + 1)

/-- The eligible core of lowest running priority; a tie goes to the first tied core at or after the pointer. -/
def chooseCore (c : Chip) (g : SrcCfg) : Option (Nat × Bool) :=
  let es := eligibleCores c g
  let low := es.foldl (fun m k => min m (runPrio (coreOf c k))) 17
  let tied := es.filter (fun k => runPrio (coreOf c k) == low)
  match (tied.filter (fun k => c.rein.rotate ≤ k)) ++ tied with
  | k :: _ => some (k, 1 < tied.length)
  | [] => none

/-- Source a goes before source b on the core path (12 R369). -/
def coreBefore (c : Chip) (a b : Nat) : Bool :=
  (srcCfg c b).priority < (srcCfg c a).priority || ((srcCfg c a).priority == (srcCfg c b).priority && a < b)

def coreReady (c : Chip) (s : Nat) : Bool := (srcCfg c s).coreEn && !(eligibleCores c (srcCfg c s)).isEmpty

/-- CORE_DELIVERY of source s. -/
def deliverCore (c : Chip) (s : Nat) : Chip :=
  let g := srcCfg c s
  if !c.rein.pendingCore.contains s || !coreReady c s
      || c.rein.pendingCore.any (fun b => b != s && coreReady c b && coreBefore c b s) then c else
  match chooseCore c g with
  | none => c
  | some (k, tie) =>
    let x := coreOf c k
    let c := setCore (unpendCore c s) k { x with stack := g.priority :: x.stack }
    let c := { c with rein := { c.rein with activeCore := tset c.rein.activeCore s k,
                                            rotate := if tie then (k + 1) % 8 else c.rein.rotate } }
    emit c (.coreVector k (x.vbase + BitVec.ofNat 32 (32 * g.coreVector)))

def spuriousEoi (c : Chip) : Chip :=
  { c with rein := { c.rein with spurious := BitVec.ofNat 32 (satAdd c.rein.spurious.toNat 1 0xFFFFFFFF) } }

/-- A completion written by core k (12 R370, R376). -/
def coreDone (c : Chip) (k s : Nat) : Chip :=
  if tget c.rein.activeCore s != some k then spuriousEoi c else
  let x := coreOf c k
  settleLevel (setCore { c with rein := { c.rein with activeCore := terase c.rein.activeCore s } } k { x with stack := x.stack.drop 1 }) s

/-- A core is restarted or halts (12 R371): what it handled is pending again. -/
def haltCore (c : Chip) (k : Nat) : Chip :=
  let mine := (c.rein.activeCore.filter (fun p => p.2 == k)).map (fun p => p.1)
  let c := { c with rein := { c.rein with activeCore := c.rein.activeCore.filter (fun p => p.2 != k) } }
  mine.foldl pendCore (setCore c k { coreOf c k with eligible := false, stack := [] })

/-- A core's image starts (12 R371). -/
def startCore (c : Chip) (k : Nat) : Chip := setCore c k { coreOf c k with eligible := true }

/-! ### Host path (12 R372 to R376) -/

def vectorCount (fn : Nat) : Nat := if fn == 0 then 256 else 64

def msixOf (t : Tenant) (v : Nat) : MsixEntry := (tget t.msix v).getD { addr := 0, data := 0, masked := true }

/-- Sources of function fn that wait on a vector and pass its TP_SRC_MASK. -/
def waitingOn (c : Chip) (fn v : Nat) : List Nat :=
  c.rein.pendingHost.filter (fun s => (srcCfg c s).hostEn && (srcCfg c s).hostVector == v && srcOwner c s == some fn
    && (tenantOf c fn).unmasked.contains s)

/-- One MSI-X message, if the conditions of 12 R372 hold and crossing 4 has a credit (R375); it clears PENDING_HOST of every source that it serves. -/
def sendMsix (c : Chip) (fn v : Nat) : Chip :=
  let t := tenantOf c fn
  let m := msixOf t v
  let ss := waitingOn c fn v
  if ss.isEmpty || !t.msixEnable || t.functionMask || m.masked || vectorCount fn ≤ v || !hostRoom c 1 then c else
  let c := ss.foldl (fun c s =>
    let c := unpendHost c s
    if (srcCfg c s).sense ≤ 1 && isPin s then { c with rein := { c.rein with activeHost := insertNat c.rein.activeHost s } } else c) c
  emitHost c (.msix fn v m.addr m.data)

/-- The pending-bit array (12 R373). -/
def pendingBit (c : Chip) (fn v : Nat) : Bool :=
  let t := tenantOf c fn
  t.msixEnable && (t.functionMask || (msixOf t v).masked) && !(waitingOn c fn v).isEmpty

def setMsix (c : Chip) (fn v : Nat) (m : MsixEntry) : Chip := modTenant c fn (fun t => { t with msix := tset t.msix v m })

/-- VECTOR_UNMASK. -/
def unmaskVector (c : Chip) (fn v : Nat) : Chip :=
  if vectorCount fn ≤ v then c else sendMsix (setMsix c fn v { msixOf (tenantOf c fn) v with masked := false }) fn v

/-- RN_HOST_EOI (12 R374, R376). -/
def hostEoi (c : Chip) (s : Nat) : Chip :=
  if !c.rein.activeHost.contains s then spuriousEoi c
  else settleLevel { c with rein := { c.rein with activeHost := removeNat c.rein.activeHost s } } s

/-! ### Registers -/

/-- A host write of RN_SRC_CFG[s] (12 R365, R381); `level` is the synchronised level of a pin source. -/
def writeSrcCfg (c : Chip) (s v : Nat) (level : Bool) : Chip :=
  if 2048 ≤ s || srcOwner c s != some 0 then c else
  let g := srcCfg c s
  let sense := if isPin s && bits v 28 26 < 5 then bits v 28 26 else g.sense
  let filter := if isPin s then bits v 25 16 else g.filter
  let c := setCfg c s { g with hostVector := bits v 39 32, hostEn := bit v 31, sense := sense, filter := filter }
  let c := if sense != g.sense || filter != g.filter then unpendHost (unpendCore (countFrom (setLevel c s level) s c.gait) s) s else c
  settleLevel c s

/-- Farrier writes the core fields of RN_SRC_CFG[s], laid out as they read. -/
def writeCoreCfg (c : Chip) (s v : Nat) : Chip :=
  if 2048 ≤ s then c else
  settleLevel (setCfg c s { srcCfg c s with coreMask := bits v 63 56, coreVector := bits v 55 48, priority := bits v 47 44, coreEn := bit v 43 }) s

/-- Farrier writes VBASE, a multiple of 8 KiB, and ELIGIBLE. -/
def writeCoreControl (c : Chip) (k v : Nat) : Chip :=
  if 8 ≤ k then c else setCore c k { coreOf c k with vbase := BitVec.ofNat 32 (bits v 63 32 / 8192 * 8192), eligible := bit v 7 }

/-- BUSY of a source group (12 R361). -/
def groupBusy (c : Chip) (g : Nat) : Bool :=
  let inG := fun (s : Nat) => s / 32 == g
  c.queues.any (fun p => p.2.bind.any inG) || c.tenants.any (fun p => p.2.noticeBind.any inG || p.2.errorBind.any inG)
    || c.events.any (fun p => p.2.state == .armed && inG p.2.source)

def sourceBound (c : Chip) (s : Nat) : Bool :=
  c.queues.any (fun p => p.2.bind == some s) || c.tenants.any (fun p => p.2.noticeBind == some s || p.2.errorBind == some s)
    || c.events.any (fun p => p.2.state == .armed && p.2.source == s)

/-- Source s returns to its Reset configuration, with nothing pending or active, masked everywhere. -/
def resetSource (c : Chip) (s : Nat) : Chip :=
  let r := c.rein
  { c with rein := { r with cfg := terase r.cfg s, pendingCore := removeNat r.pendingCore s, pendingHost := removeNat r.pendingHost s,
                            activeCore := terase r.activeCore s, activeHost := removeNat r.activeHost s },
           tenants := c.tenants.map (fun p => (p.1, { p.2 with unmasked := removeNat p.2.unmasked s })) }

/-- A write of RN_GROUP_OWNER[g] (12 R361). -/
def writeGroupOwner (c : Chip) (g v : Nat) : Chip :=
  if g < 2 || 64 ≤ g || groupBusy c g then c else
  let v := v % 64
  if (tget c.rein.groups g).getD 0 == v then c else
  let c := { c with rein := { c.rein with groups := tset c.rein.groups g v } }
  (List.range 32).foldl (fun c i => resetSource c (32 * g + i)) c

/-- Tenant teardown and VF FLR (12 R380): bindings, host-path state and masks of tenant t. -/
def clearTenantRein (c : Chip) (t : Nat) : Chip :=
  let mine := fun (s : Nat) => srcOwner c s == some t
  let c' := { c with queues := c.queues.map (fun p => (p.1, if p.2.owner == t then { p.2 with bind := none } else p.2)),
                     rein := { c.rein with pendingHost := c.rein.pendingHost.filter (fun s => !mine s),
                                           activeHost := c.rein.activeHost.filter (fun s => !mine s) } }
  modTenant c' t (fun x => { x with noticeBind := none, errorBind := none, unmasked := [] })

end Sys2Proof.Machine
end

