-- ==== Sys2Proof/Machine/PowerStates.lean ====
section
/-! DEFINITION. Power states (17 R486 to R489): entry to IDLE, DOZE and HALT, and every wake. -/

namespace Sys2Proof.Machine

/-- No command is fetched and unretired, and so none is blocked on BEAT (17 R486); no discarded work runs on. -/
def noWork (c : Chip) : Bool := c.ghosts.isEmpty && c.queues.all (fun p => p.2.cmds.isEmpty && p.2.lists.isEmpty)

/-- Entries of a function's request channel (04 R137). -/
def chanCap (fn : Nat) : Nat := if fn == 0 then 256 else 8

def rspRoom (c : Chip) (fn : Nat) : Bool :=
  ((tenantOf c fn).chan.rspTail - (tenantOf c fn).chan.rspHead).toNat < chanCap fn

/-- The function whose request Farrier takes next: the oldest landed one with a free response entry (04 R139). -/
def nextFn (c : Chip) : Option Nat := c.arrivals.find? (rspRoom c)

/-- Work is queued (00 R20): a packet that Bridle may fetch, or a request that Farrier may take. -/
def queued (s : State) : Bool :=
  (nextFn s.chip).isSome || s.chip.queues.any (fun p => (fetchTry s.chip { envOf s with power := .active } p.1).isSome)

/-- No work, and no request in execution: a live update is one (14 R437). -/
def quiet (s : State) : Bool :=
  noWork s.chip && !queued s && (match s.farrier.update with | .none => true | _ => false)

/-- HALT_BLOCK (17 R487, R492). -/
def haltBlock (s : State) : Nat :=
  let portUp := !(upPorts s.fabric).isEmpty
  let beat := s.beats.any (fun p => p.2.ext || p.2.out)
  let pinB := freezeAgreed s.chip && s.chip.counters.pinBroadcast
  boolNat portUp + 2 * boolNat beat + 4 * boolNat s.chip.counters.pendingFreeze.isSome + 8 * boolNat (!s.halter.l12) + 16 * boolNat pinB

/-- Physical clusters that are enabled. -/
def enabledClusters (c : Chip) : List Nat := (c.compute.phys.filter (fun p => p.2.1 == .enabled)).map (fun p => p.1)

/-- Every written scratch line, saved at the entry to HALT (17 R488, log 18). -/
def haltLines (c : Chip) : List SavedLine :=
  c.memory.written.map (fun l => { cluster := l / 24576, line := l % 24576, written := true, bytes := lineBytes c (l / 24576) (l % 24576) })

/-- Since when the device has no work, seen at each tick. -/
def noteIdle (s : State) : State :=
  { s with halter := { s.halter with idleSince := if quiet s then some (s.halter.idleSince.getD s.chip.clock) else none } }

def since (t : Option Nat) (now n : Nat) : Bool := match t with | some a => a + n ≤ now | none => false

/-- IDLE_ENTRY. -/
def enterIdle (s : State) : State :=
  if isUp s.chip && s.halter.power == .active && quiet s && since s.halter.idleSince s.chip.clock 10000
  then { s with halter := { s.halter with power := .idle } } else s

/-- DOZE_ENTRY: HBM goes into self-refresh (10 R305). -/
def enterDoze (s : State) : State :=
  let h := s.halter
  if isUp s.chip && h.power == .idle && quiet s && h.dozeEn && since h.idleSince s.chip.clock (1000000 * h.dozeDelayMs)
  then { s with halter := { h with power := .doze, dozeSince := some s.chip.clock, selfRefresh := true } } else s

/-- HALT_ENTRY (17 R488): scratch is saved, and clusters lose it. -/
def enterHalt (s : State) : State :=
  let h := s.halter
  if isUp s.chip && h.power == .doze && h.haltEn && haltBlock s == 0 && since h.dozeSince s.chip.clock (1000000000 * h.haltDelayS) then
    { s with halter := { h with power := .halt, haltSince := s.chip.clock, haltSave := haltLines s.chip, watchCopy := s.chip.rein.watch },
             chip := { s.chip with memory := { s.chip.memory with scratch := [], written := [] } } }
  else s

/-- The saved lines return to the teams they came from. -/
def restoreHalt (s : State) : State :=
  { s with chip := s.halter.haltSave.foldl (fun c l => setLine c l.cluster l.line l.bytes) s.chip, halter := { s.halter with haltSave := [] } }

/-- The sensing clock restarts (12 R379): each filter takes the sampled level, and latched edges are reported. Where the row that wakes
the device does not tell the levels, they are free values (log 58). -/
def restartSensing (s : State) (levels : Option (List Nat)) : State :=
  onChip s (fun c e =>
    let pins := (List.range 11).map (fun i => 3 + i)
    let ls := levels.getD (pins.filter (fun p => Config.freeNat (c.free + p) % 2 == 1))
    let c := if levels.isNone then { c with free := c.free + 16 } else c
    let c := pins.foldl (fun c p => settleLevel (countFrom (setLevel c p (ls.contains p)) p c.gait) p) c
    let l := c.rein.latches
    l.foldl (fun c p => pinOccurrence c e p.1 p.2 true) { c with rein := { c.rein with latches := [] } })

/-- A wake event (17 R486 to R489). -/
def wake (s : State) (levels : Option (List Nat)) : State :=
  let up := { s with halter := { s.halter with power := .active, idleSince := none, dozeSince := none, selfRefresh := false } }
  match s.halter.power with
  | .active => { s with halter := { s.halter with idleSince := none } }
  | .idle => up
  | .doze => restartSensing up levels
  | .halt => restartSensing (restoreHalt up) levels

def wokenBy (s : State) (src : Nat) (levels : Option (List Nat)) : State :=
  let halted := s.halter.power == .halt
  let w := wake s levels
  if halted then { w with halter := { w.halter with wakeSrc := src } } else w

/-- A host access: in HALT its TLP asserts CLKREQ_N (17 R488, R492). -/
def hostWake (s : State) : State := wokenBy s 0x1E none

/-- An entry for Bridle written on a crossing while Bridle's clock is stopped raises an ungate request: the device wakes, and the entry
is served then (01 R42). Clusters start only in ACTIVE (`readyOf`). -/
def ungated (s : State) : State := if s.halter.power == .doze then wake s none else s

/-- WAKE_EVENT: a latched edge needs a latch, and only a host TLP or doorbell wakes from HALT here. -/
def wakeEvent (s : State) (w : Wake) (ls : List Nat) : State :=
  let levels := some ls
  if !isUp s.chip then s else
  match w with
  | .hostTlp => wokenBy s 0x1E levels
  | .doorbell => wokenBy s 0x1E levels
  | .ungate => if s.halter.power == .halt then s else wake s levels
  | .latchedEdge => if s.halter.power == .doze && !s.chip.rein.latches.isEmpty then wake s levels else s
  | .halter => s

/-- ASYNC_EDGE_LATCH (12 R377): the first qualifying edge of a pin source whose sensing clock is gated. -/
def latchEdge (s : State) (src t : Nat) : State :=
  let g := srcCfg s.chip src
  if s.halter.power == .doze && isPin src && 2 ≤ g.sense && (g.coreEn || g.hostEn) && !s.chip.rein.latches.any (fun p => p.1 == src) then
    { s with chip := { s.chip with rein := { s.chip.rein with latches := s.chip.rein.latches ++ [(src, t)] } } }
  else s

/-- Pin source of a watched line (12 R381 LINE_SEL). -/
def lineSource (line : Nat) : Option Nat :=
  if line < 8 then some (6 + line) else if line == 8 then some 5 else if line == 9 then some 4 else if line == 10 then some 3 else none

/-- A change first sampled at clock time t has held for HFILTER + 1 samples of 32.768 kHz in this HALT (12 R378). -/
def sampled (s : State) (w : WatchEntry) (t : Nat) : Bool :=
  s.halter.haltSince ≤ t && t ≤ s.chip.clock && w.hfilter * 1000000000 ≤ (s.chip.clock - t) * 32768

/-- A watched line changes in HALT (12 R378): the entry's SENSE decides; the change is presented to its source. -/
def watchWake (s : State) (i : Nat) (level : Bool) (t : Nat) (levels : List Nat) : State :=
  match tget s.halter.watchCopy i with
  | none => s
  | some w =>
    if s.halter.power != .halt || !w.en || !sensed w.sense level || !sampled s w t || (w.line < 8 && bit s.halter.gpioOe.toNat w.line) then s else
    let s := wokenBy s i (some levels)
    match lineSource w.line with
    | some src => onChip s (fun c e => acceptChange c e src level c.gait false)
    | none => s

def execIdleEntry (s : State) : Host.Outcome State Fault Refusal := .next (enterIdle s)
def execDozeEntry (s : State) : Host.Outcome State Fault Refusal := .next (enterDoze s)
def execHaltEntry (s : State) : Host.Outcome State Fault Refusal := .next (enterHalt s)
def execWakeEvent (w : Wake) (levels : List Nat) (s : State) : Host.Outcome State Fault Refusal := .next (wakeEvent s w levels)
def execAsyncEdgeLatch (src t : Nat) (s : State) : Host.Outcome State Fault Refusal := .next (latchEdge s src t)

end Sys2Proof.Machine
end

