-- ==== Sys2Proof/Machine/Windows.lean ====
section
/-! DEFINITION. Memory windows (03 R110 to R113), BAR2 (03 R115), doorbells (04 R122, R123, R128) and the request channels' pointers
(04 R137 to R139). -/

namespace Sys2Proof.Machine

/-- The function answers accesses to its BARs: the link is up, its Memory Space Enable is 1, and the function exists or its teardown
runs (03 R99). -/
def reachable (s : State) (fn : Nat) : Bool :=
  s.chip.dev != .off && s.chip.linkUp && fn < 32 && ((tenantOf s.chip fn).present || (tenantOf s.chip fn).teardown)
    && (tenantOf s.chip fn).memSpace

/-- A VF whose teardown runs: its BARs read 0 and ignore writes (03 R99). -/
def tornDown (s : State) (fn : Nat) : Bool := fn != 0 && (tenantOf s.chip fn).teardown

/-- A host access that reaches the function, after its wake. -/
def onHost (s : State) (fn : Nat) (f : State → State) : State :=
  if !reachable s fn then s else if tornDown s fn then hostWake s else f (hostWake s)

/-! ### Window entries -/

def windowOf (c : Chip) (t w : Nat) : Window := (tget (tenantOf c t).windows w).getD Window.reset
def setWindow (c : Chip) (t w : Nat) (x : Window) : Chip := modTenant c t (fun y => { y with windows := tset y.windows w x })

def inForce (w : Window) : Bool := w.valid || w.pending

def kindRange (w : Window) (b : Window) : Bool := overlap w.base.toNat w.size.toNat b.base.toNat b.size.toNat

/-- The checks of 03 R111, in order: the code that ERR takes, or 0. -/
def windowErr (c : Chip) (t i : Nat) (w : Window) : Nat :=
  let g := if w.host then 4096 else 65536
  let others := c.tenants.filter (fun p => p.1 != t)
  let conds : List (Bool × Nat) :=
    [(w.size == 0, 6), (w.host && w.bar2En, 7),
     (w.base.toNat % g != 0 || w.size.toNat % g != 0 || (!w.host && w.bar2Off.toNat % g != 0), 1),
     ((if w.host then pow2 64 else hbmBytes c) < w.base.toNat + w.size.toNat, 2),
     (!w.host && others.any (fun p => p.2.windows.any (fun v => inForce v.2 && !v.2.host && kindRange w v.2)), 3),
     (!w.host && c.mems.any (fun p => p.2.owner != t && p.2.kind == .device && overlap w.base.toNat w.size.toNat p.2.addr p.2.span), 4),
     (w.bar2En && (tenantOf c t).windows.any (fun v => v.1 != i && inForce v.2 && v.2.bar2En
        && overlap w.bar2Off.toNat w.size.toNat v.2.bar2Off.toNat v.2.size.toNat), 5)]
  match conds.find? (fun x => x.1) with | some x => x.2 | none => 0

/-- Hardware sets W1C bit i of function fn in this cycle (00 R15). -/
def noteSet (c : Chip) (fn i : Nat) : Chip := { c with setNow := insertNat c.setNow (4 * fn + i) }

/-- A write of 1 clears W1C bit i of function fn, unless hardware sets it in the same cycle (00 R15). -/
def clears (c : Chip) (fn i : Nat) : Bool := !c.setNow.contains (4 * fn + i)

def changed (c : Chip) (t : Nat) : Chip := noteSet (modTenant c t (fun x => { x with winChanged := true })) t 0

/-- The fields that a write of the control word stores while the entry is out of force. -/
def withControl (w : Window) (v : Nat) : Window := { w with host := bit v 1, bar2En := bit v 2, bar2Ro := bit v 3 }

/-- A write of the control word (bits 255:192) with VALID = 1 (03 R111, R112). -/
def setValid (c : Chip) (t i v : Nat) : Chip :=
  if 32 ≤ t || 64 ≤ i then c else
  let w := windowOf c t i
  if inForce w then c else
  let w := withControl w v
  let e := windowErr c t i w
  if e != 0 then setWindow c t i { w with err := e }
  else if w.host then changed (setWindow c t i { w with err := 0, valid := true }) t
  else setWindow c t i { w with err := 0, pending := true }

/-- A write of the control word with VALID = 0 (03 R112, R113). -/
def clearValid (c : Chip) (t i v : Nat) : Chip :=
  if 32 ≤ t || 64 ≤ i then c else
  let w := windowOf c t i
  if w.pending then setWindow c t i { w with pending := false }
  else if w.valid then changed (setWindow c t i { w with valid := false }) t
  else setWindow c t i (withControl w v)

/-- The parts of [a, b) outside the given ranges, which rise. -/
def gapsOf : List (Nat × Nat) → Nat → Nat → List (Nat × Nat)
  | [], a, b => if a < b then [(a, b)] else []
  | (x, y) :: r, a, b => (if a < min x b then [(a, min x b)] else []) ++ gapsOf r (max a y) b

/-- The granules of the window's range that no live object of its tenant occupies. -/
def fillRanges (c : Chip) (t : Nat) (w : Window) : List (Nat × Nat) :=
  let occ := (c.mems.filter (fun p => p.2.owner == t && p.2.kind == .device)).map (fun p =>
    (p.2.addr / 65536 * 65536, ceilDiv (p.2.addr + p.2.span) 65536 * 65536))
  gapsOf (occ.foldl (fun l p => insertIv l p.1 p.2) []) w.base.toNat (w.base.toNat + w.size.toNat)

/-- WINDOW_FILL_DONE (03 R112). -/
def fillDone (c : Chip) (t i : Nat) : Chip :=
  let w := windowOf c t i
  if !w.pending then c else
  let c := (fillRanges c t w).foldl (fun c r => cntHbm (zeroDev c r.1 (r.2 - r.1)) 72 r.1 (r.2 - r.1)) c
  changed (setWindow c t i { w with valid := true, pending := false }) t

/-! ### BAR2 -/

/-- The device address that a BAR2 access of n bytes reaches (03 R115). -/
def bar2Addr (c : Chip) (fn off n : Nat) (write : Bool) : Option Nat :=
  (((tenantOf c fn).windows.map (fun p => p.2)).find? (fun w =>
    w.valid && w.bar2En && w.bar2Off.toNat ≤ off && off + n ≤ w.bar2Off.toNat + w.size.toNat)).bind (fun w =>
      if write && w.bar2Ro then none else some (w.base.toNat + (off - w.bar2Off.toNat)))

def countMiss (c : Chip) (fn : Nat) : Chip :=
  modTenant c fn (fun t => { t with bar2Miss := BitVec.ofNat 32 (satAdd t.bar2Miss.toNat 1 0xFFFFFFFF) })

/-- The access lies within the BAR. -/
def inBar2 (c : Chip) (fn off n : Nat) : Bool := n != 0 && off + n ≤ pow2 (tenantOf c fn).bar2Log2

/-- A host read at BAR2 (03 R115, 10 R315, R324). -/
def bar2Read (c : Chip) (fn off n : Nat) : Chip :=
  if !inBar2 c fn off n then c else
  match bar2Addr c fn off n false with
  | none => emit (countMiss c fn) (.bar2Data fn (List.replicate n 0) false)
  | some a =>
    let bad := (linesOf a n).filter (fun l => linePoisoned c l && !pendingByte c (l * 64))
    let data := (loadDev c a n).zipIdx.map (fun p => if bad.contains ((a + p.2) / 64) then (0xFF : Byte) else p.1)
    let c := bad.foldl (fun c l => detectPoison c l 0) (cntHbm c 64 a n)
    emit c (.bar2Data fn data (!bad.isEmpty))

/-- A host write at BAR2; it raises the stamp of each object that it lands in (02 R66). -/
def bar2Write (c : Chip) (fn off : Nat) (data : List Byte) : Chip :=
  if !inBar2 c fn off data.length then c else
  match bar2Addr c fn off data.length true with
  | none => countMiss c fn
  | some a =>
    let hit := (c.mems.filter (fun p => p.2.kind == .device && overlap a data.length p.2.addr p.2.span)).map (fun p => p.1)
    hit.foldl raiseStamp (storeDev c a data)

/-! ### Doorbells -/

/-- The queue at doorbell slot d of tenant t. -/
def slotQueue (c : Chip) (t d : Nat) : Option (Nat × Queue) := c.queues.find? (fun p => p.2.owner == t && p.2.slot == d)

/-- QUEUE_OVERRUN (04 R123). -/
def overrun (c : Chip) (e : Env) (q : Nat) (x : Queue) (v : W32) : Chip :=
  let c := enterError (cntFix c 15 1) q stOverrun x.ctx
  let c := oweRecord c q { bits := compRecord c.gait 0 0 0 0 stOverrun 0 false 0, drops := [], ref := false }
  let c := postError c { cls := 7, tenant := some x.owner, ctx := x.ctx, status := stOverrun, engine := 4, queue := x.handle,
                         p0 := BitVec.ofNat 64 (v.toNat + field x.tail.toNat 32 32), p1 := BitVec.ofNat 64 x.head.toNat }
  arbitrate c e

/-- A doorbell in READY or WALK (04 R122, R128, R132). -/
def ring (c : Chip) (e : Env) (fn d : Nat) (v : W32) : Chip :=
  match slotQueue c fn d with
  | none => c
  | some (q, x) =>
    let c := if cqRoom x then c else refreshCq c q
    if x.err.isSome || x.refs.host == 0 || !negotiated c fn then c else
    let a := (v - x.tail).toNat
    if a == 0 then c
    else if (x.tail - x.head).toNat + a ≤ pow2 x.sqLog2 then cntFix (modQueue c q (fun x => { x with tail := v })) 14 1
    else overrun c e q x v

/-- A write of TP_DB[d].TAIL (03 R105). -/
def doorbell (c : Chip) (e : Env) (fn d : Nat) (v : W32) : Chip :=
  if 4096 ≤ d then c
  else if c.dev == .bringup then modTenant c fn (fun t => { t with dbLatch := tset t.dbLatch d v })
  else if isUp c then ring c e fn d v
  else c

/-! ### Request channels -/

def modChan (c : Chip) (fn : Nat) (f : Channel → Channel) : Chip := modTenant c fn (fun t => { t with chan := f t.chan })

/-- Drops the last `n` entries equal to `k`. -/
def dropLast (k n : Nat) (l : List Nat) : List Nat :=
  (l.reverse.foldl (fun (s : Nat × List Nat) x => if x == k && s.1 != 0 then (s.1 - 1, s.2) else (s.1, x :: s.2)) (n, [])).2

/-- A write of BRD_MREQ_TAIL (04 R138, R139, R144). -/
def tailWrite (c : Chip) (fn : Nat) (v : W32) : Chip :=
  if c.dev == .hold && fn != 0 then c else
  let ch := (tenantOf c fn).chan
  let new := (v - ch.reqHead).toNat
  let old := (ch.reqTail - ch.reqHead).toNat
  if chanCap fn < new then noteSet (modChan c fn (fun ch => { ch with reqOverrun := true })) fn 1 else
  let c := modChan c fn (fun ch => { ch with reqTail := v })
  { c with arrivals := if old ≤ new then c.arrivals ++ List.replicate (new - old) fn else dropLast fn (old - new) c.arrivals }

/-- A write of BRD_MRSP_HEAD (04 R138). -/
def headWrite (c : Chip) (fn : Nat) (v : W32) : Chip :=
  let ch := (tenantOf c fn).chan
  if (v - ch.rspHead).toNat ≤ (ch.rspTail - ch.rspHead).toNat then modChan c fn (fun ch => { ch with rspHead := v })
  else noteSet (modChan c fn (fun ch => { ch with rspHeadBad := true })) fn 2

end Sys2Proof.Machine
end

