-- ==== Sys2Proof/Machine/HostAccess.lean ====
section
/-! DEFINITION. Host accesses to BAR0: every register's value and every write's effect (00 R13 to R18, 03 R104, R107, R110, 04 R137,
11 R346, 12 R381, 13 R388, 14 R429, 15 R453, 17 R492), BAR2 and the rows that are register accesses. -/

namespace Sys2Proof.Machine

/-! ### Values -/

def devCode : DevState → Nat
  | .off => 0
  | .bringup => 1
  | .hold => 2
  | .ready => 3
  | .walk => 4

def powerCode : PowerState → Nat
  | .active => 0
  | .idle => 1
  | .doze => 2
  | .halt => 3

/-- A board record that passes BMAGIC, BCHECK and the reserved-field rule (17 R495). -/
def boardLegal (b : List Byte) : Bool :=
  64 ≤ b.length && leAt b 0 4 == 0x31445242 && leAt b 0x18 4 == crc32c (zeroAt (b.take 64) 0x18 4)
    && zerosAt b 5 3 && zerosAt b 0x0C 4 && zerosAt b 0x1C 0x24

/-- Subsystem IDs of the board record: SSID in bits 31:16, SSVID below (17 R495). -/
def subsystemOf (s : State) : Nat := if boardLegal s.flash.board then leAt s.flash.board 8 4 else 0x1D7F

def boardOf (s : State) : Nat := if boardLegal s.flash.board then leAt s.flash.board 4 1 else 0

/-- A CTT field whose validity bit is 0 has no meaning (03 R108): it reads as free value `f`. -/
def meant (s : State) (valid : Bool) (f v w : Nat) : Nat := if valid then v else Config.freeNat (s.chip.free + f) % pow2 w

/-- A register that holds reserved bits beside its fields `m`: they read 0 even while the fields have no meaning (00 R16). -/
def meantIn (s : State) (valid : Bool) (v w m : Nat) : Nat := meant s valid 0 v w &&& m

/-- Data lanes of a port (11 R331, R334). -/
def dataLanes (s : State) (q : Nat) : Nat :=
  (if blockEdge (placeNow s) q then 4 else 16) / (if (portOf s.fabric q).half then 2 else 1)

/-- The last HELLO, as the CTT shows it: 0 in DOWN and MISSING (11 R337). -/
def shownHello (s : State) (q : Nat) : W256 :=
  let p := portOf s.fabric q
  if p.state == 0 || p.state == 3 then 0 else p.hello.getD 0

/-- The header of one port in the CTT. -/
def portNat (s : State) (q : Nat) : Nat :=
  let p := portOf s.fabric q
  let h := shownHello s q
  hX h + field (hY h) 8 8 + field (hBlock h) 16 16 + field p.state 32 4 + field (boolNat (blockEdge (placeNow s) q)) 36 1
    + field (dataLanes s q) 37 5 + field (boolNat p.spareInUse) 42 1 + field (hPort h) 48 2

def maskOf (l : List Nat) : Nat := sumBy (fun i => pow2 i) l.eraseDups

/-- 64-bit registers of the CTT (03 R107), by offset in it. -/
def ctt64 (s : State) (o : Nat) : Option Nat :=
  let c := s.chip
  let v := c.ctt.staticValid
  let m := c.ctt.clmapValid
  let t := c.ctt.topoValid
  let pl := placeNow s
  if o == 0x10 then some (meant s v 0 s.fuses.serial.toNat 64)
  else if o == 0x18 then some (boolNat v + 2 * boolNat m + 4 * boolNat t + field c.ctt.gen.toNat 32 32)
  else if o == 0x100 then some (meant s m 0 (enabledClusters c).length 16 + field 336 16 16 + field (meant s m 1 (freeSpares c).length 16) 32 16
    + field 16 48 8 + field 21 56 8)
  else if o == 0x108 then some (1024 + field 8 16 16 + field 1536 32 32)
  else if o == 0x110 then some (meant s v 0 (min 1500 s.fuses.fmax) 16 + field (meant s v 1 s.fuses.fmax 16) 16 16 + field 1200 32 16
    + field s.gov.clMhz 48 16)
  else if o == 0x118 then some (24576 + field 8192 32 32)
  else if o == 0x120 then some (8 + field 9800000 32 32)
  else if o == 0x128 then some (hbmBytes c)
  else if o == 0x130 then some (4096 + field 16384 16 16 + field 256 32 16 + field 16 48 8 + field 64 56 8)
  else if o == 0x138 then some (1048576 + field 65536 32 32)
  else if o == 0x140 then some (262144 + field 65536 32 32)
  else if o == 0x148 then some (256 + field 4096 16 16 + field 2048 32 16 + field 256 48 16)
  else if o == 0x150 then some (64 + field 8 16 8 + field 64 24 8 + field 4 32 8 + field 8 40 8 + field 8 48 8 + field 2 56 8)
  else if o == 0x158 then some (64 + field 31 16 8)
  else if o == 0x160 then some 0x2010201010040401
  else if o == 0x168 then some (s.gov.tthrot + field s.gov.tshut 16 16 + field 520 32 16)
  else if o == 0x170 then some (s.link.speed % 16 + field s.link.width 4 5 + field (boolNat s.link.flit) 9 1)
  else if 0x2000 ≤ o && o < 0x2040 then
    let x := stackState c ((o - 0x2000) / 8)
    some (meant s m 0 (maskOf ((List.range 32).filter (fun i => !x.dead.contains i)) + field (maskOf x.spareFree) 32 32) 64)
  else if o == 0x3000 then
    some (meant s t 0 (pl.x + field pl.y 8 8 + field pl.block 16 16 + field pl.meshW 32 8 + field pl.meshH 40 8 + field pl.slice 48 16) 64)
  else if 0x3010 ≤ o && o < 0x3050 then
    let q := (o - 0x3010) / 16
    if (o - 0x3010) % 16 == 0 then some (meantIn s t (portNat s q) 64 (mask 42 0 ||| mask 49 48)) else some (meant s t 0 (hSerial (shownHello s q)) 64)
  else none

/-- State and logical number of physical cluster p. -/
def physNat (c : Chip) (p : Nat) : Nat :=
  match tget c.compute.phys p with
  | some (st, l) => l.getD 0x1FF + field (match st with | .enabled => 0 | .spare => 1 | .failed => 2) 30 2
  | none => 0x1FF

def logNat (c : Chip) (l : Nat) : Nat := (physOf c l).getD 0xFFFF

/-- 32-bit registers of the CTT. CVER_COUNT reads 0 while no image runs: 03 R107 gives it 1 to 15 and no value for that time (the model's
choice, log 87). -/
def ctt32 (s : State) (o : Nat) : Nat :=
  let c := s.chip
  let cv := match s.farrier.running with | some i => i.cvers | none => []
  if o == 0 then 0x31545443
  else if o == 4 then 0x00100001
  else if o == 8 then boardOf s + field (meant s c.ctt.staticValid 0 s.fuses.stepping 8) 8 8 + field 7 16 16
  else if o == 0x0C then (match s.farrier.running with | some i => i.minor.toNat + field i.major.toNat 16 16 | none => 0)
  else if o == 0x200 then cv.length % 256
  else if 0x204 ≤ o && o < 0x204 + 4 * cv.length then (cv.getD ((o - 0x204) / 4) 0).toNat
  else if 0x1000 ≤ o && o < 0x1540 then meantIn s c.ctt.clmapValid (physNat c ((o - 0x1000) / 4)) 32 (mask 31 30 ||| mask 8 0)
  else if 0x1800 ≤ o && o < 0x1A80 then
    let l := (o - 0x1800) / 2
    meant s c.ctt.clmapValid 0 (logNat c l + field (logNat c (l + 1)) 16 16) 32
  else 0

/-- TP_USE_ONCHIP (03 R104, R106). -/
def onchipUse (c : Chip) (t : Nat) : Nat :=
  sumBy (fun k => scratchHeld k + (if k.groom.isSome then 524288 else 0) + 1048576 * k.outriders.length)
    (((c.queues.flatMap (fun p => p.2.cmds)) ++ c.ghosts.map (fun g => g.cmd)).filter (fun k => k.owner == t))

def hostUse (c : Chip) (t : Nat) : Nat := sumBy (fun p => if p.2.owner == t && p.2.kind == .host then p.2.size else 0) c.mems

/-- RN_SRC_CFG[s] as it reads. -/
def srcCfgNat (c : Chip) (s : Nat) : Nat :=
  let g := srcCfg c s
  (srcOwner c s).getD 0 + field (boolNat (srcOwner c s).isSome) 5 1 + field g.filter 16 10 + field g.sense 26 3 + field (boolNat g.hostEn) 31 1
    + field g.hostVector 32 8 + field (boolNat g.coreEn) 43 1 + field g.priority 44 4 + field g.coreVector 48 8 + field g.coreMask 56 8

def srcStateNat (c : Chip) (s : Nat) : Nat :=
  let r := c.rein
  boolNat (r.pendingHost.contains s) + 2 * boolNat (r.activeHost.contains s) + 4 * boolNat (r.pendingCore.contains s)
    + 8 * boolNat (tget r.activeCore s).isSome + 16 * boolNat (sourceBound c s) + field ((tget r.activeCore s).getD 0) 8 3
    + field (boolNat (isPin s && r.levels.contains s)) 11 1

def coreNat (c : Chip) (k : Nat) : Nat :=
  let x := coreOf c k
  (match x.stack with | p :: _ => p | [] => 0x1F) + field (boolNat x.eligible) 7 1 + field x.vbase.toNat 32 32

def watchOf (c : Chip) (i : Nat) : WatchEntry := (tget c.rein.watch i).getD WatchEntry.reset

def watchNat (w : WatchEntry) : Nat := w.line % 16 + field w.hfilter 8 8 + field w.sense 16 3 + field (boolNat w.en) 31 1

def selNat (x : CounterSel) : Nat :=
  field x.event 0 8 + field x.clFirst 11 9 + field x.clLast 20 9 + field (boolNat x.spec) 29 1 + field (boolNat x.clFilter) 30 1
    + field (boolNat x.ctxFilter) 31 1 + field x.ctx 32 12

/-- 0x51_9000 (15 R453): of the pending or held freeze. -/
def freezeNat (k : Counters) : Nat :=
  let f : Option Freeze := match k.pendingFreeze with | some f => some f | none => k.heldBank.map (fun b => b.1)
  boolNat k.pendingFreeze.isSome + 2 * boolNat k.heldBank.isSome + (match f with | some f => field f.source 2 2 + field f.id.toNat 48 16 | none => 0)
    + field (boolNat k.alignedAt) 4 1 + field k.missed 32 16

def freezeGait (k : Counters) : Nat :=
  match k.pendingFreeze with | some f => f.tf | none => (match k.heldBank with | some b => b.1.tf | none => 0)

def isolated (s : State) : Bool := s.fabric.parent.isNone && (placeNow s).planned && !timeMaster (placeNow s)

/-- 64-bit registers of PF0's own regions. -/
def pf64 (s : State) (o : Nat) : Option Nat :=
  let c := s.chip
  let k := c.counters
  let g := s.gov
  let u := s.fuses
  let v := c.ctt.staticValid
  if 0x200000 ≤ o && o < 0x220000 then
    let b := o % 0x1000
    if b < 0x800 then some (bits (windowNat (windowOf c ((o - 0x200000) / 0x1000) (b / 32))) (b % 32 * 8 + 63) (b % 32 * 8)) else some 0
  else if 0x400000 ≤ o && o < 0x404000 then some (srcCfgNat c ((o - 0x400000) / 8))
  else if 0x406100 ≤ o && o < 0x406140 then some (coreNat c ((o - 0x406100) / 8))
  else if 0x500000 ≤ o && o < 0x508000 then some ((tget k.value ((o - 0x500000) / 8)).getD 0).toNat
  else if 0x508000 ≤ o && o < 0x510000 then
    some (match k.heldBank with | some b => ((tget b.2 ((o - 0x508000) / 8)).getD 0).toNat | none => 0)
  else if 0x510000 ≤ o && o < 0x518000 then
    some (match tget k.sel ((o - 0x510000) / 8) with | some x => selNat x | none => 0)
  else if o == 0x519000 then some (freezeNat k)
  else if o == 0x519008 then some (freezeGait k)
  else if 0x600000 ≤ o && o < 0x600080 && o % 32 == 0 then some (portOf s.fabric ((o - 0x600000) / 32)).retries.toNat
  else if o == 0x600200 then some c.dropRoute.toNat
  else if o == 0x600208 then some c.dropSlice.toNat
  else if o == 0x600210 then some c.remoteRefused.toNat
  else if o == 0x600218 then
    some (ofInt 32 s.fabric.offset + field (ofInt 16 s.fabric.delay) 32 16 + field (if isolated s then 0xFF else s.fabric.hops) 48 8
      + field (s.fabric.parent.getD 0) 56 2 + field (boolNat (isolated s)) 63 1)
  else if o == 0x700000 then
    some (meant s v 0 (u.pmax % 65536 + field u.tthrot 16 8 + field u.tshut 24 8 + field u.vmax 32 16 + field u.fmax 48 16) 64)
  else if o == 0x700008 then some (g.plimit % 65536 + field g.tthrot 16 8 + field g.tshut 24 8 + field g.fcap 48 16)
  else if o == 0x700010 then
    some (boolNat g.thermalLimiting + 2 * boolNat g.powerLimiting + 4 * boolNat g.shutdownPending + 8 * boolNat g.holdFail
      + field g.power 16 16 + field g.clMhz 32 16 + field g.tj 56 8)
  else none

/-- 32-bit registers of PF0's own regions. -/
def pf32 (s : State) (o : Nat) : Nat :=
  let c := s.chip
  let ch := (tenantOf c 0).chan
  let h := s.halter
  if 0x100000 ≤ o && o < 0x104000 then leNat (readBytes ch.reqBytes (o - 0x100000) 4)
  else if 0x104000 ≤ o && o < 0x108000 then leNat (readBytes ch.rspBytes (o - 0x104000) 4)
  else if o == 0x108000 then ch.reqTail.toNat
  else if o == 0x108008 then ch.reqHead.toNat
  else if o == 0x108010 then ch.rspTail.toNat
  else if o == 0x108018 then ch.rspHead.toNat
  else if o == 0x108020 then boolNat ch.reqOverrun + 2 * boolNat ch.rspHeadBad + field 8 8 8
  else if o == 0x108028 then field s.farrier.ifaceReq.toNat 16 16
  else if o == 0x300000 then c.errq.prod.toNat
  else if o == 0x300008 then c.errq.cons.toNat
  else if o == 0x30000C then c.errq.dropped.toNat
  else if 0x300040 ≤ o && o < 0x340040 then leNat (readBytes c.errq.entries (o - 0x300000) 4)
  else if 0x404000 ≤ o && o < 0x406000 then srcStateNat c ((o - 0x404000) / 4)
  else if 0x406000 ≤ o && o < 0x406100 then
    let g := (o - 0x406000) / 4
    (tget c.rein.groups g).getD 0 + field (boolNat (groupBusy c g)) 31 1
  else if o == 0x406208 then c.rein.spurious.toNat
  else if o == 0x406210 then c.rein.rotate
  else if 0x406300 ≤ o && o < 0x406340 then watchNat (watchOf c ((o - 0x406300) / 4))
  else if 0x518000 ≤ o && o < 0x518200 then (tget c.counters.groups ((o - 0x518000) / 4)).getD 0
  else if o == 0x519010 then 2 * boolNat c.counters.pinBroadcast
  else if o == 0x519018 then boolNat (alignedNow c.dev s.fabric (placeNow s))
  else if 0x600000 ≤ o && o < 0x600080 && o % 32 == 8 then (portOf s.fabric ((o - 0x600000) / 32)).bursts.toNat
  else if 0x600000 ≤ o && o < 0x600080 && o % 32 == 12 then (portOf s.fabric ((o - 0x600000) / 32)).laneSwaps.toNat
  else if 0x601000 ≤ o && o < 0x601400 then
    let r := route s.fabric (placeNow s) ((o - 0x601000) / 4)
    r.1 + field r.2 3 3
  else if o == 0x708000 then h.dozeDelayMs % 65536 + field h.haltDelayS 16 8 + field (boolNat h.dozeEn) 30 1 + field (boolNat h.haltEn) 31 1
  else if o == 0x708008 then h.resetCause % 16 + field h.wakeSrc 8 5 + field (haltBlock s) 16 5
  else if o == 0x708010 then h.gpioOut.toNat + field h.gpioOe.toNat 8 8
  else 0

/-- The 64-bit register at offset o, a multiple of 8, of function fn's BAR0. -/
def reg64 (s : State) (fn o : Nat) : Option Nat :=
  let c := s.chip
  let t := tenantOf c fn
  if o == 0x18 then some c.gait
  else if 0x20 ≤ o && o < 0x58 then let k := (o - 0x20) / 8; some (usedOf c fn k + field (quotaOf c fn k) 32 32)
  else if o == 0x58 then some (onchipUse c fn)
  else if o == 0x60 then some (hostUse c fn)
  else if 0x1000 ≤ o && o < 0x1800 then
    some (bits (windowNat ((tget t.windows ((o - 0x1000) / 32)).getD Window.reset)) (o % 32 * 8 + 63) (o % 32 * 8))
  else if 0x10000 ≤ o && o < 0x20000 then ctt64 s (o - 0x10000)
  else if 0x20000 ≤ o && o < 0x28000 then some 0
  else if 0x30000 ≤ o && o < 0x38000 then
    some (match slotQueue c fn ((o - 0x30000) / 8) with | some (_, x) => x.tail.toNat + field x.head.toNat 32 32 | none => 0)
  else if fn == 0 then pf64 s o
  else none

/-- The 32-bit register at offset o, a multiple of 4. -/
def reg32 (s : State) (fn o : Nat) : Nat :=
  let c := s.chip
  let t := tenantOf c fn
  if o == 0 then fn + field 1 8 8
  else if o == 8 then devCode c.dev + field (powerCode s.halter.power) 4 2 + field (boolNat t.teardown) 8 1 + field (boolNat t.winChanged) 9 1
  else if o == 0x10 then (match t.agreed with | some a => a.minor.toNat + field a.major.toNat 16 16 | none => 0)
  else if o == 0x68 then t.bar2Miss.toNat
  else if o == 0x6C then t.winFaults.toNat
  else if 0x800 ≤ o && o < 0x1000 && fn != 0 then
    let ch := t.chan
    if o == 0x800 then ch.reqTail.toNat
    else if o == 0x808 then ch.reqHead.toNat
    else if o == 0x810 then ch.rspTail.toNat
    else if o == 0x818 then ch.rspHead.toNat
    else if o == 0x820 then boolNat ch.reqOverrun + 2 * boolNat ch.rspHeadBad + field 3 8 8
    else if 0xA00 ≤ o && o < 0xC00 then leNat (readBytes ch.reqBytes (o - 0xA00) 4)
    else if 0xC00 ≤ o && o < 0xE00 then leNat (readBytes ch.rspBytes (o - 0xC00) 4)
    else 0
  else if 0x1800 ≤ o && o < 0x1900 then
    0xFFFFFFFF - maskOf ((t.unmasked.filter (fun i => i / 32 == (o - 0x1800) / 4 && srcOwner c i == some fn)).map (fun i => i % 32))
  else if 0x10000 ≤ o && o < 0x20000 then ctt32 s (o - 0x10000)
  else if 0x40000 ≤ o && o < 0x40000 + 16 * vectorCount fn then
    let m := msixOf t ((o - 0x40000) / 16)
    let w := o % 16 / 4
    if w == 0 then bits m.addr.toNat 31 0 else if w == 1 then bits m.addr.toNat 63 32 else if w == 2 then m.data.toNat else boolNat m.masked
  else if 0x48000 ≤ o && o < 0x48000 + vectorCount fn / 8 then
    maskOf ((List.range 32).filter (fun i => pendingBit c fn (8 * (o - 0x48000) + i)))
  else if fn == 0 then pf32 s o
  else 0

def barSize (fn : Nat) : Nat := if fn == 0 then 0x1000000 else 0x100000

def latchHigh (s : State) (fn : Nat) (f : Tab W32 → Tab W32) : State :=
  { s with chip := modTenant s.chip fn (fun t => { t with latch := f t.latch }) }

def answer (s : State) (fn o v : Nat) : State := { s with chip := emit s.chip (.barData fn o (BitVec.ofNat 64 v)) }

/-- Free values that a read showed are spent. -/
def spent (s : State) : State := { s with chip := { s.chip with free := s.chip.free + 2 } }

/-- A 32-bit read at offset o, a multiple of 4 (00 R18): a low half latches the high half, which the next read of it returns. -/
def read32 (s : State) (fn o : Nat) : State :=
  match reg64 s fn (o / 8 * 8) with
  | none => spent (answer s fn o (reg32 s fn o))
  | some v =>
    if o % 8 == 0 then
      spent (answer (latchHigh s fn (fun l => tset l (o + 4) (BitVec.ofNat 32 (v / pow2 32)))) fn o (v % pow2 32))
    else match tget (tenantOf s.chip fn).latch o with
      | some h => answer (latchHigh s fn (fun l => terase l o)) fn o h.toNat
      | none => spent (answer s fn o (v / pow2 32))

/-- A 64-bit read at offset o, a multiple of 8: one register, or the two of its halves. -/
def read64 (s : State) (fn o : Nat) : State :=
  match reg64 s fn o with
  | some v => spent (answer s fn o v)
  | none => spent (answer s fn o (reg32 s fn o + field (reg32 s fn (o + 4)) 32 32))

/-- An access that R17 admits: 4 or 8 bytes wide, naturally aligned. -/
def natural (o width : Nat) : Bool := (width == 4 || width == 8) && o % width == 0

/-- A host read of BAR0; the BARs of a VF whose teardown runs read 0 but for the status word (03 R99), and so does an access that is
not natural (00 R17). -/
def barRead (s : State) (fn o width : Nat) : State :=
  if !reachable s fn || barSize fn ≤ o then s
  else
    let s := hostWake s
    if !natural o width || (tornDown s fn && o != 8) then answer s fn o 0
    else if width == 4 then read32 s fn o else read64 s fn o

/-! ### Configuration space (03 R91 to R101) -/

/-- R93, and no others. -/
def capabilitiesOf (fn : Nat) : List Capability :=
  if fn == 0 then
    [.advancedErrorReporting, .ari, .sriov, .msix, .resizableBar, .vfResizableBar, .aspmL1, .l1PmSubstates, .latencyToleranceReporting]
  else [.advancedErrorReporting, .ari, .msix]

/-- Tag bits of device-issued reads (03 R92). -/
def tagBits (l : Link) : Nat := if l.flit then 14 else 10

/-- A 64-bit BAR of `size` bytes as it reads: half 0 holds the type bits. -/
def barNat (base : W64) (size : Nat) (prefetch : Bool) (half : Nat) : Nat :=
  let b := base.toNat / size * size
  if half == 0 then b % pow2 32 + (if prefetch then 12 else 4) else b / pow2 32

/-- BARs 0 to 5 of PF0, and the VF BARs (03 R101). -/
def pfBar (s : State) (i : Nat) : Nat :=
  if i < 2 then barNat s.link.bar0 0x1000000 false i
  else if i < 4 then barNat s.link.bar2 (pow2 (tenantOf s.chip 0).bar2Log2) true (i - 2)
  else 0

def vfBar (s : State) (i : Nat) : Nat :=
  if i < 2 then barNat s.link.vfBar0 0x100000 false i
  else if i < 4 then barNat s.link.vfBar2 (pow2 (tenantOf s.chip 1).bar2Log2) true (i - 2)
  else 0

/-- PCIe's reset values of the Advanced Error Reporting registers (log 86): severity of uncorrectable errors, mask of correctable ones. -/
def aerReset (o : Nat) : W32 := if o == 0x0C then 0x00462030 else if o == 0x14 then 0x00002000 else 0

def aerOf (t : Tenant) (o : Nat) : W32 := (tget t.aer o).getD (aerReset o)

/-- A configuration register of function fn as it reads. -/
def cfgNat (s : State) (fn : Nat) : CfgReg → Nat
  | .vendorDevice => 0x1D7F + field (if fn == 0 then 0x7A70 else 0x7A71) 16 16
  | .classCode => 0x120000
  | .subsystem => subsystemOf s
  | .memorySpaceEnable => boolNat (tenantOf s.chip fn).memSpace
  | .msixEnable => boolNat (tenantOf s.chip fn).msixEnable
  | .functionMask => boolNat (tenantOf s.chip fn).functionMask
  | .deviceControl => (tenantOf s.chip fn).devCtl.toNat
  | .tagBits => tagBits s.link
  | .bar i => if fn == 0 then pfBar s i else 0
  | .vfBar i => if fn == 0 then vfBar s i else 0
  | .aspmL12 => if fn == 0 then boolNat s.halter.l12 else 0
  | .ltrEnable => if fn == 0 then boolNat s.link.ltr else 0
  | .ariHierarchy => if fn == 0 then boolNat s.link.ari else 0
  | .initialVfs => if fn == 0 then 31 else 0
  | .totalVfs => if fn == 0 then 31 else 0
  | .numVfs => if fn == 0 then s.link.numVfs else 0
  | .vfEnable => if fn == 0 then boolNat s.link.vfEnable else 0
  | .vfOffset => if fn == 0 then 1 else 0
  | .vfStride => if fn == 0 then 1 else 0
  | .aer o => (aerOf (tenantOf s.chip fn) o).toNat

/-! ### Writes -/

/-- Word j of window entry i. -/
def writeWindow (c : Chip) (t i j v : Nat) : Chip :=
  let w := windowOf c t i
  let lo := fun (x : W64) => BitVec.ofNat 64 (x.toNat / pow2 32 * pow2 32 + v)
  let hi := fun (x : W64) => BitVec.ofNat 64 (x.toNat % pow2 32 + field v 32 32)
  if j == 6 then (if bit v 0 then setValid c t i v else clearValid c t i v)
  else if inForce w then c
  else if j == 0 then setWindow c t i { w with base := lo w.base }
  else if j == 1 then setWindow c t i { w with base := hi w.base }
  else if j == 2 then setWindow c t i { w with size := lo w.size }
  else if j == 3 then setWindow c t i { w with size := hi w.size }
  else if j == 4 then setWindow c t i { w with bar2Off := lo w.bar2Off }
  else if j == 5 then setWindow c t i { w with bar2Off := hi w.bar2Off }
  else c

/-- A dword of the MSI-X table. -/
def writeMsix (c : Chip) (fn v j x : Nat) : Chip :=
  let m := msixOf (tenantOf c fn) v
  if j == 0 then setMsix c fn v { m with addr := BitVec.ofNat 64 (m.addr.toNat / pow2 32 * pow2 32 + x) }
  else if j == 1 then setMsix c fn v { m with addr := BitVec.ofNat 64 (m.addr.toNat % pow2 32 + field x 32 32) }
  else if j == 2 then setMsix c fn v { m with data := BitVec.ofNat 32 x }
  else if bit x 0 then setMsix c fn v { m with masked := true }
  else unmaskVector c fn v

/-- TP_SRC_MASK[w]: only bits of sources that the tenant owns are stored. -/
def writeMask (c : Chip) (fn w v : Nat) : Chip :=
  modTenant c fn (fun t => { t with unmasked := (List.range 32).foldl (fun l b =>
    let s := 32 * w + b
    if srcOwner c s != some fn then l else if bit v b then removeNat l s else insertNat l s) t.unmasked })

/-- CNT_GROUP[g] (15 R449). -/
def writeCntGroup (c : Chip) (g v : Nat) : Chip :=
  let v := v % 64
  if g < 16 || 128 ≤ g || (tget c.counters.groups g).getD 0 == v then c else
  let k := c.counters
  let mine := fun (i : Nat) => i / 32 == g
  let sel := k.sel.map (fun p => (p.1, if mine p.1 then { p.2 with event := 0 } else p.2))
  { c with counters := { k with groups := tset k.groups g v, sel := sel, value := k.value.filter (fun p => !mine p.1) } }

/-- RELEASE (15 R458). -/
def releaseFreeze (c : Chip) : Chip := { c with counters := { c.counters with heldBank := none } }

/-- CONS of the global error queue: a value that would give more than C records is not taken (04 R132). -/
def writeErrCons (c : Chip) (v : Nat) : Chip :=
  if (c.errq.prod - BitVec.ofNat 32 v).toNat ≤ 4096 then { c with errq := { c.errq with cons := BitVec.ofNat 32 v } } else c

def writeWatch (c : Chip) (i v : Nat) : Chip :=
  let w : WatchEntry :=
    { en := bit v 31, sense := if bits v 18 16 < 5 then bits v 18 16 else (watchOf c i).sense, hfilter := bits v 15 8, line := bits v 3 0 }
  { c with rein := { c.rein with watch := tset c.rein.watch i w } }

/-- Channel flags (W1C). -/
def clearChanFlags (c : Chip) (fn v : Nat) : Chip :=
  modChan c fn (fun ch => { ch with reqOverrun := ch.reqOverrun && !(bit v 0 && clears c fn 1),
                                    rspHeadBad := ch.rspHeadBad && !(bit v 1 && clears c fn 2) })

def writeReqBytes (c : Chip) (fn o v : Nat) : Chip := modChan c fn (fun ch => { ch with reqBytes := writeBytes ch.reqBytes o (toLe 4 v) })

/-- Writes to regions that change the chip part alone. -/
def chipWrite (c : Chip) (e : Env) (fn o v : Nat) (level : Bool) : Chip :=
  if o == 8 then (if bit v 9 && clears c fn 0 then modTenant c fn (fun t => { t with winChanged := false }) else c)
  else if 0x800 ≤ o && o < 0x1000 then
    if fn == 0 then c
    else if o == 0x800 then tailWrite c fn (BitVec.ofNat 32 v)
    else if o == 0x818 then headWrite c fn (BitVec.ofNat 32 v)
    else if o == 0x820 then clearChanFlags c fn v
    else if 0xA00 ≤ o && o < 0xC00 then writeReqBytes c fn (o - 0xA00) v
    else c
  else if 0x1800 ≤ o && o < 0x1900 then writeMask c fn ((o - 0x1800) / 4) v
  else if 0x20000 ≤ o && o < 0x28000 then (if o % 8 == 0 then doorbell c e fn ((o - 0x20000) / 8) (BitVec.ofNat 32 v) else c)
  else if 0x40000 ≤ o && o < 0x40000 + 16 * vectorCount fn then writeMsix c fn ((o - 0x40000) / 16) (o % 16 / 4) v
  else if fn != 0 then c
  else if 0x100000 ≤ o && o < 0x104000 then writeReqBytes c 0 (o - 0x100000) v
  else if o == 0x108000 then tailWrite c 0 (BitVec.ofNat 32 v)
  else if o == 0x108018 then headWrite c 0 (BitVec.ofNat 32 v)
  else if o == 0x108020 then clearChanFlags c 0 v
  else if 0x200000 ≤ o && o < 0x220000 then
    (if o % 0x1000 < 0x800 then writeWindow c ((o - 0x200000) / 0x1000) (o % 0x1000 / 32) (o % 32 / 4) v else c)
  else if o == 0x300008 then writeErrCons c v
  else if 0x400000 ≤ o && o < 0x404000 then
    let src := (o - 0x400000) / 8
    let old := srcCfgNat c src
    writeSrcCfg c src (if o % 8 == 0 then old / pow2 32 * pow2 32 + v else old % pow2 32 + field v 32 32) level
  else if 0x406000 ≤ o && o < 0x406100 then writeGroupOwner c ((o - 0x406000) / 4) v
  else if o == 0x406200 then hostEoi c v
  else if 0x406300 ≤ o && o < 0x406340 then writeWatch c ((o - 0x406300) / 4) v
  else if 0x518000 ≤ o && o < 0x518200 then writeCntGroup c ((o - 0x518000) / 4) v
  else if o == 0x519010 then
    let c := { c with counters := { c.counters with pinBroadcast := bit v 1 } }
    if bit v 0 then releaseFreeze c else c
  else c

/-- Registers of the Halter island and BRD_IFACE_REQ. -/
def islandWrite (s : State) (o v : Nat) : State :=
  let h := s.halter
  if o == 0x108028 then { s with farrier := { s.farrier with ifaceReq := BitVec.ofNat 16 (v / 65536) } }
  else if o == 0x708000 then
    { s with halter := { h with haltEn := bit v 31, dozeEn := bit v 30,
                                haltDelayS := if bits v 23 16 == 0 then h.haltDelayS else bits v 23 16,
                                dozeDelayMs := if bits v 15 0 == 0 then h.dozeDelayMs else bits v 15 0 } }
  else if o == 0x708010 then { s with halter := { h with gpioOe := BitVec.ofNat 8 (bits v 15 8), gpioOut := BitVec.ofNat 8 (bits v 7 0) } }
  else s

/-- A 32-bit write. -/
def write32 (s : State) (fn o v : Nat) (level : Bool) : State :=
  let s := onChip s (fun c e => chipWrite c e fn o v level)
  if fn == 0 then islandWrite s o v else s

/-- A host write of BAR0; one that R17 does not admit is ignored. -/
def barWrite (s : State) (fn o width : Nat) (v : W64) (level : Bool) : State :=
  if barSize fn ≤ o then s else
  onHost s fn (fun s =>
    if !natural o width then s
    else if width == 8 then write32 (write32 s fn o (v.toNat % pow2 32) level) fn (o + 4) (v.toNat / pow2 32) level
    else write32 s fn o (v.toNat % pow2 32) level)

/-- A configuration write to function fn. -/
def onConfig (s : State) (fn : Nat) (f : State → State) : State :=
  if s.chip.dev != .off && s.chip.linkUp && fn < 32 && (tenantOf s.chip fn).present then f (hostWake s) else s

/-- Messages that a function-wide unmask or enable lets out. -/
def sendAll (c : Chip) (fn : Nat) : Chip := (List.range (vectorCount fn)).foldl (fun c v => sendMsix c fn v) c

def configWrite (s : State) (fn : Nat) (f : Tenant → Tenant) (send : Bool) : State :=
  onConfig s fn (fun s =>
    let c := modTenant s.chip fn f
    { s with chip := if send then sendAll c fn else c })

/-- A configuration read; a host access, it wakes the device. -/
def configRead (s : State) (fn : Nat) (o : State → Output) : State :=
  onConfig s fn (fun s => { s with chip := emit s.chip (o s) })

/-- Half `i` of a BAR takes the bits of v. -/
def setHalf (w : W64) (i v : Nat) : W64 :=
  if i == 0 then BitVec.ofNat 64 (w.toNat / pow2 32 * pow2 32 + v) else BitVec.ofNat 64 (w.toNat % pow2 32 + field v 32 32)

def setPfBar (l : Link) (i v : Nat) : Link :=
  if i < 2 then { l with bar0 := setHalf l.bar0 i v } else if i < 4 then { l with bar2 := setHalf l.bar2 (i - 2) v } else l

def setVfBar (l : Link) (i v : Nat) : Link :=
  if i < 2 then { l with vfBar0 := setHalf l.vfBar0 i v } else if i < 4 then { l with vfBar2 := setHalf l.vfBar2 (i - 2) v } else l

/-- A write of an Advanced Error Reporting register: the two status registers are cleared by ones. -/
def writeAer (t : Tenant) (o v : Nat) : Tenant :=
  let old := aerOf t o
  let w := BitVec.ofNat 32 v
  if o == 4 || o == 0x10 then { t with aer := tset t.aer o (old &&& ~~~w) }
  else if o == 8 || o == 0x0C || o == 0x14 || o == 0x18 then { t with aer := tset t.aer o w }
  else t

/-- A configuration register of PF0 that the whole device shares. -/
def onPf0 (s : State) (fn : Nat) (f : State → State) : State := if fn == 0 then onConfig s 0 f else s

/-- A configuration write of v; rows of their own write VF Enable with NumVFs, and the BAR2 sizes. -/
def writeConfig (s : State) (fn v : Nat) : CfgReg → State
  | .memorySpaceEnable => configWrite s fn (fun t => { t with memSpace := bit v 0 }) false
  | .msixEnable => configWrite s fn (fun t => { t with msixEnable := bit v 0 }) true
  | .functionMask => configWrite s fn (fun t => { t with functionMask := bit v 0 }) true
  | .deviceControl => configWrite s fn (fun t => { t with devCtl := BitVec.ofNat 16 v }) false
  | .bar i => onPf0 s fn (fun s => { s with link := setPfBar s.link i (v % pow2 32) })
  | .vfBar i => onPf0 s fn (fun s => { s with link := setVfBar s.link i (v % pow2 32) })
  | .aspmL12 => onPf0 s fn (fun s => { s with halter := { s.halter with l12 := bit v 0 } })
  | .ltrEnable => onPf0 s fn (fun s => { s with link := { s.link with ltr := bit v 0 } })
  | .ariHierarchy => onPf0 s fn (fun s => { s with link := { s.link with ari := bit v 0 } })
  | .aer o => configWrite s fn (fun t => writeAer t o v) false
  | _ => s

def registerWrite (s : State) (fn : Nat) (target : RegTarget) (v : W64) : State :=
  match target with
  | .bar0 off width level => barWrite s fn off width v level
  | .config r => writeConfig s fn v.toNat r
  | .coreFields src => if s.chip.dev == .off then s else onChip s (fun c _ => writeCoreCfg c src v.toNat)
  | .coreControl core => if s.chip.dev == .off then s else onChip s (fun c _ => writeCoreControl c core v.toNat)

/-! ### The rows -/

/-- A host access to function fn that changes the chip part alone. -/
def hostChip (s : State) (fn : Nat) (f : Chip → Env → Chip) : State := onHost s fn (fun s => onChip s f)

def execDoorbell (fn slot : Nat) (value : W32) (s : State) : Host.Outcome State Fault Refusal :=
  .next (hostChip s fn (fun c e => doorbell c e fn slot value))

/-- A VF whose teardown runs answers with zeros (03 R99). -/
def execBar2Read (fn off len : Nat) (s : State) : Host.Outcome State Fault Refusal :=
  .next (if reachable s fn && tornDown s fn then
      onChip (hostWake s) (fun c _ => emit c (.bar2Data fn (List.replicate len 0) false))
    else hostChip s fn (fun c _ => bar2Read c fn off len))

def execBar2Write (fn off : Nat) (data : List Byte) (s : State) : Host.Outcome State Fault Refusal :=
  .next (hostChip s fn (fun c _ => bar2Write c fn off data))

/-- LOW_HALF_READ, and every other host read of a register. -/
def execLowHalfRead (fn : Nat) (target : ReadTarget) (s : State) : Host.Outcome State Fault Refusal :=
  .next (match target with
    | .bar0 off width => barRead s fn off width
    | .config r => configRead s fn (fun s => .cfgData fn r (cfgNat s fn r))
    | .capabilities => configRead s fn (fun _ => .capabilities fn (capabilitiesOf fn)))

def execRegisterWrite (fn : Nat) (target : RegTarget) (value : W64) (s : State) : Host.Outcome State Fault Refusal :=
  .next (registerWrite s fn target value)

def execWindowSetValid (tenant win : Nat) (control : W64) (s : State) : Host.Outcome State Fault Refusal :=
  .next (hostChip s 0 (fun c _ => setValid c tenant win control.toNat))

def execWindowFillDone (tenant win : Nat) (s : State) : Host.Outcome State Fault Refusal :=
  .next (onChip s (fun c _ => fillDone c tenant win))

/-- What running work of tenant t had done before a window of it is cleared: those accesses passed the check (10 R329). -/
def noteWork (c : Chip) (e : Env) (t : Nat) (stops : List Stop) : Chip :=
  stops.foldl (fun c s =>
    match cmdOf c s.q s.seq with
    | some k =>
      if k.owner == t && k.onEngine then
        let w := partialWork c e s.q k s
        updCmd w.1 s.q k.seq (fun _ => { w.2 with accrued := ((cmdOf w.1 s.q k.seq).getD k).accrued })
      else c
    | none => c) c

def execWindowClearValid (tenant win : Nat) (clear : WindowClear) (s : State) : Host.Outcome State Fault Refusal :=
  .next (hostChip s 0 (fun c e => clearValid (noteWork c e tenant clear.stops) tenant win clear.control.toNat))

def execRequestTailWrite (fn : Nat) (value : W32) (s : State) : Host.Outcome State Fault Refusal :=
  .next (hostChip s fn (fun c _ => tailWrite c fn value))

def execResponseHeadWrite (fn : Nat) (value : W32) (s : State) : Host.Outcome State Fault Refusal :=
  .next (hostChip s fn (fun c _ => headWrite c fn value))

def execRnSrcCfgWrite (src : Nat) (value : W64) (level : Bool) (s : State) : Host.Outcome State Fault Refusal :=
  .next (hostChip s 0 (fun c _ => writeSrcCfg c src value.toNat level))

def execRnGroupOwnerWrite (group : Nat) (value : W32) (s : State) : Host.Outcome State Fault Refusal :=
  .next (hostChip s 0 (fun c _ => writeGroupOwner c group value.toNat))

def execVectorUnmask (fn vector : Nat) (s : State) : Host.Outcome State Fault Refusal :=
  .next (hostChip s fn (fun c _ => unmaskVector c fn vector))

/-- A source number above 2,047 is spurious (12 R376). -/
def execRnHostEoi (src : Nat) (s : State) : Host.Outcome State Fault Refusal :=
  .next (hostChip s 0 (fun c _ => hostEoi c src))

def execFreezeRelease (s : State) : Host.Outcome State Fault Refusal := .next (hostChip s 0 (fun c _ => releaseFreeze c))

def execCntGroupWrite (group : Nat) (value : W32) (s : State) : Host.Outcome State Fault Refusal :=
  .next (hostChip s 0 (fun c _ => writeCntGroup c group value.toNat))

end Sys2Proof.Machine
end

