-- ==== Sys2Proof/Machine/BeatDomains.lean ====
section
/-! DEFINITION. Beat domains (06 R203 to R211): boundaries, edges of BEAT_SYNC_IN, FREE_RUN, and the two requests' effects. -/

namespace Sys2Proof.Machine

def setBeatState (s : State) (d : Nat) (b : Beat) : State := { s with beats := tset s.beats d b }

/-- Pins as `Output.pin` names them: 0 BEAT_OUT, 1 FREEZE_OUT. -/
def setBeatPin (s : State) (v : Bool) : State :=
  { s with halter := { s.halter with beatOut := v, beatRise := if v then s.chip.clock else s.halter.beatRise }, chip := emit s.chip (.pin 0 v) }

/-- The first boundary after the start of a command is its deadline (05 R169). -/
def dueAt (t : Nat) (k : Cmd) : Cmd := if k.started && k.deadline.isNone && k.startGait < t then { k with deadline := some t } else k

/-- A boundary at t of domain d, for the commands of queue q whose context is bound to it (05 R169). -/
def passQueue (c : Chip) (e : Env) (t q : Nat) : Chip :=
  let c := modQueue c q (fun x =>
    { x with lastMark := if x.lastMark == some 0 then some t else x.lastMark,
             cmds := x.cmds.map (dueAt t), lists := x.lists.map (fun l => { l with cmd := dueAt t l.cmd }) })
  eachCmd c q (fun k => k.startGait < t) (fun c k =>
    match k.phase with
    | .beat n => if n ≤ 1 then complete c e q k stOk 0 none else updCmd c q k.seq (fun k => { k with phase := .beat (n - 1) })
    | _ => c)

def boundTo (c : Chip) (d : Nat) (x : Queue) : Bool :=
  match tget c.contexts x.ctx with | some y => y.beat == some d | none => false

/-- The state of a domain after its scheduled boundary. -/
def nextBeat (b : Beat) : Beat :=
  { b with last := b.next, next := ((b.next + b.period : Nat) + b.corr.getD 0).toNat, corr := none, edgeLast := b.edgeNext,
           edgeNext := false, beats := b.beats + 1 }

/-- BEAT_BOUNDARY: the scheduled boundary of domain d passes. -/
def passBoundary (s : State) (d : Nat) : State :=
  let b := beatOf (envOf s) d
  if !isUp s.chip || 8 ≤ d || s.chip.gait < b.next then s else
  let s := setBeatState s d (nextBeat b)
  let s := onChip s (fun c e =>
    arbitrate ((c.queues.filter (fun p => boundTo c d p.2)).foldl (fun c p => passQueue c e b.next p.1) c) e)
  if !b.out then s else setBeatPin (if s.halter.beatOut then setBeatPin s false else s) true

/-- The domain that follows BEAT_SYNC_IN. -/
def extDomain (s : State) : Option (Nat × Beat) := s.beats.find? (fun p => p.2.ext)

def clampInt (v m : Int) : Int := min (max v (-m)) m

/-- Two spacings within P ± ⌊P/16⌋. -/
def consistentRun (p : Nat) : List Nat → Bool
  | a :: b :: c :: _ => (((a : Int) - b - p).natAbs ≤ p / 16) && (((b : Int) - c - p).natAbs ≤ p / 16)
  | _ => false

/-- A relock at the edge t (06 R207). -/
def relock (b : Beat) (t : Nat) : Beat :=
  { b with next := max (t + b.period) (b.last + b.period), corr := none, edgeNext := false, relocks := satAdd b.relocks 1 0xFF,
           phaseErr := 0, state := 2, oobRun := [] }

/-- An edge at t, associated with `next` or with `last`, at offset o (06 R206, R207). -/
def countedEdge (b : Beat) (t : Nat) (toNext : Bool) (o : Int) : Beat × Bool :=
  let b := { b with phaseErr := clampInt o (2147483647 : Nat), edgeLast := b.edgeLast || !toNext, edgeNext := b.edgeNext || toNext }
  if o.natAbs ≤ b.period / 4 then
    let cor := clampInt o ((b.period / 8 : Nat) : Int)
    let b := { b with oobRun := [], state := 2 }
    (if toNext then { b with corr := some cor } else { b with next := ((b.last + b.period : Nat) + cor).toNat }, false)
  else
    let run := t :: b.oobRun
    let b := { b with oob := satAdd b.oob 1 0xFFFF, oobRun := run.take 2 }
    if consistentRun b.period run then (relock b t, true) else (b, false)

/-- BEAT_SYNC_EDGE at gait time t. -/
def syncEdge (s : State) (t : Nat) : State :=
  match extDomain s with
  | none => s
  | some (d, b) =>
    if !isUp s.chip || s.chip.gait < t then s else
    let toNext := !((t : Int) - b.last < (b.period / 2 : Nat))
    let b := { b with lastEdge := t }
    if (if toNext then b.edgeNext else b.edgeLast) then setBeatState s d { b with extra := satAdd b.extra 1 0xFFFF } else
    let r := countedEdge b t toNext ((t : Int) - (if toNext then b.next else b.last : Nat))
    let s := setBeatState s d r.1
    if r.2 then onChip s (fun c _ => raiseSource c (16 + d)) else s

/-- FREE_RUN of an EXTERNAL domain. -/
def freeRunNow (s : State) (d : Nat) : State :=
  let b := beatOf (envOf s) d
  if !isUp s.chip || 8 ≤ d || !b.ext || b.state == 3 || s.chip.gait < b.lastEdge + 4 * b.period then s else
  onChip (setBeatState s d { b with state := 3, freerunSeen := true, corr := none }) (fun c _ => raiseSource c (16 + d))

/-- The first START + n × P that lies at least 1 µs after now, with n of 0 or more: 06 R210 does not say whether a START far ahead
also fixes boundaries before it (the model's choice, log 82). -/
def firstAfter (start p now : Nat) : Nat := if now + 1000 ≤ start then start else start + ceilDiv (now + 1000 - start) p * p

/-- The domain after an accepted SET_BEAT_DOMAIN (06 R210). The 4 × P without an edge of 06 R208 count from the request, as from
an edge: the rule gives no start for a domain that has had none (the model's choice, log 82). -/
def reconfigured (b : Beat) (now : Nat) (ext out : Bool) (p start : Nat) : Beat :=
  let b := { b with period := p, ext := ext, out := out, state := if ext then 1 else 0, beats := 0, extra := 0, oob := 0, relocks := 0,
                    oobRun := [], lastEdge := now }
  if start == 0 then { b with corr := if ext then b.corr else none }
  else { b with next := firstAfter start p now, corr := none, edgeNext := false }

def i32Nat (v : Int) : Nat := ofInt 32 v

/-- GET_BEAT_DOMAIN's RESULT, bits 511:64 of the response. -/
def beatStatus (b : Beat) : Nat :=
  field b.last 64 64 + field b.next 128 64 + field b.period 192 32 + field (i32Nat b.phaseErr) 224 32 + field b.beats.toNat 256 32
    + field b.state 288 2 + field (boolNat b.ext) 290 1 + field (boolNat b.out) 291 1 + field (boolNat b.freerunSeen) 292 1
    + field b.relocks 296 8 + field b.extra 304 16 + field b.oob 320 16

def clearedBeat (b : Beat) : Beat := { b with freerunSeen := false, extra := 0, oob := 0, relocks := 0 }

def execBeatBoundary (domain : Nat) (s : State) : Host.Outcome State Fault Refusal := .next (passBoundary s domain)

/-- BEAT_OUT falls 10 µs after its rise (06 R209). -/
def execBeatOutPulseEnd (s : State) : Host.Outcome State Fault Refusal :=
  .next (if s.halter.beatOut && s.halter.beatRise + 10000 ≤ s.chip.clock then setBeatPin s false else s)

/-- BEAT_SYNC_EDGE: the domain takes the oldest accepted edge of source 5, whose time is t (12 R367). -/
def takeEdge (s : State) (t : Nat) : State :=
  match s.chip.rein.edges with
  | u :: r => if u == t then syncEdge { s with chip := { s.chip with rein := { s.chip.rein with edges := r } } } t else s
  | [] => s

def execBeatSyncEdge (t : Nat) (s : State) : Host.Outcome State Fault Refusal := .next (takeEdge s t)

def execFreeRun (domain : Nat) (s : State) : Host.Outcome State Fault Refusal := .next (freeRunNow s domain)

end Sys2Proof.Machine
end

