-- ==== Sys2Proof/Machine/ReinOps.lean ====
section
/-! DEFINITION. Rows of Rein (12 R365 to R376) and of the counter freeze (15 R455 to R458). -/

namespace Sys2Proof.Machine

/-- Rein runs in every state but OFF; its sensing half stops in DOZE and HALT (12 R377). -/
def sensing (s : State) : Bool := s.chip.dev != .off && (s.halter.power == .active || s.halter.power == .idle)

/-- The level of pin source `src`, changed at gait time t, has held for FILTER cycles of 40 ns since the filter's count last began
(12 R365). -/
def held (c : Chip) (src t : Nat) : Bool :=
  (tget c.rein.counting src).getD 0 ≤ t && t + 40 * (srcCfg c src).filter ≤ c.gait

/-- FILTER_ACCEPT (12 R365): the filter of a pin source accepts a change to `level`, synchronised at gait time t. -/
def execFilterAccept (src : Nat) (level : Bool) (t : Nat) (s : State) : Host.Outcome State Fault Refusal :=
  .next (if sensing s && isPin src && s.chip.rein.levels.contains src != level && held s.chip src t
    then onChip s (fun c e => acceptChange c e src level t true) else s)

/-- SOURCE_EVENT (12 R366): one occurrence on an event source that Farrier or a unit outside the other rows raises. -/
def execSourceEvent (src : Nat) (s : State) : Host.Outcome State Fault Refusal :=
  .next (if s.chip.dev != .off && !isPin src && src < 2048 then onChip (ungated s) (fun c _ => raiseSource c src) else s)

def execCoreDelivery (src : Nat) (s : State) : Host.Outcome State Fault Refusal :=
  .next (onChip s (fun c e => if e.gap || c.dev == .off then c else deliverCore c src))

def execCoreEoi (core src : Nat) (s : State) : Host.Outcome State Fault Refusal :=
  .next (onChip s (fun c _ => if c.dev == .off || 8 ≤ core then c else coreDone c core src))

def execMsiXMessage (fn vector : Nat) (s : State) : Host.Outcome State Fault Refusal :=
  .next (onChip s (fun c _ => if c.dev == .off || !(tenantOf c fn).present then c else sendMsix c fn vector))

/-- FREEZE_OUT (15 R456): in READY and WALK only (17 R491). -/
def setFreezePin (s : State) (v : Bool) : State :=
  { s with halter := { s.halter with freezeOut := v }, chip := emit s.chip (.pin 1 v) }

/-- FREEZE_LATCH: the pending freeze reaches T_F. -/
def latchNow (s : State) : State :=
  match s.chip.counters.pendingFreeze with
  | none => s
  | some p => if s.chip.gait < p.tf then s else
    let s := onChip s latchFreeze
    if isUp s.chip then setFreezePin s true else s

def execFreezeLatch (s : State) : Host.Outcome State Fault Refusal := .next (latchNow s)

def execFreezeOutPulseEnd (s : State) : Host.Outcome State Fault Refusal :=
  .next (if s.halter.freezeOut then setFreezePin s false else s)

def execFreezeBroadcastFrame (port tf : Nat) (id slice : W16) (s : State) : Host.Outcome State Fault Refusal :=
  .next (if (upPorts s.fabric).contains port then onChip (ungated s) (fun c e => freezeFrame c e port tf id slice) else s)

end Sys2Proof.Machine
end

