-- ==== Sys2Proof/Machine/Fabric.lean ====
section
/-! DEFINITION. The Zensen fabric (11 R333 to R345, R350 to R359): ports, discovery, frames at a hop, remote requests, and the gait
counter across chips. -/

namespace Sys2Proof.Machine

/-! ### Ports -/

/-- Ports answer in every state but OFF, and train only with ZREFCLK (17 R477, 11 R345). -/
def portsLive (s : State) (q : Nat) : Bool := s.chip.dev != .off && s.halter.zrefclk && q < 4

/-- HOPS that a neighbour's time frames report; 255 before one came. -/
def Port.hopCount (x : Port) : Nat := x.hops.getD 255

/-- The parent among trained ports: smallest HOPS, in the order 3, 1, 0, 2 (11 R356). -/
def parentOf (f : Fabric) (p : Place) : Option Nat :=
  if !p.planned || timeMaster p then none else
  [3, 1, 0, 2].foldl (fun b q =>
    let x := portOf f q
    if !x.trained || 255 ≤ x.hopCount then b
    else match b with | none => some q | some a => if x.hopCount < (portOf f a).hopCount then some q else some a) none

/-- The parent and HOPS follow the ports; the link to a new parent has not been measured, and its round trip is due (11 R357). -/
def retime (s : State) : State :=
  let p := placeNow s
  let f := s.fabric
  let par := parentOf f p
  let hops := match par with | some q => min 255 ((portOf f q).hopCount + 1) | none => if p.planned && !timeMaster p then 255 else 0
  let f := { f with parent := par, hops := hops }
  { s with fabric := if par == s.fabric.parent then f else { f with measured := false, asked := none, askAt := s.chip.clock } }

def setPort (s : State) (q : Nat) (x : Port) : State := { s with fabric := { s.fabric with ports := tset s.fabric.ports q x } }

/-- A port changes: a change of PORT_STATE raises the port's source (12 R360); GEN rises once, and what waited for a route may go on
(11 R339, R351). -/
def changePort (s : State) (q : Nat) (x : Port) : State :=
  let old := (portOf s.fabric q).state
  let s := retime (setPort s q x)
  if old == x.state then s
  else onChip s (fun c e => arbitrate (raiseGen (raiseSource c (24 + q))) e)

/-- The state of a port that has trained, or that has received a HELLO (11 R337). -/
def settled (p : Place) (q : Nat) (x : Port) : Nat :=
  if !x.trained then x.state
  else if x.heard then classify p q (x.hello.getD 0)
  else 1

/-- PORT_TRAINED: training, or retraining, completes; frames that a retraining port held are sent again (11 R334, R335), and what
waited for the port leaves. -/
def portTrained (s : State) (q : Nat) : State :=
  if !portsLive s q then s else
  let x := portOf s.fabric q
  let held := x.retraining.isSome
  let x := { x with trained := true, streak := 0, retraining := none, trainAt := if x.state == 0 then s.chip.clock else x.trainAt }
  let s := changePort s q { x with state := settled (placeNow s) q x }
  onChip s (fun c e => pump (if held then resendAll c q else c) e.fabric q)

/-- HELLO_RECEIVE: one with reserved bits set is ignored; a MISSING port that hears one has trained. -/
def helloIn (s : State) (q : Nat) (h : W256) : State :=
  let x := portOf s.fabric q
  if !portsLive s q || !hLegal h then s else
  let x := { x with hello := some h, heard := true, trained := x.trained || x.state == 3 }
  let y := { x with state := settled (placeNow s) q x }
  let s' := onChip (changePort s q y) (fun c e => pump c e.fabric q)
  if y.state == (portOf s.fabric q).state && (portOf s.fabric q).hello != some h && y.trained
  then onChip s' (fun c _ => raiseGen c) else s'

/-- The payload that this chip sends on port q (11 R336). -/
def helloOut (s : State) (q : Nat) : W256 :=
  let p := placeNow s
  BitVec.ofNat 256 (field (devCode s.chip.dev) 100 3 + field (boolNat p.planned) 103 1 + field q 104 2 + field p.x 112 8 + field p.y 120 8
    + field p.slice 128 16 + field p.block 144 16 + field (if p.planned then p.gen else 0) 160 32 + field s.fuses.serial.toNat 192 64)

/-- PORT_MISSING: nothing trained and nothing heard within 500 ms; a port that the plan does not link is DOWN. -/
def portMissing (s : State) (q : Nat) : State :=
  let x := portOf s.fabric q
  if !portsLive s q || x.state != 1 || x.heard || s.chip.clock < x.trainAt + 500000000 then s
  else if x.trained then s
  else changePort s q { x with state := if (partner (placeNow s) q).isSome then 3 else 0 }

/-- Training starts anew: after a loss of signal, a retraining that failed, or under REDISCOVER. The frames that the port held are
lost (log 90). -/
def retrain (s : State) (q : Nat) : State :=
  changePort { s with chip := dropSent s.chip q } q
    { portOf s.fabric q with state := 1, trained := false, heard := false, trainAt := s.chip.clock, streak := 0, retraining := none, errs := [],
                             hops := none, aligned := false }

/-- SIGNAL_LOSS: a port that had signal becomes TRAINING at once. -/
def signalLoss (s : State) (q : Nat) : State :=
  if portsLive s q && (portOf s.fabric q).trained then retrain s q else s

/-- DISCOVERY_COMPLETE: every port has left TRAINING or has been DOWN for 500 ms. -/
def discoveryDone (s : State) : State :=
  let ok := (List.range 4).all (fun q =>
    let x := portOf s.fabric q
    x.state != 1 && (x.state != 0 || x.trainAt + 500000000 ≤ s.chip.clock))
  if s.chip.dev == .off || s.chip.ctt.topoValid || !ok then s
  else { s with chip := { s.chip with ctt := { s.chip.ctt with topoValid := true } } }

/-- A lane fails (11 R334): the spare takes it and the held frames are resent, or the port retrains at half its data lanes. -/
def laneFails (s : State) (q : Nat) : State :=
  let x := portOf s.fabric q
  if !portsLive s q || !x.trained then s
  else if !x.spareInUse then
    let s := setPort s q { x with spareInUse := true, laneSwaps := BitVec.ofNat 32 (satAdd x.laneSwaps.toNat 1 0xFFFFFFFF) }
    onChip s (fun c _ =>
      let n := locIndex (raiseGen (raiseSource (resendAll c q) (24 + q)))
      raiseSource (postEvent n.2 0x21 5 0 n.1 0) 15)
  else onChip (setPort s q { x with half := true, retraining := some s.chip.clock })
    (fun c _ => let n := locIndex (raiseGen c); postEvent n.2 0x21 5 1 n.1 0)

/-- Frame errors of a lane within the last second (11 R334). -/
def laneErrors (x : Port) (lane : Nat) : Nat := x.errs.countP (fun p => p.1 == lane)

/-- FRAME_CRC_ERROR (11 R333 to R335): an unacknowledged frame is retransmitted; the eighth time in a row is a link burst, and the port
retrains. A lane with more than 1,024 frame errors within 1 s fails. -/
def crcError (s : State) (q seqNo lane : Nat) : State :=
  let x := portOf s.fabric q
  match (linkTxOf s.chip q).sent.find? (fun f => f.seqNo == seqNo) with
  | none => s
  | some f =>
    if !portsLive s q || !x.trained || x.retraining.isSome then s else
    let n := if x.streak != 0 && x.seqNo == seqNo then x.streak + 1 else 1
    let errs := (lane, s.chip.clock) :: x.errs.filter (fun p => s.chip.clock < p.2 + 1000000000)
    let x := { x with seqNo := seqNo, streak := n % 8, errs := errs, retries := BitVec.ofNat 64 (satAdd x.retries.toNat 1 0xFFFFFFFFFFFFFFFF) }
    let s := onChip s (fun c _ => emit c f.body)
    let s := if n < 8 then setPort s q x
      else onChip (setPort s q { x with bursts := BitVec.ofNat 32 (satAdd x.bursts.toNat 1 0xFFFFFFFF), retraining := some s.chip.clock })
        (fun c _ => raiseSource c (24 + q))
    if laneErrors x lane ≤ 1024 then s
    else laneFails (setPort s q { portOf s.fabric q with errs := errs.filter (fun p => p.1 != lane) }) q

/-- A port that has not retrained within 10 ms becomes TRAINING; the transfers whose frames it held are open to a LINK fault (11 R335). -/
def retrainFails (s : State) (q : Nat) : State :=
  match (portOf s.fabric q).retraining with
  | none => s
  | some t =>
    if s.chip.clock < t + 10000000 then s else
    let hit := ((linkTxOf s.chip q).sent.filterMap (fun f => f.owner)).eraseDups
    retrain (onChip s (fun c _ => { c with linkHit := c.linkHit ++ hit.filter (fun h => !c.linkHit.contains h) })) q

/-! ### Plan and routes -/

/-- Every port under a new plan (11 R343): trained ones are classified, the others train if the plan links them. -/
def replanPort (s : State) (q : Nat) : State :=
  let x := portOf s.fabric q
  let linked := (partner (placeNow s) q).isSome
  let st := if x.trained then settled (placeNow s) q x
    else if linked && x.state == 0 then 1
    else if !linked then 0
    else x.state
  let at_ := if !x.trained && linked && x.state == 0 then s.chip.clock else x.trainAt
  let y := { x with state := if s.halter.zrefclk then st else 0, trainAt := at_ }
  let s' := setPort s q y
  if x.state == y.state then s' else onChip s' (fun c _ => raiseSource c (24 + q))

def replan (s : State) (b : List Byte) : State :=
  let s := { s with fabric := { s.fabric with plan := b } }
  let s := retime ((List.range 4).foldl replanPort s)
  onChip s (fun c e => arbitrate (raiseGen c) e)

/-! ### Frames -/

/-- FRAME_HOP (11 R345): a routed frame that arrived on an UP port. -/
def frameHop (s : State) (q : Nat) (fr : Frame) : State :=
  if !portsLive s q || (portOf s.fabric q).state != 2 then s
  else onChip s (fun c e =>
    if fr.slice.toNat != e.place.slice then dropSlice c
    else sendTo c e.fabric e.place (if fr.rsp then 1 else 0) (fr.dest % 256) (fun p => .forwarded p fr) none)

/-- The answer of this chip as a target (11 R350, R351); a chip under live update drains (13 R406). -/
def serveRemote (c : Chip) (e : Env) (r : RemoteReq) : Chip × RemoteReply :=
  if c.dev == .bringup || c.dev == .hold || e.gap then (c, .retry)
  else if c.dev == .walk then (raiseRefused c, .degraded)
  else match targetCheck c r.token r.tenant r.isWrite r.off r.length with
  | some (st, w) => (raiseRefused c, if st == stHandle then .faultHandle else .faultWindow w)
  | none =>
    match (tokenOf c r.token).bind (fun t => (tget c.mems t.2.mem).map (fun m => (t.2.mem, m))) with
    | none => (raiseRefused c, .faultHandle)
    | some (i, m) =>
      let a := m.at m.pub r.off
      if r.isWrite then (raiseStamp (storeDev c a ((List.range r.length).map (fun n => r.data.getD n 0))) i, .done [])
      else match readPoison c a r.length with
        | some l => (detectPoison c l 0, .poisoned (l * 64))
        | none => (cntHbm c 64 a r.length, .done (loadDev c a r.length))

/-- REMOTE_REQUEST: the last hop checks slice and entry too, and the answer is a routed frame of this chip (11 R345). -/
def remoteRequest (s : State) (r : RemoteReq) : State :=
  if s.chip.dev == .off then s else
  onChip (ungated s) (fun c e =>
    if r.slice.toNat != e.place.slice then dropSlice c
    else if (route e.fabric e.place e.place.num).1 != 4 then dropRoute c
    else
      let p := serveRemote c e r
      sendTo p.1 e.fabric e.place 1 (r.srcChip % 256) (fun o => .reply o (r.srcChip % 256) (mySlice e) r.tenant p.2) none)

/-- Every other member of the command's operation has started: the one of its tenant and signature with the same order (11 R352). -/
def allStarted (e : Env) (k : Cmd) (starts : List MemberStart) : Bool :=
  let a := outrideArgs k
  (List.range (a.h * a.w)).all (fun r => r == a.rank e.place || starts.any (fun s => s == { memberStart e k with rank := r }))

/-- COLLECTIVE_MATCH (11 R352): the members that have started, this one among them, may take their engines. -/
def collectiveMatch (c : Chip) (e : Env) (q seq : Nat) (starts : List MemberStart) : Chip :=
  match cmdOf c q seq with
  | some k => if k.phase == .collective && allStarted e k starts then arbitrate (updCmd c q seq (fun k => { k with phase := .preempted c.clock false })) e else c
  | none => c

/-! ### The gait counter -/

def signOf (v : Int) : Int := if v < 0 then -1 else if 0 < v then 1 else 0

def addGait (c : Chip) (v : Int) : Chip :=
  { c with gait := ((c.gait : Int) + v).toNat, rein := { c.rein with counting := [] } }

/-- An offset measurement (11 R358): before the end state it is kept for step 8; the first one after it makes the set if it is
positive; then the chip slews in its direction. -/
def measure (s : State) (off : Int) : State :=
  let f := { s.fabric with offset := off, measured := true }
  if s.chip.dev == .bringup then { s with fabric := f }
  else if !f.gaitSet then
    if 0 < off then { s with fabric := { f with gaitSet := true, slew := 0 }, chip := addGait s.chip off }
    else { s with fabric := { f with gaitSet := true, slew := signOf off } }
  else { s with fabric := { f with slew := signOf off } }

/-- A MGMT frame for a port that has trained. -/
def sendMgmt (s : State) (q : Nat) (o : Output) : State :=
  if portsLive s q && (portOf s.fabric q).trained then onChip s (fun c e => sendFrame c e.fabric q 2 o none) else s

/-- TIME_FRAME_RECEIVE (11 R356, R357): a frame of the neighbour, stamped t_a by this chip's counter, or a child's request, which is
answered with stamps t2 and t3. -/
def timeFrameIn (s : State) (q : Nat) (request : Bool) (carried hops : Nat) (aligned : Bool) : State :=
  let x := portOf s.fabric q
  if !portsLive s q || !x.trained then s
  else if request then sendMgmt s q (.timeReply q s.chip.gait s.chip.gait)
  else
    let s := retime (setPort s q { x with hops := some (min hops 255), aligned := aligned })
    if s.fabric.parent == some q && s.fabric.measured then measure s ((carried : Int) + s.fabric.delay - s.chip.gait) else s

/-- A child asks its parent for a round trip when the link comes up, and again every 10 s (11 R357). -/
def askParent (s : State) : State :=
  match s.fabric.parent with
  | none => s
  | some q =>
    if !portsLive s q || s.chip.clock < s.fabric.askAt then s else
    sendMgmt { s with fabric := { s.fabric with asked := some s.chip.gait, askAt := s.chip.clock + 10000000000 } } q (.timeRequest q s.chip.gait)

/-- ROUND_TRIP (11 R357): the parent's reply, with t2 and t3, to the request stamped t1 arrives at t4; both are stamps of this chip's
gait counter, so a reply with another t1, or a row at another moment than t4, is no event here. -/
def roundTrip (s : State) (q t1 t2 t3 t4 : Nat) : State :=
  if !portsLive s q || !(portOf s.fabric q).trained || s.fabric.parent != some q || s.fabric.asked != some t1 || s.chip.gait != t4 then s
  else
    let off := (((t2 : Int) - t1) + ((t3 : Int) - t4)) / 2
    let dly := (((t4 : Int) - t1) - ((t3 : Int) - t2)) / 2
    measure { s with fabric := { s.fabric with delay := dly, asked := none } } off

/-- What each timebase cycle does on the ports: acknowledgements come back, retraining fails, and a round trip falls due. -/
def fabricTick (s : State) : State :=
  let s := (List.range 4).foldl retrainFails s
  askParent (onChip s (fun c e => (List.range 4).foldl (ackLink e.fabric) c))

/-! ### The rows -/

def execHelloSend (port : Nat) (s : State) : Host.Outcome State Fault Refusal :=
  .next (sendMgmt s port (.hello port (helloOut s port)))

def execHelloReceive (port : Nat) (payload : W256) (s : State) : Host.Outcome State Fault Refusal := .next (helloIn (ungated s) port payload)

def execPortTrained (port : Nat) (s : State) : Host.Outcome State Fault Refusal := .next (portTrained (ungated s) port)

def execPortMissing (port : Nat) (s : State) : Host.Outcome State Fault Refusal := .next (portMissing (ungated s) port)

/-- TRAINING_RETRY (14 R423): one more attempt of a port that has not trained; its outcome is PORT_TRAINED. A DOWN or MISSING port
keeps its state meanwhile (11 R337). -/
def execTrainingRetry (_port : Nat) (s : State) : Host.Outcome State Fault Refusal := .next s

def execSignalLoss (port : Nat) (s : State) : Host.Outcome State Fault Refusal := .next (signalLoss (ungated s) port)

def execDiscoveryComplete (s : State) : Host.Outcome State Fault Refusal := .next (discoveryDone s)

def execLaneFailure (port : Nat) (s : State) : Host.Outcome State Fault Refusal := .next (laneFails (ungated s) port)

def execFrameCrcError (port : Nat) (frame : BadFrame) (s : State) : Host.Outcome State Fault Refusal :=
  .next (crcError (ungated s) port frame.seqNo frame.lane)

def execFrameHop (port : Nat) (frame : Frame) (s : State) : Host.Outcome State Fault Refusal := .next (frameHop s port frame)

def execRemoteRequest (req : RemoteReq) (s : State) : Host.Outcome State Fault Refusal := .next (remoteRequest s req)

def execCollectiveMatch (q : Nat) (seen : MatchSeen) (s : State) : Host.Outcome State Fault Refusal :=
  .next (onChip s (fun c e => collectiveMatch c e q seen.seq seen.starts))

def execTimeFrameSend (port : Nat) (s : State) : Host.Outcome State Fault Refusal :=
  .next (sendMgmt s port (.timeFrame port s.chip.gait s.fabric.hops (alignedNow s.chip.dev s.fabric (placeNow s))))

def execTimeFrameReceive (port : Nat) (request : Bool) (carried hops : Nat) (aligned : Bool) (s : State) : Host.Outcome State Fault Refusal :=
  .next (timeFrameIn s port request carried hops aligned)

def execRoundTrip (port t1 t2 t3 t4 : Nat) (s : State) : Host.Outcome State Fault Refusal := .next (roundTrip s port t1 t2 t3 t4)

end Sys2Proof.Machine
end

