-- ==== Sys2Proof/Machine/Requests.lean ====
section
/-! DEFINITION. Management requests (04 R139 to R151, R498 to R500) and the operations on objects, rings, descriptors, tokens,
sources and counters (02, 07 R225 to R231, 09 R281 to R283, 11 R349, 12 R363, 15 R450, R451). -/

namespace Sys2Proof.Machine

/-! ### Taking a request and answering it -/

/-- A response: STATUS, DETAIL and the bits of RESULT at their places in the entry (04 R141). -/
structure Reply where
  st : Nat
  det : Nat
  res : Nat
  deriving DecidableEq, Repr

def refuse (det : Nat) : Reply := { st := stRefused, det := det, res := 0 }
def okReply (res : Nat) : Reply := { st := stOk, det := 0, res := res }
def badHandle : Reply := { st := stHandle, det := 0, res := 0 }
def badWindow : Reply := { st := stWindow, det := 0, res := 0 }
def versionMismatch : Reply := { st := stVersion, det := 0, res := 0 }

/-- What an operation gives: nothing yet (02 R82), a response later (14 R437), or a response now. -/
inductive Answer where
  | wait
  | later (s : State)
  | now (s : State) (p : Reply)

def reqSlot (c : Chip) (fn : Nat) : Nat := (tenantOf c fn).chan.reqHead.toNat % chanCap fn

/-- The oldest committed request entry of a channel. -/
def entryOf (c : Chip) (fn : Nat) : Nat := leNat (readBytes (tenantOf c fn).chan.reqBytes (64 * reqSlot c fn) 64)

/-- Farrier takes the request: the head advances. -/
def takeRequest (c : Chip) (fn : Nat) : Chip :=
  modChan { c with arrivals := c.arrivals.erase fn, reqCount := c.reqCount + 1 } fn (fun ch => { ch with reqHead := ch.reqHead + 1 })

def responseNat (r : Nat) (p : Reply) : Nat :=
  rqOp r + field p.st 8 8 + field (rqTag r).toNat 16 16 + field p.det 32 32 + p.res

/-- The response is posted, and source 32 + fn is raised after it. -/
def respond (c : Chip) (fn r : Nat) (p : Reply) : Chip :=
  let c := modChan c fn (fun ch =>
    { ch with rspBytes := writeBytes ch.rspBytes (64 * (ch.rspTail.toNat % chanCap fn)) (toLe 64 (responseNat r p)), rspTail := ch.rspTail + 1 })
  raiseSource c (32 + fn)

/-- The answer that the device state and the negotiation give (04 R144); none when the request is served. In HOLD the table speaks of a
VF's tail writes only; a VF's request committed before HOLD and still waiting is answered as PF0's others are (the model's choice,
log 83). -/
def stateAnswer (c : Chip) (fn op : Nat) : Option Reply :=
  match c.dev with
  | .off => some { st := stNotReady, det := 0, res := 0 }
  | .bringup => some { st := stNotReady, det := 0, res := 0 }
  | .hold => if fn == 0 && (op == 0x01 || (0x50 ≤ op && op ≤ 0x6F)) then none else some (refuse 3)
  | .ready =>
    if op == 0x01 then (if fn != 0 && !negotiated c 0 then some { st := stNotReady, det := 0, res := 0 } else none)
    else if negotiated c fn then none else some versionMismatch
  | .walk => if 0x10 ≤ op && op ≤ 0x16 then some { st := stDegraded, det := 0, res := 0 } else none

/-- The feature bit that an operation needs (04 R143, R151). -/
def rqFeature (op : Nat) : Option Nat :=
  if op == 0x19 then some featErrRing else if op == 0x23 then some featFreeze else if op == 0x24 then some featTrace else none

/-- A taken request that its operation need not see: by function, form, feature and owner, in that order (04 R142, R143). -/
def formAnswer (c : Chip) (fn r : Nat) : Option Reply :=
  let op := rqOp r
  if !rqDefined op then some (refuse 1)
  else if fn != 0 && rqPf0Only op then some (refuse 4)
  else if rqIllegal fn r then some (refuse 1)
  else if (match rqFeature op with | some f => !hasFeat (featuresOf c fn) f | none => false) then some versionMismatch
  else if (rqOwnerBit op).isSome && !(tenantOf c (rqOwner fn r)).present then some (refuse 4)
  else none

/-- A request is in execution: a live update whose response is still to come (14 R437). -/
def busyFarrier (f : Farrier) : Bool := match f.update with | .none => false | _ => true

/-- Operations that only read (04 R143, 14 R434). -/
def rqReads (op : Nat) : Bool := [0x22, 0x25, 0x46, 0x52, 0x71, 0x79].contains op

/-- Posts the response, after a checkpoint where the request has changed state (14 R431); whatever was waiting may go on. -/
def finish (s : State) (fn r : Nat) (p : Reply) : State :=
  onChip s (fun c e => arbitrate (respond (if p.st == stOk && !rqReads (rqOp r) then checkpoint c e else c) fn r p) e)

/-- Memory objects that a request names as a source or destination, and holds while it is in execution (02 R81). -/
def requestHolds (c : Chip) (fn r : Nat) : List Handle :=
  let h := fieldHandle r 95
  if [0x16, 0x1A, 0x22, 0x78].contains (rqOp r) && handleOk c (rqOwner fn r) [3] h then [h] else []

/-- Takes the next request if it is one of function `fn` whose OP satisfies `ok`, and executes it. A poisoned entry completes with
REFUSED (10 R324). A request whose hold does not fit waits (02 R82). -/
def onRequest (s : State) (fn : Nat) (ok : Nat → Bool) (f : State → Nat → Answer) : State :=
  let c := s.chip
  let r := entryOf c fn
  if c.dev == .off || s.halter.power != .active || busyFarrier s.farrier || nextFn c != some fn || !ok (rqOp r) then s else
  let t := { s with chip := takeRequest c fn }
  match stateAnswer c fn (rqOp r) with
  | some p => finish t fn r p
  | none =>
    if (tenantOf c fn).chan.poisoned.contains (reqSlot c fn) then finish t fn r (refuse 1) else
    match formAnswer c fn r with
    | some p => finish t fn r p
    | none =>
      let hs := requestHolds c fn r
      if !hs.all (refRoom c) then s else
      match f { t with chip := hs.foldl takeRef t.chip } r with
      | .wait => s
      | .later u => u
      | .now u p => onChip (finish u fn r p) (fun c _ => dropRefs c hs)

/-- An operation that changes the chip part alone. -/
def chipAnswer (s : State) (f : Chip → Env → Option (Chip × Reply)) : Answer :=
  match f s.chip (envOf s) with
  | some (c, p) => .now { s with chip := c } p
  | none => .wait

def chipRequest (s : State) (fn op : Nat) (f : Chip → Env → Nat → Option (Chip × Reply)) : State :=
  onRequest s fn (fun o => o == op) (fun s r => chipAnswer s (fun c e => f c e r))

/-! ### Arguments -/

/-- The owning tenant of an operation without OWNER: through PF0 that of the object it names (log 25). -/
def actor (c : Chip) (fn : Nat) (h : Handle) : Nat :=
  if fn == 0 then (match objOf c h with | some (o, _) => o | none => 0) else fn

/-- A DEVICE object named by tenant t (02 R58, R65). -/
def deviceObj (c : Chip) (t : Nat) (h : Handle) : Option (Nat × MemObj) :=
  if handleOk c t [3] h then
    match tget c.mems (hIndex h) with | some m => if m.kind == .device then some (hIndex h, m) else none | none => none
  else none

/-- A management read of [off, off + n) of an object's half: the bytes, or none where a line is poisoned, which is then detected
(04 R499). -/
def requestRead (c : Chip) (a n : Nat) : Chip × Option (List Byte) :=
  match readPoison c a n with
  | some l => (detectPoison c l 6, none)
  | none => (cntHbm c 64 a n, some (loadDev c a n))

/-! ### NEGOTIATE (04 R145 to R150) -/

/-- D(m) of 04 R149. -/
def featuresUpTo (m : Nat) : W128 :=
  (if 1 ≤ m then 0x7 else 0) ||| (if 2 ≤ m then 0x78 else 0) ||| (if 3 ≤ m then 0x180 else 0) ||| (if 4 ≤ m then 0x600 else 0)

/-- Bits that only PF0 may agree: BEAT_SYNC_EXT, FREEZE_TRIGGER, LIVE_UPDATE. -/
def pf0Features : W128 := 0x188

def ownsObjects (c : Chip) (t : Nat) : Bool :=
  c.contexts.any (fun p => p.2.owner == t) || c.queues.any (fun p => p.2.owner == t) || c.mems.any (fun p => p.2.owner == t)
    || c.hitches.any (fun p => p.2.owner == t) || c.events.any (fun p => p.2.owner == t)

def fwResult (i : FwImage) : Nat := field i.major.toNat 80 16 + field i.minor.toNat 64 16 + field i.features.toNat 256 128

/-- The agreement of a request with an image that offers its major. -/
def agree (fn : Nat) (i : FwImage) (r : Nat) : Agreement :=
  let minor := min (bits r 79 64) i.minor.toNat
  let fs : W128 := BitVec.ofNat 128 (bits r 255 128) &&& i.features &&& featuresUpTo minor
  let fs := if fn == 0 then fs else fs &&& ~~~pf0Features
  { major := i.major, minor := BitVec.ofNat 16 minor, features := fs, reqMinor := BitVec.ofNat 16 (bits r 79 64),
    reqFeatures := BitVec.ofNat 128 (bits r 255 128), response := fwResult i + field minor 96 16 + field fs.toNat 128 128 }

/-- Boundaries of every domain at READY (06 R203). -/
def startBeats (s : State) : State :=
  let p := Beat.reset.period
  let b := { Beat.reset with last := s.chip.gait / p * p, next := s.chip.gait / p * p + p }
  { s with beats := (List.range 8).map (fun d => (d, b)) }

def setDev (s : State) (d : DevState) : State := { s with chip := { s.chip with dev := d } }

/-- BEAT_OUT and FREEZE_OUT are low in every state other than READY and WALK (17 R491). -/
def pinsLow (s : State) : State :=
  let s := { s with halter := { s.halter with power := .active, idleSince := none, dozeSince := none } }
  let s := if s.halter.beatOut then setBeatPin s false else s
  if s.halter.freezeOut then setFreezePin s false else s

def negotiate (s : State) (fn r : Nat) : Answer :=
  match s.farrier.running with
  | none => .now s { st := stNotReady, det := 0, res := 0 }
  | some i =>
    let old := (tenantOf s.chip fn).agreed
    if bits r 95 80 != i.major.toNat then
      let hold := fn == 0 && old.isNone && isUp s.chip && !s.chip.tenants.any (fun p => p.2.agreed.isSome)
      .now (if hold then pinsLow (setDev s .hold) else s) { st := stRefused, det := 3, res := fwResult i }
    else
      let fresh :=
        let a := agree fn i r
        let s := { s with chip := modTenant s.chip fn (fun t => { t with agreed := some a }) }
        Answer.now (if s.chip.dev == .hold then startBeats (setDev s .ready) else s) (okReply a.response)
      match old with
      | none => fresh
      | some a =>
        if !ownsObjects s.chip fn then fresh
        else if bits r 79 64 == a.reqMinor.toNat && bits r 255 128 == a.reqFeatures.toNat then .now s (okReply a.response)
        else .now s (refuse 7)

/-! ### Creation (02 R51 to R68, R78, 04 R143) -/

/-- A handle for the next free index of a TYPE; REUSE as the index has it. -/
def newHandle (c : Chip) (ty : Nat) : Option (Nat × Handle × Chip) :=
  match takeIndex c (spaceOf ty) with
  | some (i, d) => some (i, mkHandle ty (reuseOf d (spaceOf ty) i) i, d)
  | none => none

/-- A creation within the quotas `need` (class and units), with its handle. -/
def create (c : Chip) (t ty : Nat) (need : List (Nat × Nat)) (f : Chip → Nat → Handle → Chip × Nat) : Chip × Reply :=
  if !need.all (fun n => quotaRoom c t n.1 n.2) then (c, refuse 2) else
  match newHandle c ty with
  | none => (c, refuse 2)
  | some (i, h, d) => let r := f d i h; (r.1, okReply (field h.toNat 64 32 + r.2))

def putContext (c : Chip) (i : Nat) (x : Context) : Chip := { c with contexts := tset c.contexts i x }
def putQueue (c : Chip) (i : Nat) (x : Queue) : Chip := { c with queues := tset c.queues i x }
def putMem (c : Chip) (i : Nat) (x : MemObj) : Chip := { c with mems := tset c.mems i x }
def putHitch (c : Chip) (i : Nat) (x : Hitch) : Chip := { c with hitches := tset c.hitches i x }
def putEvent (c : Chip) (i : Nat) (x : Event) : Chip := { c with events := tset c.events i x }

def firstRefs : Refs := { host := 1, dev := 0 }

def Util.zero : Util :=
  { clusterCycles := 0, specDiscard := 0, computeBusy := 0, groomBusy := 0, outriderBusy := 0, groomBytes := 0, outriderBytes := 0, busyIv := [] }

def classOf (n : Nat) : PrioClass := if n == 0 then .realtime else if n == 1 then .interactive else if n == 2 then .batch else .background

def createContext (c : Chip) (fn r : Nat) : Chip × Reply :=
  let t := rqOwner fn r
  if 256 ≤ charged c t 0 then (c, refuse 2) else
  create c t 1 [(0, 1)] (fun c i h =>
    let o : Context :=
      { handle := h, owner := t, refs := firstRefs, cls := classOf (bits r 65 64),
        beat := if bits r 71 68 == 0xF then none else some (bits r 71 68), slots := [], runnable := true, stopping := none,
        brk := none, bisect := none, util := Util.zero }
    (putContext c i o, 0))

/-- Address ranges of every ring held in memory, but for the ring `skip` (tenant, kind) that is replaced (04 R120). -/
def ringRanges (c : Chip) (skip : Option (Nat × Nat)) : List (Nat × Nat) :=
  let sq := fun (x : Queue) => match tget c.mems x.sq with | some m => [(m.addr + x.sqOff, 16 * pow2 x.sqLog2)] | none => []
  let one := fun (t k sz : Nat) (g : Option RecRing) => match g with
    | some g => if skip == some (t, k) then [] else [(ringBase c g, 64 + sz * pow2 g.log2)]
    | none => []
  c.queues.flatMap (fun p => (cqBase c p.2, 64 + 16 * pow2 p.2.cqLog2) :: sq p.2)
    ++ c.tenants.flatMap (fun p => one p.1 0 32 p.2.noticeRing ++ one p.1 1 64 p.2.errorRing ++ one p.1 2 64 p.2.traceRing)

/-- 04 R120 for a ring of `n` bytes at `off` in object m. -/
def ringPlaced (c : Chip) (m : MemObj) (off n : Nat) (skip : Option (Nat × Nat)) : Bool :=
  off % 4096 == 0 && off + n ≤ m.size && !m.double && !(ringRanges c skip).any (fun g => overlap (m.addr + off) n g.1 g.2)

/-- Doorbell slots of tenant t that hold no queue (03 R105). -/
def freeSlots (c : Chip) (t : Nat) : List Nat :=
  (List.range 4096).filter (fun d => !c.queues.any (fun p => p.2.owner == t && p.2.slot == d))

def queuesOf (c : Chip) (ctx : Nat) : Nat := c.queues.countP (fun p => p.2.ctx == ctx)

def createQueue (c : Chip) (fn r : Nat) : Option (Chip × Reply) :=
  let hc := fieldHandle r 95
  let hs := fieldHandle r 127
  let hq := fieldHandle r 159
  let so := bits r 255 192
  let co := bits r 319 256
  let sl := bits r 324 320
  let cl := bits r 332 328
  let t := actor c fn hc
  if sl < 8 || 20 < sl || cl < 6 || 16 < cl then some (c, refuse 1)
  else if !handleOk c t [1] hc then some (c, badHandle)
  else match deviceObj c t hs, deviceObj c t hq with
    | some (ms, os), some (mq, oq) =>
      let apart := !overlap (os.addr + so) (16 * pow2 sl) (oq.addr + co) (64 + 16 * pow2 cl)
      if !ringPlaced c os so (16 * pow2 sl) none || !ringPlaced c oq co (64 + 16 * pow2 cl) none || !apart then some (c, refuse 6)
      else if 16 ≤ queuesOf c (hIndex hc) then some (c, refuse 2)
      else if !(refRoom c hc && refRoom c hs && refRoom c hq) then none
      else match pick c (freeSlots c t) with
        | none => some (c, refuse 2)
        | some (d, c') =>
          let p := create c' t 2 [(1, 1)] (fun c i h =>
            let o : Queue :=
              { handle := h, owner := t, ctx := hIndex hc, slot := d, refs := firstRefs, sq := ms, cq := mq, sqOff := so,
                cqOff := co, sqLog2 := sl, cqLog2 := cl, head := 0, tail := 0, err := none, flags := 0, cmds := [], lists := [],
                segs := [], nextSeq := 0, prod := 0, cons := 0, owed := [], owedCount := 0, lastMark := none, bind := none }
            let c := putQueue c i o
            (storeDev (takeRef (takeRef (takeRef c hc) hs) hq) (oq.addr + co) (List.replicate 64 0), field d 96 12))
          some p
    | _, _ => some (c, badHandle)

/-- KIND, DOUBLE and SIZE of a memory object (02 R64). -/
def memoryForm (host double : Bool) (size : Nat) : Bool :=
  if host then !double && size % 4096 == 0 && 4096 ≤ size && size ≤ 0x100000000
  else size % 65536 == 0 && 65536 ≤ size && size ≤ 0x800000000

/-- Placements of `n` bytes inside window w that touch no live object, on 64 KiB granules. -/
def placements (c : Chip) (w : Window) (n : Nat) : List Nat :=
  if !w.valid || w.host then [] else
  ((List.range (w.size.toNat / 65536)).map (fun i => w.base.toNat + 65536 * i)).filter (fun a =>
    a + n ≤ w.base.toNat + w.size.toNat && !c.mems.any (fun p => p.2.kind == .device && overlap a n p.2.addr p.2.span))

/-- A home context that is not null (04 R143). -/
def homeOk (c : Chip) (t : Nat) (h : Handle) : Bool := h == 0 || handleOk c t [1] h
def homeOf (h : Handle) : Option Nat := if h == 0 then none else some (hIndex h)

/-- Order of creation, for the background filler (10 R315). -/
def bornNow (c : Chip) : Nat := c.clock * pow2 32 + c.reqCount.toNat

/-- The object's bytes before its response: zero, or pending (10 R314, R315). -/
def firstFill (c : Chip) (lazy : Bool) (a n : Nat) : Chip := if lazy then c else cntHbm (zeroDev c a n) 72 a n

def createMemory (c : Chip) (fn r : Nat) : Chip × Reply :=
  let t := rqOwner fn r
  let host := bit r 64
  let double := bit r 65
  let size := bits r 191 128
  let home := fieldHandle r 127
  let w := windowOf c t (bits r 77 72)
  let span := if double then 2 * size else size
  let lazy := !host && hasFeat (featuresOf c t) featLazy && 0x4000000 < size
  if !memoryForm host double size then (c, refuse 1)
  else if !homeOk c t home then (c, badHandle)
  else if !(quotaRoom c t 2 1 && (host || quotaRoom c t 6 (span / 65536))) || (takeIndex c 3).isNone then (c, refuse 2)
  else if host then
    if !winCovers w true (bits r 255 192) size then (c, refuse 5)
    else create c t 3 [(2, 1)] (fun c i h =>
      let o : MemObj :=
        { handle := h, owner := t, refs := firstRefs, kind := .host, double := false, size := size, addr := bits r 255 192,
          home := homeOf home, stamp := 1, pub := 0, lazy := false, filled := [], born := bornNow c, charge := 0, image := none }
      (putMem c i o, 0))
  else match pick c (placements c w span) with
    | none => (c, refuse 5)
    | some (a, c') =>
      create c' t 3 [(2, 1), (6, span / 65536)] (fun c i h =>
        let o : MemObj :=
          { handle := h, owner := t, refs := firstRefs, kind := .device, double := double, size := size, addr := a,
            home := homeOf home, stamp := 1, pub := 0, lazy := lazy, filled := [], born := bornNow c, charge := span / 65536,
            image := none }
        (firstFill (putMem c i o) lazy a span,
         field a 128 64))

def createHitch (c : Chip) (fn r : Nat) : Chip × Reply :=
  let t := rqOwner fn r
  create c t 5 [(3, 1)] (fun c i h =>
    let o : Hitch :=
      { handle := h, owner := t, refs := firstRefs, value := BitVec.ofNat 64 (bits r 127 64), broken := 0, breaker := none,
        waiters := [] }
    (putHitch c i o, 0))

def createEvent (c : Chip) (fn r : Nat) : Chip × Reply :=
  let t := rqOwner fn r
  create c t 6 [(4, 1)] (fun c i h =>
    let o : Event :=
      { handle := h, owner := t, refs := firstRefs, state := .idle, hitch := 0, target := 0, source := 0, armGait := 0,
        fireGait := 0 }
    (putEvent c i o, 0))

/-! ### ARM_EVENT (02 R78, R79) -/

/-- A tenant source that tenant t owns (12 R363). -/
def sourceOk (c : Chip) (t s : Nat) : Bool := 64 ≤ s && srcOwner c s == some t

/-- An armed event gives up its slot and its reference on the hitch. -/
def disarm (c : Chip) (i : Nat) : Chip :=
  match tget c.events i with
  | some v =>
    if v.state != .armed then c else
    let hh := (tget c.hitches v.hitch).map (fun h => h.handle)
    let c := modHitch (modEvent c i (fun v => { v with state := .idle })) v.hitch (fun h =>
      { h with waiters := h.waiters.filter (fun w => match w with | .event j _ => j != i | _ => true) })
    match hh with | some h => dropRef c h | none => c
  | none => c

def armEvent (c : Chip) (fn r : Nat) : Option (Chip × Reply) :=
  let he := fieldHandle r 95
  let hh := fieldHandle r 127
  let target : W64 := BitVec.ofNat 64 (bits r 191 128)
  let src := bits r 202 192
  let t := actor c fn he
  if !handleOk c t [6] he || !handleOk c t [5] hh then some (c, badHandle)
  else if !sourceOk c t src then some (c, refuse 4)
  else match tget c.events (hIndex he), tget c.hitches (hIndex hh) with
    | some v, some x =>
      let set := fun (c : Chip) (st : EventState) => modEvent c (hIndex he) (fun v =>
        { v with state := st, hitch := hIndex hh, target := target, source := src, armGait := c.gait,
                 fireGait := if st == .armed then v.fireGait else c.gait })
      if x.broken != 0 then some (raiseSource (set (disarm c (hIndex he)) .broken) src, okReply 0)
      else if target.toNat ≤ x.value.toNat then some (raiseSource (set (disarm c (hIndex he)) .fired) src, okReply 0)
      else if v.state != .armed && !slotRoom c t then some (c, refuse 2)
      else if !refRoom c hh then none
      else
        let c := disarm (takeRef c hh) (hIndex he)
        some (modHitch (set c .armed) (hIndex hh) (fun h => { h with waiters := h.waiters ++ [.event (hIndex he) target] }), okReply 0)
    | _, _ => some (c, badHandle)

/-! ### LOAD_PROGRAM (07 R225 to R231) -/

def loadProgram (c : Chip) (e : Env) (fn r : Nat) : Chip × Reply :=
  let t := rqOwner fn r
  let off := bits r 191 128
  let len := bits r 255 192
  let home := fieldHandle r 127
  if off % 64 != 0 then (c, refuse 1)
  else match deviceObj c t (fieldHandle r 95) with
    | none => (c, badHandle)
    | some (_, m) =>
      if !homeOk c t home then (c, badHandle)
      else if m.size < off + len then (c, badWindow)
      else match requestRead c (m.at m.pub off) len with
        | (c, none) => (c, refuse 8)
        | (c, some bs) =>
          match containerVerdict (match e.image with | some i => i.cvers | none => []) (featuresOf c fn) bs len with
          | some code => (c, { st := stProgram, det := code, res := 0 })
          | none =>
            create c t 4 [(2, 1), (6, ceilDiv len 65536)] (fun c i h =>
              let o : MemObj :=
                { handle := h, owner := t, refs := firstRefs, kind := .program, double := false, size := len, addr := 0,
                  home := homeOf home, stamp := 1, pub := 0, lazy := false, filled := [], born := bornNow c,
                  charge := ceilDiv len 65536, image := some { bytes := bs, poisoned := [] } }
              (putMem c i o, 0))

/-! ### SET_BEAT, SET_QUOTA -/

/-- The context has work in flight: a fetched, unretired command. -/
def ctxWorks (c : Chip) (ctx : Nat) : Bool := c.queues.any (fun p => p.2.ctx == ctx && (!p.2.cmds.isEmpty || !p.2.lists.isEmpty))

def setBeat (c : Chip) (fn r : Nat) : Chip × Reply :=
  let h := fieldHandle r 95
  if !handleOk c (actor c fn h) [1] h then (c, badHandle)
  else if ctxWorks c (hIndex h) then (c, refuse 7)
  else (modContext c (hIndex h) (fun y => { y with beat := if bits r 99 96 == 0xF then none else some (bits r 99 96) }), okReply 0)

def setQuota (c : Chip) (r : Nat) : Chip × Reply :=
  (modTenant c (bits r 68 64) (fun t => { t with quota := tset t.quota (bits r 74 72) (bits r 127 96) }), okReply 0)

/-! ### Record rings (04 R120, R130, R136) -/

/-- Ring kinds: 0 notice, 1 tenant error, 2 trace. -/
def ringOf (x : Tenant) (k : Nat) : Option RecRing := if k == 0 then x.noticeRing else if k == 1 then x.errorRing else x.traceRing
def withRing (x : Tenant) (k : Nat) (g : Option RecRing) : Tenant :=
  if k == 0 then { x with noticeRing := g } else if k == 1 then { x with errorRing := g } else { x with traceRing := g }

/-- Puts ring g, whose reference is taken, in the place of the old one. -/
def replaceRing (c : Chip) (t k : Nat) (g : Option RecRing) : Chip :=
  let old := ringOf (tenantOf c t) k
  let c := modTenant c t (fun x => withRing x k g)
  let c := match old.bind (fun o => tget c.mems o.mem) with | some m => dropRef c m.handle | none => c
  if k == 0 then postNotices c t else c

/-- A set request of ring k. With the null handle, OFFSET and LOG2 are not looked at: 04 R136 gives them no meaning there, and the model
makes no form check of R500 on them (the model's choice, log 84). -/
def setRing (c : Chip) (fn k r : Nat) : Option (Chip × Reply) :=
  let h := fieldHandle r 95
  let off := bits r 191 128
  let log2 := bits r 196 192
  let t := actor c fn h
  if h == 0 then some (replaceRing c t k none, okReply 0)
  else if log2 < 4 || 16 < log2 then some (c, refuse 1)
  else match deviceObj c t h with
    | none => some (c, badHandle)
    | some (i, m) =>
      if !ringPlaced c m off (64 + (if k == 0 then 32 else 64) * pow2 log2) (some (t, k)) then some (c, refuse 6)
      else if !refRoom c h then none
      else
        let c := storeDev (takeRef c h) (m.addr + off) (List.replicate 64 0)
        some (replaceRing c t k (some { mem := i, off := off, log2 := log2, prod := 0, cons := 0, dropped := 0, seq := 0, raised := 0 }), okReply 0)

/-! ### Descriptors (09 R279 to R283) -/

/-- Indices of page p, ascending. -/
def pageIndices (p : Nat) : List Nat := (List.range 1024).filterMap (fun i => if p == 0 && i == 0 then none else some (1024 * p + i))

/-- The index that a new descriptor takes, with the table's pages after it; a new page needs one unit of quota. -/
def takeDesc (c : Chip) (t : Nat) : Option (Nat × Chip) :=
  let d := (tenantOf c t).descs
  let set := fun (c : Chip) (p : Nat) (l : List Nat) => modTenant c t (fun x => { x with descs := { x.descs with pages := tset x.descs.pages p l } })
  match d.pages.find? (fun p => !p.2.isEmpty) with
  | some (p, i :: rest) => some (i, set c p rest)
  | _ =>
    match (List.range 64).find? (fun p => (tget d.pages p).isNone), quotaRoom c t 6 1 with
    | some p, true => (match pageIndices p with | i :: rest => some (i, set c p rest) | [] => none)
    | _, _ => none

/-- Creates one descriptor: its ID, or none. -/
def createDesc (c : Chip) (t : Nat) (img : W512) : Option (Nat × Chip) :=
  match takeDesc c t with
  | none => none
  | some (i, c) =>
    let n := ((tget (tenantOf c t).descs.slots i).map (fun s => s.reuse)).getD 0
    some (i + field n 16 8, modTenant c t (fun x => { x with descs :=
      { x.descs with slots := tset x.descs.slots i { live := some img, reuse := n }, poisoned := removeNat x.descs.poisoned i } }))

def createDescsN (t : Nat) : Chip → List W512 → Option (Chip × List Nat)
  | c, [] => some (c, [])
  | c, img :: rest =>
    match createDesc c t img with
    | none => none
    | some (id, c) => (createDescsN t c rest).map (fun p => (p.1, id :: p.2))

/-- Result bits of a list of 32-bit values from bit 64 up. -/
def idBits (ids : List Nat) : Nat := sumBy (fun p => field p.1 (64 + 32 * p.2) 32) ids.zipIdx

def createDescriptors (c : Chip) (fn r : Nat) : Chip × Reply :=
  let t := rqOwner fn r
  let n := bits r 99 96
  let off := bits r 191 128
  if n == 0 || 14 < n || off % 64 != 0 then (c, refuse 1)
  else match deviceObj c t (fieldHandle r 95) with
    | none => (c, badHandle)
    | some (_, m) =>
      if m.size < off + 64 * n then (c, { st := stWindow, det := 0x300, res := 0 })
      else match requestRead c (m.at m.pub off) (64 * n) with
        | (c, none) => (c, refuse 8)
        | (c, some bs) =>
          let imgs : List W512 := (List.range n).map (fun i => BitVec.ofNat 512 (leAt bs (64 * i) 64))
          match imgs.zipIdx.findSome? (fun p => (descCheck c t p.1).map (fun f => (p.2, f))) with
          | some (i, st, code) => (c, { st := st, det := code + field i 24 8, res := 0 })
          | none =>
            match createDescsN t c imgs with
            | none => (c, refuse 2)
            | some (c', ids) => (c', okReply (idBits ids))

/-- The page of index i goes back when it holds no live descriptor; its reuse counts stay. -/
def returnPage (c : Chip) (t p : Nat) : Chip :=
  let d := (tenantOf c t).descs
  if d.slots.any (fun s => s.1 / 1024 == p && s.2.live.isSome) then c
  else modTenant c t (fun x => { x with descs := { x.descs with pages := terase x.descs.pages p,
                                                                poisoned := x.descs.poisoned.filter (fun i => i / 1024 != p) } })

def destroyDesc (c : Chip) (t i : Nat) : Chip :=
  let n := ((tget (tenantOf c t).descs.slots i).map (fun s => s.reuse)).getD 0
  let c := modTenant c t (fun x => { x with descs :=
    { x.descs with slots := tset x.descs.slots i { live := none, reuse := (n + 1) % 256 },
                   pages := tset x.descs.pages (i / 1024) ((tget x.descs.pages (i / 1024)).getD [] ++ [i]) } })
  returnPage c t (i / 1024)

def destroyDescriptors (c : Chip) (fn r : Nat) : Chip × Reply :=
  let t := rqOwner fn r
  let n := bits r 67 64
  let ids := (List.range n).map (fun i => bits r (127 + 32 * i) (96 + 32 * i))
  if n == 0 || 13 < n then (c, refuse 1)
  else match ids.zipIdx.find? (fun p => (descOf c t p.1).isNone || (ids.take p.2).contains p.1) with
    | some p => (c, { st := stHandle, det := field p.2 24 8, res := 0 })
    | none => (ids.foldl (fun c id => destroyDesc c t (bits id 15 0)) c, okReply 0)

/-! ### Tokens (11 R348, R349) -/

def exportObject (c : Chip) (fn r : Nat) : Option (Chip × Reply) :=
  let t := rqOwner fn r
  let h := fieldHandle r 95
  match deviceObj c t h with
  | none => some (c, badHandle)
  | some (m, _) =>
    if 1024 ≤ c.tokens.countP (fun p => p.2.owner == t && !p.2.revoking) then some (c, refuse 2)
    else if !refRoom c h then none
    else match takeIndex c 10 with
      | none => some (c, refuse 2)
      | some (i, c) =>
        let n := reuseOf c 10 i
        let k : Token := { owner := t, mem := m, reuse := n, rd := bit r 96, wr := bit r 97, revoking := false, accepted := 0 }
        some (takeRef { c with tokens := tset c.tokens i k } h, okReply (field (mkToken n i).toNat 64 32))

/-- A revoked token with no accepted request left: its index is freed and its reference drops. -/
def freeToken (c : Chip) (i : Nat) (k : Token) : Chip :=
  let c := freeIndex (raiseReuse { c with tokens := terase c.tokens i } 10 i) 10 i
  match tget c.mems k.mem with | some m => dropRef c m.handle | none => c

def revoke (c : Chip) (i : Nat) : Chip :=
  match tget c.tokens i with
  | none => c
  | some k => if k.accepted == 0 then freeToken c i k else modToken c i (fun k => { k with revoking := true })

def revokeToken (c : Chip) (fn r : Nat) : Chip × Reply :=
  match tokenOf c (fieldHandle r 95) with
  | none => (c, badHandle)
  | some (i, k) => if k.revoking || k.owner != rqOwner fn r then (c, badHandle) else (revoke c i, okReply 0)

/-! ### Sources (12 R362, R363) -/

def bindSource (c : Chip) (fn r : Nat) : Chip × Reply :=
  let t := rqOwner fn r
  let k := bits r 65 64
  let h := fieldHandle r 127
  let src := bits r 82 72
  let b := if bit r 71 then none else some src
  if k != 0 && h != 0 then (c, refuse 1)
  else if k == 0 && !handleOk c t [2] h then (c, badHandle)
  else if !bit r 71 && !sourceOk c t src then (c, refuse 4)
  else if k == 0 then (modQueue c (hIndex h) (fun x => { x with bind := b }), okReply 0)
  else if k == 1 then (modTenant c t (fun x => { x with noticeBind := b }), okReply 0)
  else (modTenant c t (fun x => { x with errorBind := b }), okReply 0)

/-- A VF may also set its own response source, 32 + fn. -/
def setSourceVector (c : Chip) (fn r : Nat) : Chip × Reply :=
  let t := rqOwner fn r
  let src := bits r 74 64
  if !sourceOk c t src && !(fn != 0 && src == 32 + fn) then (c, refuse 4)
  else if vectorCount t ≤ bits r 87 80 then (c, refuse 1)
  else (setCfg c src { srcCfg c src with hostEn := bit r 75, hostVector := bits r 87 80 }, okReply 0)

/-! ### Counters (15 R450 to R452) -/

def setCounter (c : Chip) (fn r : Nat) : Chip × Reply :=
  let i := bits r 75 64
  let h := fieldHandle r 127
  match groupOwner c.counters.groups (i / 32) with
  | none => (c, refuse 4)
  | some t =>
    if fn != 0 && fn != t then (c, refuse 4)
    else if 16 ≤ bits r 87 80 || bits r 152 144 < bits r 136 128 || 320 ≤ bits r 152 144 || (bit r 89 && h == 0) then (c, refuse 1)
    else if bit r 89 && !handleOk c t [1] h then (c, badHandle)
    else
      let s : CounterSel :=
        { event := bits r 87 80, spec := bit r 88, ctxFilter := bit r 89, clFilter := bit r 90,
          ctx := if bit r 89 then hIndex h else 0, clFirst := bits r 136 128, clLast := bits r 152 144 }
      ({ c with counters := { c.counters with sel := tset c.counters.sel i s, value := terase c.counters.value i } }, okReply 0)

/-- A counter that function fn may read. -/
def counterReadable (c : Chip) (fn i : Nat) : Bool := fn == 0 || groupOwner c.counters.groups (i / 32) == some fn

/-- Writes counters from `first` on, each sampled when it is written. -/
def writeCounters (frozen : Option (Tab W64)) (first : Nat) : Nat → Chip → Nat → Chip
  | 0, c, _ => c
  | n + 1, c, a =>
    let v := (tget (match frozen with | some f => f | none => c.counters.value) first).getD 0
    writeCounters frozen (first + 1) n (storeDev c a (toLe 8 v.toNat)) (a + 8)

def readCounters (c : Chip) (fn r : Nat) : Chip × Reply :=
  let off := bits r 191 128
  let first := bits r 203 192
  let n := bits r 220 208
  let bank := if bit r 224 then c.counters.heldBank else none
  if off % 8 != 0 || n == 0 || 4096 < n || 4096 < first + n then (c, refuse 1)
  else match deviceObj c fn (fieldHandle r 95) with
    | none => (c, badHandle)
    | some (i, m) =>
      if !(List.range n).all (fun j => counterReadable c fn (first + j)) then (c, refuse 4)
      else if bit r 224 && bank.isNone then (c, refuse 7)
      else if (windowReason c fn m m.pub off (8 * n)).isSome then (c, badWindow)
      else
        let c := raiseStamp (writeCounters (bank.map (fun b => b.2)) first n c (m.at m.pub off)) i
        (c, okReply (match bank with | some b => field b.1.tf 64 64 + field b.1.id.toNat 128 16 | none => 0))

/-- FREEZE (15 R451, R455). -/
def freezeNow (c : Chip) (e : Env) (r : Nat) : Chip × Reply :=
  if c.counters.heldBank.isSome then (c, refuse 7) else
  let c := triggerFreeze c e (c.gait + 50000) 0 (bit r 64)
  (c, okReply (match c.counters.pendingFreeze with | some f => field f.tf 64 64 + field f.id.toNat 128 16 | none => 0))

/-! ### The rows -/

def execUndefinedRequest (fn : Nat) (s : State) : Host.Outcome State Fault Refusal :=
  .next (onRequest s fn (fun o => !rqDefined o) (fun s _ => .now s (refuse 1)))

def execNegotiate (fn : Nat) (s : State) : Host.Outcome State Fault Refusal :=
  .next (onRequest s fn (fun o => o == 0x01) (fun s r => negotiate s fn r))

def execCreateContext (fn : Nat) (s : State) : Host.Outcome State Fault Refusal :=
  .next (chipRequest s fn 0x10 (fun c _ r => some (createContext c fn r)))

def execCreateQueue (fn : Nat) (s : State) : Host.Outcome State Fault Refusal :=
  .next (chipRequest s fn 0x11 (fun c _ r => createQueue c fn r))

def execCreateMemory (fn : Nat) (s : State) : Host.Outcome State Fault Refusal :=
  .next (chipRequest s fn 0x12 (fun c _ r => some (createMemory c fn r)))

def execCreateHitch (fn : Nat) (s : State) : Host.Outcome State Fault Refusal :=
  .next (chipRequest s fn 0x13 (fun c _ r => some (createHitch c fn r)))

def execCreateEvent (fn : Nat) (s : State) : Host.Outcome State Fault Refusal :=
  .next (chipRequest s fn 0x14 (fun c _ r => some (createEvent c fn r)))

def execArmEvent (fn : Nat) (s : State) : Host.Outcome State Fault Refusal :=
  .next (chipRequest s fn 0x15 (fun c _ r => armEvent c fn r))

def execLoadProgram (fn : Nat) (s : State) : Host.Outcome State Fault Refusal :=
  .next (chipRequest s fn 0x16 (fun c e r => some (loadProgram c e fn r)))

def execSetBeat (fn : Nat) (s : State) : Host.Outcome State Fault Refusal :=
  .next (chipRequest s fn 0x17 (fun c _ r => some (setBeat c fn r)))

def execSetNoticeRing (fn : Nat) (s : State) : Host.Outcome State Fault Refusal :=
  .next (chipRequest s fn 0x18 (fun c _ r => setRing c fn 0 r))

def execSetErrorRing (fn : Nat) (s : State) : Host.Outcome State Fault Refusal :=
  .next (chipRequest s fn 0x19 (fun c _ r => setRing c fn 1 r))

def execSetQuota (fn : Nat) (s : State) : Host.Outcome State Fault Refusal :=
  .next (chipRequest s fn 0x20 (fun c _ r => some (setQuota c r)))

def execCreateDescriptors (fn : Nat) (s : State) : Host.Outcome State Fault Refusal :=
  .next (chipRequest s fn 0x1A (fun c _ r => some (createDescriptors c fn r)))

def execDestroyDescriptors (fn : Nat) (s : State) : Host.Outcome State Fault Refusal :=
  .next (chipRequest s fn 0x1B (fun c _ r => some (destroyDescriptors c fn r)))

def execExportObject (fn : Nat) (s : State) : Host.Outcome State Fault Refusal :=
  .next (chipRequest s fn 0x1C (fun c _ r => exportObject c fn r))

def execRevokeToken (fn : Nat) (s : State) : Host.Outcome State Fault Refusal :=
  .next (chipRequest s fn 0x1D (fun c _ r => some (revokeToken c fn r)))

def execBindSource (fn : Nat) (s : State) : Host.Outcome State Fault Refusal :=
  .next (chipRequest s fn 0x1E (fun c _ r => some (bindSource c fn r)))

def execSetSourceVector (fn : Nat) (s : State) : Host.Outcome State Fault Refusal :=
  .next (chipRequest s fn 0x1F (fun c _ r => some (setSourceVector c fn r)))

def execSetCounter (fn : Nat) (s : State) : Host.Outcome State Fault Refusal :=
  .next (chipRequest s fn 0x21 (fun c _ r => some (setCounter c fn r)))

def execReadCounters (fn : Nat) (s : State) : Host.Outcome State Fault Refusal :=
  .next (chipRequest s fn 0x22 (fun c _ r => some (readCounters c fn r)))

def execFreezeRequest (fn : Nat) (s : State) : Host.Outcome State Fault Refusal :=
  .next (chipRequest s fn 0x23 (fun c e r => some (freezeNow c e r)))

def execSetTraceBuffer (fn : Nat) (s : State) : Host.Outcome State Fault Refusal :=
  .next (chipRequest s fn 0x24 (fun c _ r => setRing c fn 2 r))

end Sys2Proof.Machine
end

