-- ==== Sys2Proof/Machine/Audit.lean ====
section
/-! DEFINITION. The AUDIT request (16 R465 to R473). -/

namespace Sys2Proof.Machine

/-- What an audit finds: EXPECTED, ACCOUNTED, VISIBLE, TRANSIENT. -/
structure Audit where
  expected : Nat
  accounted : Nat
  visible : Nat
  transient : Nat
  deriving DecidableEq, Repr

/-- The result of AUDIT (16 R471). -/
def auditReply (c : Chip) (a : Audit) : Reply :=
  okReply (field a.expected 64 64 + field a.accounted 128 64 + field a.visible 192 64 + field a.transient 256 8
    + field (boolNat (a.expected == a.accounted)) 264 1 + field c.gait 320 64)

/-- The greatest number up to n whose low 32 bits are those of p: a 32-bit index counted on without wrapping. -/
def unwrap (n : Nat) (p : W32) : Nat := n - (n + pow2 32 - p.toNat) % pow2 32

def auditCells (x : Queue) : Audit :=
  let occ := (x.tail - x.head).toNat
  { expected := pow2 x.sqLog2, accounted := (pow2 x.sqLog2 - occ) + occ, visible := occ, transient := 0 }

def auditRecords (x : Queue) : Audit :=
  let n := x.owed.length
  { expected := x.owedCount, accounted := unwrap (x.owedCount - n) x.prod + n, visible := (x.prod - x.cons).toNat,
    transient := if x.owed.isEmpty then 0 else 8 }

/-- Notices held count as raised; only the notice ring holds any (04 R134, R135). -/
def auditRing (t : Tenant) (k : Nat) : Audit :=
  let n := if k == 0 then t.held.length else 0
  let tr := if n == 0 then 0 else 8
  match ringOf t k with
  | none => { expected := n, accounted := n, visible := 0, transient := tr }
  | some r =>
    let d := r.dropped.toNat
    { expected := r.raised.toNat + n, accounted := unwrap (r.raised.toNat - d) r.prod + n + d, visible := (r.prod - r.cons).toNat,
      transient := tr }

/-- `own`: the audit itself is the request in execution. -/
def auditChannel (ch : Channel) (own : Bool) : Audit :=
  { expected := ch.reqHead.toNat, accounted := (ch.rspTail + (if own then 1 else 0)).toNat, visible := (ch.reqTail - ch.reqHead).toNat,
    transient := 0 }

/-- Entries wait in crossing 4 alone, while the link is down (03 R96). -/
def auditCrossing (c : Chip) (n depth : Nat) : Audit :=
  let k := if n == 4 then min (waiting4 c) depth else 0
  { expected := depth, accounted := (depth - k) + k, visible := k, transient := 0 }

/-- Sender credits and frames out; a port that is not UP or that retrains shows the full grant that it takes back when it next
trains (16 R465 code 0x11, edge cases). -/
def auditPort (c : Chip) (f : Fabric) (p chan : Nat) : Audit :=
  let g := portGrant chan
  let n := onChan (linkTxOf c p) chan
  if (portOf f p).state != 2 then { expected := g, accounted := g, visible := 0, transient := 2 }
  else { expected := g, accounted := (g - n) + n, visible := n, transient := if (portOf f p).retraining.isSome then 2 else 0 }

def auditReplay (c : Chip) (p : Nat) : Audit :=
  let n := (linkTxOf c p).sent.length
  { expected := 64, accounted := (64 - n) + n, visible := n, transient := 0 }

/-- Waiter slots of speculative waits of the tenants that satisfy p. -/
def specSlots (c : Chip) (p : Nat → Bool) : Nat :=
  sumBy (fun h => if p h.2.owner then h.2.waiters.countP (fun w => match w with | .cmd _ _ _ s => s | .event _ _ => false) else 0) c.hitches

def auditSlots (c : Chip) : Audit :=
  { expected := 262144, accounted := (262144 - allSlots c) + allSlots c,
    visible := sumBy (fun h => h.2.waiters.countP (fun w => match w with | .cmd _ _ _ s => !s | .event _ _ => true)) c.hitches,
    transient := if specSlots c (fun _ => true) == 0 then 0 else 1 }

/-! ### Device halves (02 R81) -/

def countH (h : Handle) (l : List Handle) : Nat := l.countP (fun g => g == h)

def memHandle (c : Chip) (m : Nat) : List Handle := ((tget c.mems m).map (fun o => [o.handle])).getD []

/-- References that a queue, its commands, its lists and its held records keep. -/
def queueHolds (c : Chip) (x : Queue) : List Handle :=
  ((tget c.contexts x.ctx).map (fun y => [y.handle])).getD [] ++ memHandle c x.sq ++ memHandle c x.cq
    ++ x.cmds.flatMap (fun k => k.refs) ++ x.lists.flatMap (fun l => l.cmd.refs) ++ x.owed.flatMap (fun o => (if o.ref then [x.handle] else []) ++ o.drops)

def ringHolds (c : Chip) (t : Tenant) : List Handle :=
  [t.noticeRing, t.errorRing, t.traceRing].flatMap (fun r => match r with | some r => memHandle c r.mem | none => [])

/-- Programs resident on teams, once for each command that holds teams. -/
def residentHolds (c : Chip) : List Handle :=
  (c.queues.flatMap (fun p => p.2.cmds) ++ c.ghosts.map (fun g => g.cmd)).flatMap (fun k =>
    match k.job with | .launch prog _ _ _ _ _ _ _ _ _ => if k.teams.isEmpty then [] else memHandle c prog | _ => [])

/-- Live holders of an object, as the table of 02 R81 counts them. -/
def holders (c : Chip) (h : Handle) : Nat :=
  countH h (c.queues.flatMap (fun p => queueHolds c p.2)) + countH h (c.tenants.flatMap (fun p => ringHolds c p.2))
    + countH h (residentHolds c) + countH h (c.tokens.flatMap (fun p => memHandle c p.2.mem))
    + sumBy (fun p => if p.2.handle == h then p.2.waiters.length else 0) c.hitches

/-- A speculative fetch holds the object. -/
def specHolder (c : Chip) (h : Handle) : Bool :=
  c.queues.any (fun p => p.2.cmds.any (fun k => k.refs.contains h && (match p.2.segs with | s :: _ => s.branch < k.seq | [] => false)))

def auditObject (c : Chip) (h : Handle) : Audit :=
  match objOf c h with
  | some (_, r) => { expected := r.dev, accounted := holders c h, visible := r.host, transient := boolNat (specHolder c h) }
  | none => { expected := 0, accounted := 0, visible := 0, transient := 0 }

def auditQuota (c : Chip) (t k : Nat) : Audit :=
  { expected := charged c t k, accounted := charged c t k, visible := usedOf c t k,
    transient := (if (tenantOf c t).teardown then 4 else 0) + boolNat (k == 5 && specSlots c (fun o => o == t) != 0) }

def unitsHeld (c : Chip) : Nat :=
  sumBy (fun p => sumBy (fun k => k.units) p.2.cmds + sumBy (fun l => l.cmd.units) p.2.lists) c.queues

def auditLogbook (c : Chip) : Audit :=
  { expected := 65536, accounted := c.logFree + unitsHeld c, visible := unitsHeld c, transient := 0 }

/-- RUNNING reads 0x1F for priority -1. -/
def auditCore (c : Chip) (k : Nat) : Audit :=
  { expected := (coreOf c k).stack.length, accounted := c.rein.activeCore.countP (fun p => p.2 == k),
    visible := match (coreOf c k).stack with | p :: _ => p | [] => 0x1F, transient := 0 }

/-- The chip's tokens, or those of tenant t. -/
def auditTokens (c : Chip) (t : Option Nat) : Audit :=
  let mine := c.tokens.filter (fun p => match t with | some t => p.2.owner == t | none => true)
  { expected := if t.isNone then (allocOf c 10).next - (allocOf c 10).freed.length else mine.length, accounted := mine.length,
    visible := mine.countP (fun p => !p.2.revoking), transient := if mine.any (fun p => p.2.revoking) then 32 else 0 }

/-! ### The request -/

def qtyDefined (q : Nat) : Bool := (1 ≤ q && q ≤ 4) || (0x10 ≤ q && q ≤ 0x12) || (0x20 ≤ q && q ≤ 0x25)

/-- Served only through PF0 (16 R470). -/
def qtyPf0 (q idx : Nat) : Bool := (0x10 ≤ q && q ≤ 0x12) || q == 0x20 || q == 0x23 || q == 0x24 || (q == 0x25 && idx == 0)

/-- OBJECT, INDEX and INSTANCE of a defined QTY are legal: the used ones in range, the others 0. -/
def qtyForm (q obj idx inst : Nat) : Bool :=
  if q == 1 || q == 2 || q == 0x21 then idx == 0 && inst == 0
  else obj == 0 && (
    if q == 3 then idx < 3 && inst == 0
    else if q == 0x10 then (match crossing idx with | some c => inst < c.instances | none => false)
    else if q == 0x11 then idx < 4 && inst < 3
    else if q == 0x12 then idx < 4 && inst == 0
    else if q == 0x22 then idx < 7 && inst == 0
    else if q == 0x24 then idx < 8 && inst == 0
    else if q == 0x25 then idx < 2 && inst == 0
    else idx == 0 && inst == 0)

/-- The types that OBJECT may name; none for a QTY without an object. -/
def qtyTypes (q : Nat) : List Nat := if q == 1 || q == 2 then [2] else if q == 0x21 then [1, 2, 3, 4, 5, 6] else []

def auditOf (s : State) (fn t q idx inst : Nat) (h : Handle) : Audit :=
  let c := s.chip
  let queue := fun (f : Queue → Audit) => match tget c.queues (hIndex h) with | some x => f x | none => { expected := 0, accounted := 0, visible := 0, transient := 0 }
  if q == 1 then queue auditCells
  else if q == 2 then queue auditRecords
  else if q == 3 then auditRing (tenantOf c t) idx
  else if q == 4 then auditChannel (tenantOf c t).chan (t == fn)
  else if q == 0x10 then auditCrossing c idx ((crossing idx).map (fun c => c.depth) |>.getD 0)
  else if q == 0x11 then auditPort c s.fabric idx inst
  else if q == 0x12 then auditReplay c idx
  else if q == 0x20 then auditSlots c
  else if q == 0x21 then auditObject c h
  else if q == 0x22 then auditQuota c t idx
  else if q == 0x23 then auditLogbook c
  else if q == 0x24 then auditCore c idx
  else auditTokens c (if idx == 0 then none else some t)

def audit (s : State) (fn r : Nat) : Reply :=
  let q := bits r 71 64
  let h := fieldHandle r 127
  let idx := bits r 135 128
  let inst := bits r 151 136
  let t := rqOwner fn r
  if !qtyDefined q then refuse 1
  else if fn != 0 && qtyPf0 q idx then refuse 4
  else if !qtyForm q h.toNat idx inst || (qtyPf0 q idx && bits r 76 72 != 0) then refuse 1
  else if !(qtyTypes q).isEmpty && !handleOk s.chip t (qtyTypes q) h then badHandle
  else auditReply s.chip (auditOf s fn t q idx inst h)

def execAudit (fn : Nat) (s : State) : Host.Outcome State Fault Refusal :=
  .next (onRequest s fn (fun o => o == 0x25) (fun s r => .now s (audit s fn r)))

end Sys2Proof.Machine
end

