-- ==== Sys2Proof/Machine/Resets.lean ====
section
/-! DEFINITION. Reset requests and tenant teardown (13 R399 to R403), GET_WALK and EXIT_WALK (13 R409, R412). -/

namespace Sys2Proof.Machine

/-! ### Queues and contexts -/

/-- RESET_QUEUE; FINAL_PROD counts the records still held. -/
def resetQueueRq (c : Chip) (e : Env) (fn r : Nat) (stops : List Stop) : Chip × Reply :=
  let h := fieldHandle r 95
  if !handleOk c (actor c fn h) [2] h then (c, badHandle) else
  let c := resetQueue c e (hIndex h) stops
  match tget c.queues (hIndex h) with
  | some x => (c, okReply (field (x.prod.toNat + x.owed.length) 64 32))
  | none => (c, okReply 0)

def resetContextRq (c : Chip) (e : Env) (fn r : Nat) (stops : List Stop) : Chip × Reply :=
  let h := fieldHandle r 95
  if !handleOk c (actor c fn h) [1] h then (c, badHandle) else (resetContext c e (hIndex h) stops, okReply 0)

def resumeContextRq (c : Chip) (fn r : Nat) : Chip × Reply :=
  let h := fieldHandle r 95
  if !handleOk c (actor c fn h) [1] h then (c, badHandle) else
  match tget c.contexts (hIndex h) with
  | some y => if y.runnable then (c, refuse 7) else (modContext c (hIndex h) (fun y => { y with runnable := true }), okReply 0)
  | none => (c, badHandle)

/-! ### Clusters and engines (13 R402) -/

/-- Class RESET_HIT with the OP in its payload (13 R387). -/
def resetHit (c : Chip) (engine op : Nat) : FaultInfo := faultInfo c 0x15 engine 0 op 0 0

/-- RESET_CLUSTER. A failing cluster is replaced: the response is posted at the start of its drain. -/
def resetClusterRq (c : Chip) (e : Env) (r : Nat) (passes readable : Bool) (run : BodyRun) : Chip × Reply :=
  let l := bits r 72 64
  if 319 < l then (c, refuse 1)
  else if c.compute.draining.contains l then (c, refuse 7)
  else match physOf c l with
    | none => (c, refuse 2)
    | some p =>
      let keep := passes || readable
      let c := strikeCluster c e l p (resetHit c 1 0x43) keep run
      (if passes then c else drainCluster c e l p readable, okReply 0)

/-- The work of a command that holds an engine ends there. -/
def hitEngine (c : Chip) (e : Env) (q seq done : Nat) : Chip :=
  let stop := { stopFor [] q seq with done := done }
  match c.ghosts.find? (fun g => g.q == q && g.cmd.seq == seq), cmdOf c q seq with
  | some g, _ => endGhost c e g stop
  | none, some k => hitFault c e q k stop (resetHit c (engineNo k) 0x44) false false
  | none, none => c

def resetEngineRq (c : Chip) (e : Env) (r done : Nat) : Chip × Reply :=
  let n := bits r 70 68
  match tget (if bit r 64 then c.compute.outrider else c.compute.groom) n with
  | some h => (hitEngine c e h.1 h.2 done, okReply 0)
  | none => (c, okReply 0)

/-! ### Tenant teardown (13 R403) -/

def tornObjects (c : Chip) (t : Nat) : List Handle :=
  let own := fun {α : Type} (tab : Tab α) (o : α → Nat) (h : α → Handle) => (tab.filter (fun p => o p.2 == t)).map (fun p => h p.2)
  own c.contexts (fun x => x.owner) (fun x => x.handle) ++ own c.queues (fun x => x.owner) (fun x => x.handle)
    ++ own c.mems (fun x => x.owner) (fun x => x.handle) ++ own c.hitches (fun x => x.owner) (fun x => x.handle)
    ++ own c.events (fun x => x.owner) (fun x => x.handle)

/-- Held notices are discarded; their indices are free. -/
def dropNotices (c : Chip) (t : Nat) : Chip :=
  (tenantOf c t).held.foldl (fun c n => freeIndex c (spaceOf (hType n.handle)) (hIndex n.handle)) (modTenant c t (fun x => { x with held := [] }))

/-- Every descriptor of the tenant is destroyed. -/
def dropDescs (c : Chip) (t : Nat) : Chip :=
  modTenant c t (fun x => { x with descs :=
    { slots := x.descs.slots.map (fun p => (p.1, if p.2.live.isSome then { live := none, reuse := (p.2.reuse + 1) % 256 } else p.2)),
      pages := [], poisoned := [] } })

/-- Counters of the tenant's groups take EVENT 0 and value 0 (15 R453). -/
def clearTenantCounters (c : Chip) (t : Nat) : Chip :=
  let mine := fun (i : Nat) => groupOwner c.counters.groups (i / 32) == some t
  { c with counters := { c.counters with sel := c.counters.sel.filter (fun p => !mine p.1), value := c.counters.value.filter (fun p => !mine p.1) } }

/-- TEARDOWN of a tenant whose USED fields all read 0 reads 0. -/
def settleTeardown (c : Chip) : Chip :=
  { c with tenants := c.tenants.map (fun p =>
      (p.1, if p.2.teardown && (List.range 7).all (fun k => usedOf c p.1 k == 0) then { p.2 with teardown := false } else p.2)) }

/-- Teardowns that have ended change the record's tenants (14 R431). -/
def teardownsEnd (c : Chip) (e : Env) : Chip :=
  let d := settleTeardown c
  if c.tenants.countP (fun p => p.2.teardown) == d.tenants.countP (fun p => p.2.teardown) then d else checkpoint d e

def teardown (c : Chip) (e : Env) (t : Nat) (stops : List Stop) : Chip :=
  let c := modTenant c t (fun x => { x with teardown := true })
  let objs := tornObjects c t
  let c := objs.foldl (fun c h => match objOf c h with | some (_, r) => setRefs c h { r with host := 0 } | none => c) c
  let c := (c.contexts.filter (fun p => p.2.owner == t)).foldl (fun c p => resetContext c e p.1 stops) c
  let c := (c.tokens.filter (fun p => p.2.owner == t && !p.2.revoking)).foldl (fun c p => revoke c p.1) c
  let c := [0, 1, 2].foldl (fun c k => replaceRing c t k none) (clearTenantRein c t)
  let c := objs.foldl destroyIfFree (dropNotices c t)
  let c := clearTenantCounters (dropDescs c t) t
  let c := if t == 0 then c else modTenant c t (fun x => { x with agreed := none })
  settleTeardown c

def resetTenantRq (c : Chip) (e : Env) (r : Nat) (stops : List Stop) : Chip × Reply :=
  let t := bits r 68 64
  if !(tenantOf c t).present then (c, refuse 4) else (teardown c e t stops, okReply 0)

/-- What a VF FLR resets beside the tenant: MSI-X (12 R380) and the rest of its configuration space, the request channel (04 R137), latched
accesses. -/
def resetFunction (c : Chip) (fn : Nat) : Chip :=
  modTenant { c with arrivals := c.arrivals.filter (fun f => f != fn) } fn (fun x =>
    { x with msix := [], msixEnable := false, functionMask := false, chan := Channel.reset, latch := [], devCtl := 0x2810, aer := [], dbLatch := [] })

/-! ### WALK (13 R409, R412) -/

def getWalk (c : Chip) : Reply := okReply (if c.dev == .walk then field c.walk.toNat 64 8 else 0)

def exitWalk (c : Chip) : Chip × Reply :=
  let left := c.walk &&& ~~~c.walkCleared
  if left == 0 then ({ c with dev := .ready, walk := 0, walkCleared := 0 }, okReply 0)
  else (c, { st := stRefused, det := 7, res := field left.toNat 64 8 })

/-! ### The rows -/

def execResetQueue (fn : Nat) (stops : List Stop) (s : State) : Host.Outcome State Fault Refusal :=
  .next (chipRequest s fn 0x40 (fun c e r => some (resetQueueRq c e fn r stops)))

def execResetContext (fn : Nat) (stops : List Stop) (s : State) : Host.Outcome State Fault Refusal :=
  .next (chipRequest s fn 0x41 (fun c e r => some (resetContextRq c e fn r stops)))

def execResumeContext (fn : Nat) (s : State) : Host.Outcome State Fault Refusal :=
  .next (chipRequest s fn 0x42 (fun c _ r => some (resumeContextRq c fn r)))

def execResetCluster (fn : Nat) (passes readable : Bool) (run : BodyRun) (s : State) : Host.Outcome State Fault Refusal :=
  .next (chipRequest s fn 0x43 (fun c e r => some (resetClusterRq c e r passes readable run)))

def execResetEngine (fn done : Nat) (s : State) : Host.Outcome State Fault Refusal :=
  .next (chipRequest s fn 0x44 (fun c e r => some (resetEngineRq c e r done)))

def execResetTenant (fn : Nat) (stops : List Stop) (s : State) : Host.Outcome State Fault Refusal :=
  .next (chipRequest s fn 0x45 (fun c e r => some (resetTenantRq c e r stops)))

def execGetWalk (fn : Nat) (s : State) : Host.Outcome State Fault Refusal :=
  .next (chipRequest s fn 0x46 (fun c _ _ => some (c, getWalk c)))

def execExitWalk (fn : Nat) (s : State) : Host.Outcome State Fault Refusal :=
  .next (chipRequest s fn 0x47 (fun c _ _ => some (exitWalk c)))

end Sys2Proof.Machine
end

