-- ==== Sys2Proof/Machine/Firmware.lean ====
section
/-! DEFINITION. Farrier's images, live update, watchdog and repair requests (14 R415, R416, R424, R430 to R440), and errors found in
memory (10 R324, R325). -/

namespace Sys2Proof.Machine

/-! ### Images (14 R415, R416) -/

/-- Bytes of the header that are reserved: what no field and no listed CVER takes. -/
def imgReserved (b : List Byte) : Bool :=
  let n := leAt b 0x18 1
  zerosAt b 0x19 7 && zerosAt b 0x30 16 && zerosAt b (0x40 + 4 * n) (0x40 - 4 * n) && zerosAt b 0xE0 32

/-- The image that a byte string holds, if it is valid. -/
def fwParse (b : List Byte) : Option FwImage :=
  let n := leAt b 0x0C 4
  let cv := leAt b 0x18 1
  let img := b.take n
  let form := leAt b 0 4 == 0x31524246 && n % 256 == 0 && 256 ≤ n && n ≤ 12582912 && n ≤ b.length && 1 ≤ cv && cv ≤ 15 && imgReserved b
  if form && leAt b 0x10 4 == crc32c (zeroAt (zeroAt img 0x10 4) 0x80 96) && Config.sigVerifies img then
    some { build := BitVec.ofNat 32 (leAt b 4 4), major := BitVec.ofNat 16 (leAt b 0x0A 2), minor := BitVec.ofNat 16 (leAt b 8 2),
           hverMin := leAt b 0x14 2, hverMax := leAt b 0x16 2, features := BitVec.ofNat 128 (leAt b 0x20 16), valid := true,
           cvers := (List.range cv).map (fun i => BitVec.ofNat 32 (leAt b (0x40 + 4 * i) 4)) }
  else none

/-- The valid image in a slot: 0 A, 1 B, 2 standby. -/
def slotImage (f : Flash) (slot : Nat) : Option FwImage :=
  (if slot == 0 then f.slotA else if slot == 1 then f.slotB else f.standby).filter (fun i => i.valid)

def setSlotImage (f : Flash) (slot : Nat) (i : FwImage) : Flash :=
  if slot == 0 then { f with slotA := some i } else if slot == 1 then { f with slotB := some i } else { f with standby := some i }

def buildOf (i : Option FwImage) : Nat := match i with | some i => i.build.toNat | none => 0

/-- FW_STAGE (14 R434). -/
def fwStage (s : State) (r : Nat) : Answer :=
  let slot := bits r 65 64
  let a := bits r 191 128
  let n := bits r 255 192
  if !(tenantOf s.chip 0).windows.any (fun p => winCovers p.2 false a n) then .now s badWindow
  else if s.farrier.slot == slot then .now s (refuse 7)
  else match requestRead s.chip a n with
    | (c, none) => .now { s with chip := c } (refuse 8)
    | (c, some bs) =>
      match fwParse bs with
      | none => .now { s with chip := c } (refuse 1)
      | some i => .now { s with chip := c, flash := setSlotImage s.flash slot i } (okReply 0)

/-! ### Live update (14 R435 to R439) -/

def startCores (c : Chip) : Chip := (List.range 8).foldl (fun c k => startCore (haltCore c k) k) c
def idleCores (c : Chip) : Chip := (List.range 8).foldl (fun c k => setCore c k { coreOf c k with eligible := false }) c

/-- RESULT of FW_ACTIVATE. -/
def activateRes (outcome reason : Nat) (i : Option FwImage) : Nat := field outcome 64 8 + field reason 72 8 + field (buildOf i) 96 32

/-- FW_ACTIVATE up to the loading of the image. -/
def fwActivate (s : State) (fn r : Nat) : Answer :=
  let slot := bits r 65 64
  if isUp s.chip && !hasFeat (featuresOf s.chip 0) featLive then
    if slot == 2 then .now s (refuse 4)
    else .now { s with flash := { s.flash with pref := slot } } (okReply (activateRes 2 0 s.farrier.running))
  else if (slotImage s.flash slot).isNone then .now s (refuse 1)
  else .later { s with farrier := { s.farrier with update := .loading slot fn (rqTag r) } }

/-- FW_LOAD_COMPLETE: the scheduling gap begins, no core is ELIGIBLE, and the old image writes the handover record (14 R437 step 3, R439). -/
def loadComplete (s : State) : State :=
  match s.farrier.update with
  | .loading slot fn tag =>
    onChip { s with farrier := { s.farrier with update := .gap slot fn tag s.chip.clock } } (fun c e => checkpoint (idleCores c) e)
  | _ => s

/-- A negotiated function whose agreement the image does not offer. -/
def agreementLost (c : Chip) (i : FwImage) : Bool :=
  c.tenants.any (fun p => match p.2.agreed with
    | some a => a.major != i.major || i.minor.toNat < a.minor.toNat || (a.features &&& ~~~i.features) != 0
    | none => false)

/-- A live program object whose CVERSION the image does not list (07 R230). -/
def programLost (c : Chip) (i : FwImage) : Bool :=
  c.mems.any (fun p => match p.2.image with | some g => !i.cvers.contains (BitVec.ofNat 32 (cVersion g.bytes)) | none => false)

/-- REASON of 14 R436 for the record in control SRAM; 0 when the new image accepts it. A reserved field that is not 0 makes it illegal
(00 R16): REASON 1 in the header and 3 in a section entry, the model's choice (log 92). -/
def handoverReason (c : Chip) (new : FwImage) (ev : HandoverEvidence) : Nat :=
  match c.record with
  | none => 1
  | some r =>
    let conds : List (Bool × Nat) :=
      [(r.magic != 0x31564F48 || r.reserved != 0 || !ev.checkOk, 1), (r.version < new.hverMin || new.hverMax < r.version, 2),
       (!recordTypes.all (fun t => r.sections.any (fun x => x.stype == t)) || r.sections.any (fun x => x.reserved != 0) || !ev.sectionsOk, 3),
       (agreementLost c new, 4), (programLost c new, 5), (!ev.countsOk, 6), (!ev.consistent, 7), (!ev.inTime, 8)]
    match conds.find? (fun p => p.1) with | some p => p.2 | none => 0

/-- The gap ends: what waited for it goes on, after the response. -/
def endGap (s : State) (fn : Nat) (tag : W16) (p : Reply) : State :=
  let s := { s with farrier := { s.farrier with update := .none } }
  onChip s (fun c e => arbitrate (decideHeld (respond (raiseSource c 28) fn (0x51 + field tag.toNat 16 16) p) e) e)

/-- The new image goes on (14 R437 step 5, R433). -/
def acceptImage (s : State) (slot fn : Nat) (tag : W16) (i : FwImage) : State :=
  let c := startCores s.chip
  let c := if bit c.walk.toNat 1 then { c with walkCleared := c.walkCleared ||| 2 } else c
  let c := if (match s.farrier.running with | some o => o.cvers == i.cvers | none => false) then c else raiseGen c
  endGap { s with chip := c, farrier := { s.farrier with running := some i, slot := slot, pinned := false, recent := [] },
                  flash := { s.flash with pref := if slot < 2 then slot else s.flash.pref } }
    fn tag (okReply (activateRes 0 0 (some i)))

/-- The old image goes on (14 R437 step 6). -/
def rollBack (s : State) (fn : Nat) (tag : W16) (reason : Nat) : State :=
  endGap { s with chip := startCores s.chip, farrier := { s.farrier with reason := reason } } fn tag
    { st := stRefused, det := 7, res := activateRes 1 reason s.farrier.running }

/-- HANDOVER_VALIDATION: the new image has 8 ms from the gap's start. -/
def validate (s : State) (ev : HandoverEvidence) : State :=
  match s.farrier.update with
  | .gap slot fn tag since =>
    match slotImage s.flash slot with
    | none => s
    | some new =>
      let ev := { ev with inTime := ev.inTime && s.chip.clock ≤ since + 8000000 }
      let reason := handoverReason s.chip new ev
      if reason == 0 then acceptImage s slot fn tag new else rollBack s fn tag reason
  | _ => s

/-! ### FW_STATUS, FW_SET_BOOT, SET_LIMITS -/

def fwStatus (s : State) : Reply :=
  let f := s.farrier
  okReply (field f.slot 64 2 + field s.flash.pref 68 4 + field (buildOf f.running) 96 32 + field (buildOf (slotImage s.flash 0)) 128 32
    + field (buildOf (slotImage s.flash 1)) 160 32 + field (buildOf (slotImage s.flash 2)) 192 32 + field f.restarts 224 16
    + field f.failovers 240 8 + field f.reason 248 8)

def fwSetBoot (s : State) (r : Nat) : Answer :=
  .now { s with flash := { s.flash with pref := boolNat (bit r 64) } } (okReply 0)

/-- A field of SET_LIMITS within [lo, fused]; 0 selects the fused value (14 R424). -/
def limitField (v lo fused : Nat) : Option Nat := if v == 0 then some fused else if lo ≤ v && v ≤ fused then some v else none

/-- SET_LIMITS: a clock above the new cap drops to it. -/
def setLimits (s : State) (r : Nat) : Answer :=
  let f := s.fuses
  match limitField (bits r 79 64) 600 f.fmax, limitField (bits r 87 80) 85 f.tthrot, limitField (bits r 95 88) 95 f.tshut,
        limitField (bits r 111 96) 150 f.pmax with
  | some cap, some thr, some shut, some p =>
    if bits r 79 64 % 100 != 0 || shut < thr + 5 then .now s (refuse 1) else
    let g := s.gov
    let clk := max 600 (min g.clMhz cap)
    let c := if clk == g.clMhz && thr == g.tthrot && shut == g.tshut then s.chip else raiseGen s.chip
    .now { s with gov := { g with fcap := cap, tthrot := thr, tshut := shut, plimit := p, clMhz := clk }, chip := c } (okReply 0)
  | _, _, _, _ => .now s (refuse 1)

/-! ### Repair requests -/

def retireClusterRq (c : Chip) (e : Env) (r : Nat) : Chip × Reply :=
  let l := bits r 72 64
  if 319 < l then (c, refuse 1)
  else if c.compute.draining.contains l then (c, refuse 7)
  else match physOf c l with
    | none => (c, refuse 2)
    | some p => if spareLeft c then (drainCluster c e l p true, okReply 0) else (c, refuse 2)

/-- A channel that is already migrating is in use by the migration: REFUSED, DETAIL 0x0007. -/
def retireChannelRq (c : Chip) (e : Env) (r : Nat) : Chip × Reply :=
  let x := stackState c (bits r 66 64)
  if (tget x.migrating (bits r 76 72)).isSome then (c, refuse 7)
  else if x.spareFree.isEmpty then (c, refuse 2)
  else (retireChannel c e (bits r 66 64) (bits r 76 72), okReply 0)

/-! ### Watchdog and standby (14 R430 to R433) -/

/-- P0 of FIRMWARE and FW_EVENT: core, and bit 8 for the standby image (13 R387). -/
def coreWord (f : Farrier) (core : Nat) : Nat := core + (if f.slot == 2 then 256 else 0)

/-- Walk cause FIRMWARE: the standby image runs on, and its restarts escalate no more. -/
def firmwareLost (s : State) : State :=
  onChip { s with farrier := { s.farrier with pinned := true, recent := [] } } (fun c e => arbitrate (walkEntry c e 1) e)

/-- Failover to the standby image (14 R432), which validates the checkpoint. -/
def failover (s : State) (core : Nat) (ev : HandoverEvidence) : State :=
  match s.farrier.running, slotImage s.flash 2 with
  | some old, some new =>
    if s.farrier.slot == 2 then firmwareLost s else
    let reason := handoverReason s.chip new ev
    let f := { s.farrier with running := some new, slot := 2, recent := [], failovers := satAdd s.farrier.failovers 1 0xFF,
                              reason := if reason == 0 then s.farrier.reason else reason }
    let c := startCores s.chip
    let c := if old.cvers == new.cvers then c else raiseGen c
    let c := raiseSource (postEvent c 0x23 7 (coreWord f core) 0 0) 28
    let s := { s with farrier := f, chip := c }
    if reason == 0 then onChip s arbitrate else firmwareLost s
  | _, _ => firmwareLost s

/-- What a restart reports: the FIRMWARE fault of the attempt that it hits, or a record. -/
def restartRecord (s : State) (core : Nat) (hit : Option Stop) : State :=
  let w := coreWord s.farrier core
  onChip s (fun c e =>
    match hit.bind (fun h => (attemptOf c h.q h.seq).map (fun k => (h, k))) with
    | some (h, k) => arbitrate (hitFault c e h.q k h (faultInfo c 0x14 7 0 w 0 0) false false) e
    | none => postEvent c 0x23 7 w 0 0)

/-- WATCHDOG_EXPIRY. During a live update it ends the update: with REASON 9 while the old image's record is not complete (`checkOk`
false), with REASON 8 after that (14 R436, R437). -/
def watchdog (s : State) (core : Nat) (hit : Option Stop) (ev : HandoverEvidence) : State :=
  if s.chip.dev == .off || 8 ≤ core || s.farrier.running.isNone then s else
  let f := s.farrier
  let fresh := s.chip.clock :: f.recent.filter (fun t => s.chip.clock < t + 60000000000)
  let count := fun (s : State) (l : List Nat) => { s with farrier := { s.farrier with restarts := satAdd s.farrier.restarts 1 0xFFFF, recent := l } }
  let restart := fun (s : State) => { s with chip := startCore (haltCore s.chip core) core }
  let escalate := fun (s : State) (ev : HandoverEvidence) => if s.farrier.recent.length < 4 || s.farrier.pinned then s else failover s core ev
  match f.update with
  | .none => escalate (restartRecord (restart (count s fresh)) core hit) ev
  | .loading _ fn tag => escalate (rollBack (restartRecord (count s fresh) core hit) fn tag 9) { ev with checkOk := true }
  | .gap _ fn tag _ =>
    if ev.checkOk then rollBack (restartRecord (count s f.recent) core hit) fn tag 8
    else escalate (rollBack (restartRecord (count s fresh) core hit) fn tag 9) { ev with checkOk := true }

/-! ### Errors found in memory -/

/-- UNCORRECTABLE_ERROR. A core that reads a bad word of its data halts; the watchdog restarts it. -/
def uncorrectableNow (s : State) (loc : ErrLoc) (hit : Option Stop) : State :=
  onChip s (fun c e =>
    let c := uncorrectable c e loc hit
    arbitrate (match loc with | .farrierData core => if c.dev == .off || 8 ≤ core then c else haltCore c core | _ => c) e)

/-- The command that a patrol finding strikes: nothing reads the line, but scratch and staging are held. -/
def patrolHit (loc : ErrLoc) (stop : Option Stop) : Option Stop :=
  match loc with
  | .scratch _ _ => stop
  | .staging _ => stop
  | .contextState _ => stop
  | _ => none

/-- PATROL_SCRUB (10 R325). -/
def patrol (s : State) (found : ScrubResult) : State :=
  match found with
  | .clean => s
  | .correctable loc n => onChip s (fun c e => correctable c e loc n)
  | .uncorrectable loc stop => onChip s (fun c e => arbitrate (uncorrectable c e loc (patrolHit loc stop)) e)

/-! ### The rows -/

def execFwStage (fn : Nat) (s : State) : Host.Outcome State Fault Refusal :=
  .next (onRequest s fn (fun o => o == 0x50) (fun s r => fwStage s r))

def execFwActivate (fn : Nat) (s : State) : Host.Outcome State Fault Refusal :=
  .next (onRequest s fn (fun o => o == 0x51) (fun s r => fwActivate s fn r))

def execFwLoadComplete (s : State) : Host.Outcome State Fault Refusal := .next (loadComplete s)

def execHandoverValidation (ev : HandoverEvidence) (s : State) : Host.Outcome State Fault Refusal := .next (validate s ev)

def execFwStatus (fn : Nat) (s : State) : Host.Outcome State Fault Refusal :=
  .next (onRequest s fn (fun o => o == 0x52) (fun s _ => .now s (fwStatus s)))

def execFwSetBoot (fn : Nat) (s : State) : Host.Outcome State Fault Refusal :=
  .next (onRequest s fn (fun o => o == 0x53) (fun s r => fwSetBoot s r))

def execSetLimits (fn : Nat) (s : State) : Host.Outcome State Fault Refusal :=
  .next (onRequest s fn (fun o => o == 0x58) (fun s r => setLimits s r))

def execRetireCluster (fn : Nat) (s : State) : Host.Outcome State Fault Refusal :=
  .next (chipRequest s fn 0x60 (fun c e r => some (retireClusterRq c e r)))

def execRetireChannel (fn : Nat) (s : State) : Host.Outcome State Fault Refusal :=
  .next (chipRequest s fn 0x61 (fun c e r => some (retireChannelRq c e r)))

def execWatchdogExpiry (core : Nat) (hit : Option Stop) (ev : HandoverEvidence) (s : State) : Host.Outcome State Fault Refusal :=
  .next (watchdog s core hit ev)

def execUncorrectableError (loc : ErrLoc) (hit : Option Stop) (s : State) : Host.Outcome State Fault Refusal :=
  .next (uncorrectableNow s loc hit)

def execPatrolScrub (found : ScrubResult) (s : State) : Host.Outcome State Fault Refusal := .next (patrol s found)

end Sys2Proof.Machine
end

