-- ==== Sys2Proof/Machine/DomainRequests.lean ====
section
/-! DEFINITION. Requests on beat domains (06 R210, R211), the cabling plan, routes and ports (11 R343, 17 R494). -/

namespace Sys2Proof.Machine

/-! ### Beat domains -/

def setBeatDomain (s : State) (r : Nat) : Answer :=
  let d := bits r 66 64
  let ext := bit r 67
  let out := bit r 68
  let p := bits r 127 96
  let others := s.beats.filter (fun x => x.1 != d)
  if p < 1000000 || 1000000000 < p then .now s (refuse 1)
  else if ext && !hasFeat (featuresOf s.chip 0) featBeatExt then .now s versionMismatch
  else if (ext && others.any (fun x => x.2.ext)) || (out && others.any (fun x => x.2.out)) then .now s (refuse 7)
  else .now (setBeatState s d (reconfigured (beatOf (envOf s) d) s.chip.gait ext out p (bits r 191 128))) (okReply 0)

def getBeatDomain (s : State) (r : Nat) : Answer :=
  let d := bits r 66 64
  let b := beatOf (envOf s) d
  .now (if bit r 67 then setBeatState s d (clearedBeat b) else s) (okReply (beatStatus b))

/-! ### Cabling plan, routes, ports -/

/-- A header that no legal record has: its length is not trusted (11 R340). -/
def badPlanHeader (h : List Byte) : Bool := leAt h 0 4 != 0x3150435A || leAt h 8 2 == 0 || 256 < leAt h 8 2 || 480 < leAt h 10 2

/-- The copy that does not hold the current plan takes the new one (17 R494). -/
def writePlan (s : State) (b : List Byte) : State :=
  { s with flash := if s.flash.plan0 == s.fabric.plan then { s.flash with plan1 := b } else { s.flash with plan0 := b } }

def setCablingPlan (s : State) (r : Nat) : Answer :=
  let off := bits r 191 128
  if off % 64 != 0 then .now s (refuse 1) else
  match deviceObj s.chip 0 (fieldHandle r 95) with
  | none => .now s badHandle
  | some (_, m) =>
    if m.size < off + 64 then .now s badWindow else
    match requestRead s.chip (m.at m.pub off) 64 with
    | (c, none) => .now { s with chip := c } (refuse 8)
    | (c, some h) =>
      let n := planLen h
      if badPlanHeader h then .now { s with chip := c } (refuse 1)
      else if m.size < off + n then .now { s with chip := c } badWindow
      else match requestRead c (m.at m.pub (off + 64)) (n - 64) with
        | (c, none) => .now { s with chip := c } (refuse 8)
        | (c, some rest) =>
          let s := { s with chip := c }
          if planLegal (h ++ rest) then .now (replan (writePlan s (h ++ rest)) (h ++ rest)) (okReply 0) else .now s (refuse 1)

def getPortReport (s : State) (r : Nat) : Reply :=
  let x := portOf s.fabric (bits r 65 64)
  okReply (field (match x.hello with | some h => h.toNat | none => 0) 64 256 + field x.state 320 4)

/-- An entry forced to DROP, or computed again. What waited for the route may go on. -/
def setRoute (s : State) (r : Nat) : Answer :=
  let d := bits r 71 64
  .now { s with fabric := { s.fabric with forced := if bit r 72 then insertNat s.fabric.forced d else removeNat s.fabric.forced d } } (okReply 0)

def rediscover (s : State) (r : Nat) : Answer :=
  let q := bits r 65 64
  .now (if portsLive s q then retrain s q else s) (okReply 0)

/-! ### The rows -/

def execSetBeatDomain (fn : Nat) (s : State) : Host.Outcome State Fault Refusal :=
  .next (onRequest s fn (fun o => o == 0x70) (fun s r => setBeatDomain s r))

def execGetBeatDomain (fn : Nat) (s : State) : Host.Outcome State Fault Refusal :=
  .next (onRequest s fn (fun o => o == 0x71) (fun s r => getBeatDomain s r))

def execSetCablingPlan (fn : Nat) (s : State) : Host.Outcome State Fault Refusal :=
  .next (onRequest s fn (fun o => o == 0x78) (fun s r => setCablingPlan s r))

def execGetPortReport (fn : Nat) (s : State) : Host.Outcome State Fault Refusal :=
  .next (onRequest s fn (fun o => o == 0x79) (fun s r => .now s (getPortReport s r)))

def execSetRoute (fn : Nat) (s : State) : Host.Outcome State Fault Refusal :=
  .next (onRequest s fn (fun o => o == 0x7A) (fun s r => setRoute s r))

def execRediscover (fn : Nat) (s : State) : Host.Outcome State Fault Refusal :=
  .next (onRequest s fn (fun o => o == 0x7B) (fun s r => rediscover s r))

end Sys2Proof.Machine
end

