-- ==== Sys2Proof/Machine/Power.lean ====
section
/-! DEFINITION. Whole-device reset and bring-up (13 R404, 14 R417 to R422), the host link and its functions (03 R96 to R101), rails and pins
(17 R476, R481, R484), wakes by Halter (12 R378), and the tick with what each cycle settles. -/

namespace Sys2Proof.Machine

/-- One timebase cycle with what it does on the ports, the note of work that ends or begins (17 R486), and teardowns that have ended (13 R403). -/
def idleStep (s : State) : State := noteIdle (onChip (fabricTick (tick s)) (fun c e => noteTf (teardownsEnd c e)))

/-! ### Whole-device reset -/

/-- Whole-device reset with its cause (13 R404, 17 R492): the pins' levels, VDD_AON's island and what left the chip stay, and the flash's
log of repaired rows (14 R421). -/
def wholeReset (s : State) (cause : Nat) : State :=
  let c := s.chip
  let h := s.halter
  { s with
    chip := { Chip.reset with out := c.out, free := c.free, clock := c.clock, cycles := c.cycles,
                              memory := { Memory.reset with rowRepairs := c.memory.rowRepairs } },
    farrier := Farrier.reset, link := Link.reset, gov := { Gov.reset s.fuses with extAlert := s.gov.extAlert }, beats := [],
    fabric := Fabric.reset,
    halter := { Halter.reset with vddAon := h.vddAon, pwrGood := h.pwrGood, perstN := h.perstN, smbAddr := h.smbAddr, goodAt := h.goodAt,
                                  shutdownHold := h.shutdownHold, resetCause := cause, sysclk := h.sysclk, hclk := h.hclk,
                                  refclk := h.refclk, zrefclk := h.zrefclk } }

/-! ### Bring-up -/

/-- The first valid image in the order of 14 R417, with its slot. -/
def bootImage (f : Flash) : Option (Nat × FwImage) :=
  [f.pref, 1 - f.pref, 2].findSome? (fun i => (slotImage f i).map (fun g => (i, g)))

/-- The legal plan copy with the higher PLAN_GEN (17 R494); no bytes when none is legal. -/
def bootPlan (f : Flash) : List Byte :=
  let ok := fun (b : List Byte) => planLegal (b.take (planLen b))
  if ok f.plan0 && (!ok f.plan1 || leAt f.plan1 4 4 ≤ leAt f.plan0 4 4) then f.plan0 else if ok f.plan1 then f.plan1 else []

/-- Ports that the plan links start training at 150 ms (14 R418 step 7, 17 R477). -/
def bootPort (s : State) (q : Nat) : State :=
  let linked := (partner (placeNow s) q).isSome && s.halter.zrefclk
  setPort s q { Port.reset with state := if linked then 1 else 0, trainAt := s.chip.clock + 150000000 }

/-- Time 0 of bring-up, and what follows without further choice: fuses, image, ports (14 R418 steps 1, 4 and 7). -/
def beginBringup (s : State) : State :=
  let h := s.halter
  let s := { s with halter := { h with bootAt := some s.chip.clock },
                    chip := { s.chip with dev := .bringup, ctt := { s.chip.ctt with staticValid := h.hclk } } }
  if !h.hclk || !h.sysclk then s else
  let s := { s with gov := { s.gov with thermalLimiting := s.gov.extAlert } }
  match bootImage s.flash with
  | none => s
  | some (slot, i) =>
    let s := { s with farrier := { s.farrier with running := some i, slot := slot }, fabric := { s.fabric with plan := bootPlan s.flash },
                      chip := startCores s.chip }
    retime ((List.range 4).foldl bootPort s)

/-- Cluster map of 14 R422: passing non-spare clusters take the numbers in ascending order; each number left over goes to the nearest
free spare of the failed cluster it is paired with. -/
def mapClusters (c : Chip) (spares failed : List Nat) : Chip :=
  let all := List.range 336
  let good := all.filter (fun p => !spares.contains p && !failed.contains p)
  let bad := all.filter (fun p => !spares.contains p && failed.contains p)
  let put := fun (c : Chip) (ps : List Nat) (v : ClState × Option Nat) => ps.foldl (fun c p => setPhys c p v) c
  let c := put (put c failed (.failed, none)) (spares.filter (fun p => !failed.contains p)) (.spare, none)
  let c := good.zipIdx.foldl (fun c p => setPhys c p.1 (.enabled, some p.2)) c
  bad.zipIdx.foldl (fun c p =>
    match nearestSpare c p.1 with
    | some s => setPhys c s (.enabled, some (good.length + p.2))
    | none => c) c

/-- A channel that training retires takes a spare image at once (14 R421). -/
def bootRetire (c : Chip) (ch : Nat × Nat) : Chip :=
  let x := stackState c ch.1
  if (tget x.retired ch.2).isSome || x.dead.contains ch.2 then c else
  match x.spareFree with
  | i :: r => setStack c ch.1 { x with spareFree := r, retired := tset x.retired ch.2 i }
  | [] => setStack c ch.1 { x with dead := insertNat x.dead ch.2 }

/-- Channels that do not come into service: those found failing, those of the repair log, and those whose repaired rows reach 64. -/
def badChannels (s : State) (t : BringupTest) : List (Nat × Nat) :=
  let worn := fun (s : State) (p : Nat × Nat) => 64 ≤ (tget s.chip.memory.rowRepairs (32 * p.1 + p.2)).getD 0
  ((List.range 8).flatMap (fun i => (List.range 32).map (fun j => (i, j)))).filter (fun p =>
    t.failedChannels.contains p || s.flash.retiredLog.contains p || worn s p)

/-- A trained neighbour from which a returning time master takes its count: its time frames report a HOPS other than 1 (11 R359). -/
def timeSource (s : State) : Bool :=
  [3, 1, 0, 2].any (fun q =>
    let x := portOf s.fabric q
    x.trained && x.heard && (match x.hops with | some h => h != 1 | none => false)
      && (match x.hello with | some h => hDevState h == 3 || hDevState h == 4 | none => false))

/-- The one-time set of the gait counter at step 8, by the round trip made there (11 R358, R359). -/
def setGait (s : State) (delay off : Int) : State :=
  let f := s.fabric
  let made := { f with gaitSet := true, delay := delay, offset := off }
  if timeMaster (placeNow s) then
    if timeSource s then { s with fabric := made, chip := addGait s.chip off } else { s with fabric := { f with gaitSet := true } }
  else if f.parent.isNone then s
  else { s with fabric := { made with measured := true, asked := none, askAt := s.chip.clock + 10000000000 }, chip := addGait s.chip off }

/-- Nothing holds the cluster clock at 600 MHz. -/
def clockFree (g : Gov) : Bool := !g.thermalLimiting && !g.powerLimiting && !g.extAlert && !g.regFault

/-- The clock that bring-up raises to: nominal, within the cap (03 R107). -/
def nominalClock (s : State) : Nat := max 600 (min (min 1500 s.fuses.fmax) s.gov.fcap)

/-- Walk causes that bring-up finds (14 R419). -/
def bootCauses (c : Chip) (t : BringupTest) : BitVec 5 :=
  let short := (enabledClusters c).length < 320
  let dead := c.memory.stackTab.any (fun p => !p.2.dead.isEmpty)
  c.walk ||| BitVec.ofNat 5 (4 * boolNat short + 8 * boolNat dead + 16 * boolNat t.sramExhausted)

/-- The end state (14 R419, 04 R148, 13 R410). -/
def endBringup (s : State) (causes : BitVec 5) (major : W16) : State :=
  if causes != 0 then
    startBeats { s with chip := postEvent (raiseSource { s.chip with dev := .walk, walk := causes } 29) 0x22 0 causes.toNat 0 0 }
  else if s.farrier.ifaceReq != 0 && s.farrier.ifaceReq != major then setDev s .hold
  else startBeats (setDev s .ready)

/-- BRINGUP_END. -/
def bringupEnds (s : State) (t : BringupTest) : State :=
  let h := s.halter
  match s.chip.dev, s.farrier.running with
  | .bringup, some i =>
    if !h.hclk || !h.sysclk || !h.refclk then s else
    let bad := badChannels s t
    let failed := (List.range 336).filter (fun p => t.failedClusters.contains p || s.flash.failedLog.contains p)
    let c := bad.foldl bootRetire (mapClusters s.chip s.fuses.spares failed)
    let c := { c with tenants := c.tenants.map (fun p => (p.1, { p.2 with dbLatch := [] })),
                      ctt := { c.ctt with clmapValid := true } }
    let g := if clockFree s.gov then { s.gov with clMhz := nominalClock s, lastUp := some s.chip.clock } else s.gov
    let s := { s with chip := raiseGen c, gov := g, flash := { s.flash with retiredLog := bad, failedLog := failed } }
    onChip (endBringup (setGait s t.delay t.offset) (bootCauses c t) i.major) checkpoint
  | _, _ => s

/-! ### Resets by pins, rails and link -/

def perstAssert (s : State) : State :=
  let s := if s.chip.dev == .off then s else wholeReset s 1
  { s with halter := { s.halter with perstN := false, shutdownHold := false } }

/-- VDD_AON and PWR_GOOD are up, PERST_N is deasserted and no shutdown holds the device. -/
def mayBoot (h : Halter) : Bool := h.vddAon && h.pwrGood && h.perstN && !h.shutdownHold

def perstDeassert (s : State) : State :=
  if s.halter.perstN then s else
  let s := { s with halter := { s.halter with perstN := true } }
  if s.chip.dev == .off && mayBoot s.halter then beginBringup s else s

def hotReset (s : State) : State := if s.chip.dev != .off && s.chip.linkUp then beginBringup (wholeReset s 2) else s

/-- PWR_GOOD_RISE: the straps are sampled (17 R476). -/
def goodRise (s : State) (straps : Nat) : State :=
  if !s.halter.vddAon || s.halter.pwrGood then s else
  let s := { s with halter := { s.halter with pwrGood := true, smbAddr := straps % 4, goodAt := some s.chip.clock, shutdownHold := false } }
  if s.chip.dev == .off && mayBoot s.halter then beginBringup s else s

/-- PWR_GOOD_FALL: with PERST_N deasserted it is loss of power (17 R481). -/
def goodFall (s : State) : State :=
  if !s.halter.pwrGood then s else
  let s := if s.halter.perstN then wholeReset s 4 else s
  { s with halter := { s.halter with pwrGood := false } }

def aonRise (s : State) : State :=
  if s.halter.vddAon then s else { s with halter := { s.halter with vddAon := true, resetCause := 0, goodAt := none } }

/-- VDD_AON_FALL with PWR_GOOD low: the island loses what it held (17 R484). -/
def aonFall (s : State) : State := { s with halter := { s.halter with vddAon := false, goodAt := none } }

def shutdownNow (s : State) : State :=
  if s.chip.dev == .off || !s.gov.shutdownPending then s else
  let s := wholeReset s 3
  { s with halter := { s.halter with shutdownHold := true } }

/-! ### Host link and functions -/

/-- LINK_UP: what waited on crossing 4 proceeds (03 R96). -/
def linkRises (s : State) (speed width : Nat) (flit : Bool) : State :=
  let h := s.halter
  let ok := 1 ≤ speed && speed ≤ 6 && [1, 2, 4, 8, 16].contains width
  if s.chip.dev == .off || s.chip.linkUp || !ok || !h.hclk || !h.sysclk || !h.refclk then s else
  let l := { s.link with speed := speed, width := width, flit := flit }
  let c := { s.chip with linkUp := true, out := s.chip.out ++ s.chip.heldOut, heldOut := [] }
  { s with link := l, chip := if l == s.link then c else raiseGen c }

/-- A transfer whose host read was lost completes with TIMEOUT (03 R96, 13 R387). -/
def loseRead (c : Chip) (e : Env) (stop : Stop) : Chip :=
  match attemptOf c stop.q stop.seq with
  | none => c
  | some k =>
    match k.job with
    | .outride sm _ _ _ =>
      match tget c.mems sm with
      | some m =>
        if m.kind == .host && struck k false
        then completeEngine c e stop.q k stTimeout 0 (some (faultInfo c 6 3 m.handle 1 0 0))
        else c
      | none => c
    | _ => c

def linkFalls (s : State) (lost : List Stop) : State :=
  if !s.chip.linkUp then s else
  onChip { s with chip := { s.chip with linkUp := false } } (fun c e => arbitrate (lost.foldl (fun c l => loseRead c e l) c) e)

/-- Configuration writes reach the device over the link. -/
def configured (s : State) : Bool := s.chip.dev != .off && s.chip.linkUp

def vfEnableSet (s : State) (n : Nat) : State :=
  if !configured s || s.link.vfEnable || 31 < n then s else
  { s with link := { s.link with vfEnable := true, numVfs := n },
           chip := (List.range n).foldl (fun c i => modTenant c (i + 1) (fun t => { t with present := true })) s.chip }

def removeVf (c : Chip) (e : Env) (stops : List Stop) (t : Nat) : Chip :=
  if (tenantOf c t).present then resetFunction (teardown c e t stops) t else c

/-- No VF exists any more. -/
def hideVfs (c : Chip) : Chip :=
  { c with tenants := c.tenants.map (fun p => (p.1, if p.1 == 0 then p.2 else { p.2 with present := false })) }

def vfEnableClear (s : State) (stops : List Stop) : State :=
  if !configured s || !s.link.vfEnable then s else
  let s := onChip s (fun c e => hideVfs (arbitrate ((List.range 31).foldl (fun c i => removeVf c e stops (i + 1)) c) e))
  { s with link := { s.link with vfEnable := false } }

def flr (s : State) (fn : Nat) (stops : List Stop) : State :=
  if !configured s || fn == 0 || 31 < fn || !(tenantOf s.chip fn).present then s else
  onChip s (fun c e => arbitrate (resetFunction (teardown c e fn stops) fn) e)

/-- BAR2_SIZE_WRITE (03 R101): all VFs have one size. -/
def setBar2Size (c : Chip) (fn log2 : Nat) : Chip :=
  if fn == 0 then
    if (tenantOf c 0).memSpace || log2 < 28 || 38 < log2 then c else modTenant c 0 (fun t => { t with bar2Log2 := log2 })
  else if c.tenants.any (fun p => p.1 != 0 && p.2.memSpace) || log2 < 26 || 36 < log2 then c
  else (List.range 31).foldl (fun c i => modTenant c (i + 1) (fun t => { t with bar2Log2 := log2 })) c

/-! ### Halter -/

/-- HALTER_WAKE. -/
def halterWakes (s : State) (line : HaltLine) (levels : List Nat) : State :=
  match line with
  | .watch i level t => watchWake s i level t levels
  | .clkreq => if s.halter.power == .halt then wokenBy s 0x1E (some levels) else s
  | .perst => if s.halter.power == .halt then perstAssert s else s

/-- The SMBus target answers (17 R476, R19). -/
def smbusAnswers (s : State) : Bool := s.halter.vddAon && s.halter.hclk && since s.halter.goodAt s.chip.clock 2000000

def smbus (s : State) (v : Option Nat) : State := if smbusAnswers s then { s with chip := emit s.chip (.smbus v) } else s

/-- The Governor's readings do not reach Halter in OFF and HALT. -/
def readingsOff (s : State) : Bool := s.chip.dev == .off || s.halter.power == .halt

/-! ### The rows -/

def execPerstNAssert (s : State) : Host.Outcome State Fault Refusal := .next (perstAssert s)
def execPerstNDeassert (s : State) : Host.Outcome State Fault Refusal := .next (perstDeassert s)
def execLinkHotReset (s : State) : Host.Outcome State Fault Refusal := .next (hotReset s)
def execBringupEnd (test : BringupTest) (s : State) : Host.Outcome State Fault Refusal := .next (bringupEnds s test)
def execPwrGoodRise (straps : Nat) (s : State) : Host.Outcome State Fault Refusal := .next (goodRise s straps)
def execPwrGoodFall (s : State) : Host.Outcome State Fault Refusal := .next (goodFall s)
def execVddAonRise (s : State) : Host.Outcome State Fault Refusal := .next (aonRise s)

/-- VDD_AON_FALL. While PWR_GOOD is high the rails leave their ranges without its fall, which has no defined result (17 R481). -/
def execVddAonFall (s : State) : Host.Outcome State Fault Refusal :=
  if s.halter.vddAon && s.halter.pwrGood then .fault .railsOutOfRange else .next (aonFall s)

def execThermalShutdown (s : State) : Host.Outcome State Fault Refusal := .next (shutdownNow s)

def execLinkUp (speed width : Nat) (flit : Bool) (s : State) : Host.Outcome State Fault Refusal := .next (linkRises s speed width flit)
def execLinkDown (lost : List Stop) (s : State) : Host.Outcome State Fault Refusal := .next (linkFalls s lost)
def execVfEnableSet (numVfs : Nat) (s : State) : Host.Outcome State Fault Refusal := .next (vfEnableSet s numVfs)
def execVfEnableClear (stops : List Stop) (s : State) : Host.Outcome State Fault Refusal := .next (vfEnableClear s stops)
def execVfFlr (fn : Nat) (stops : List Stop) (s : State) : Host.Outcome State Fault Refusal := .next (flr s fn stops)

def execBar2SizeWrite (fn log2 : Nat) (s : State) : Host.Outcome State Fault Refusal :=
  .next (if configured s && fn < 32 then onChip s (fun c _ => setBar2Size c fn log2) else s)

def execHalterWake (wake : HaltWake) (s : State) : Host.Outcome State Fault Refusal := .next (halterWakes s wake.line wake.levels)

def execSmbusDevState (s : State) : Host.Outcome State Fault Refusal := .next (smbus s (some (devCode s.chip.dev)))
def execSmbusTjC (s : State) : Host.Outcome State Fault Refusal := .next (smbus s (some (if readingsOff s then 0xFF else s.gov.tj % 256)))
def execSmbusPowerW (s : State) : Host.Outcome State Fault Refusal := .next (smbus s (some (if readingsOff s then 0 else s.gov.power % 65536)))
def execSmbusResetCause (s : State) : Host.Outcome State Fault Refusal := .next (smbus s (some s.halter.resetCause))
def execSmbusBoard (s : State) : Host.Outcome State Fault Refusal := .next (smbus s (some (boardOf s)))

/-- Every command but 0x00 to 0x04 is answered with NACK. -/
def execSmbusOtherCommand (code : Nat) (s : State) : Host.Outcome State Fault Refusal := .next (if code < 5 then s else smbus s none)

end Sys2Proof.Machine
end

