-- ==== Sys2Proof/Machine/Governor.lean ====
section
/-! DEFINITION. The Governor (14 R424 to R428, 13 R409, 17 R482, R483). -/

namespace Sys2Proof.Machine

/-- The Governor is in force from step 1 of bring-up, and its clock stops in HALT (14 R418, 17 R488). -/
def governs (s : State) : Bool := s.chip.dev != .off && s.halter.power != .halt

def throttling (g : Gov) : Bool := g.thermalLimiting || g.powerLimiting

/-- What a change of the Governor's state shows: source 1 at a change of throttle-active state, GEN at a change of the clock (14 R425). -/
def withGov (s : State) (g : Gov) : State :=
  let c := if throttling g == throttling s.gov then s.chip else raiseSource s.chip 1
  { s with gov := g, chip := if g.clMhz == s.gov.clMhz then c else raiseGen c }

/-- A reading reaches its limit; the pin counts as the throttle limit (17 R483). -/
def hot (g : Gov) : Bool := g.tthrot ≤ g.tj || g.extAlert
def strong (g : Gov) : Bool := g.plimit ≤ g.power

/-- 3 °C and 5 % below: the limit no longer holds the clock. -/
def cool (g : Gov) : Bool := g.tj + 3 ≤ g.tthrot && !g.extAlert
def light (g : Gov) : Bool := g.power * 100 ≤ g.plimit * 95

/-- The readings of 14 R427. -/
def beyond (g : Gov) : Bool := g.tthrot ≤ g.tj || g.plimit < g.power

/-- One step down at most, at once or 100 µs after the last (14 R425). -/
def stepDown (g : Gov) (now : Nat) : Gov :=
  if !(hot g || strong g) then { g with lastDown := none }
  else if (match g.lastDown with | some t => decide (t + 100000 ≤ now) | none => true) then { g with lastDown := some now, clMhz := max 600 (g.clMhz - 100) }
  else g

/-- Since when a condition holds. -/
def keepSince (t : Option Nat) (now : Nat) (holds : Bool) : Option Nat := if holds then some (t.getD now) else none

/-- The flags and times that follow the readings. -/
def settleGov (g : Gov) (now : Nat) : Gov :=
  { g with thermalLimiting := hot g || (g.thermalLimiting && !cool g), powerLimiting := strong g || (g.powerLimiting && !light g),
           lastUp := keepSince g.lastUp now (cool g && light g), stuckSince := keepSince g.stuckSince now (g.clMhz == 600 && beyond g),
           heldSince := keepSince g.heldSince now (!beyond g && !g.regFault), holdFail := g.holdFail && (beyond g || g.regFault) }

/-- GOVERNOR_SAMPLE. A sensor at the shutdown limit raises source 2 (14 R428). -/
def sample (s : State) (tj power : Nat) : State :=
  if !governs s then s else
  let now := s.chip.clock
  let g := settleGov (stepDown { s.gov with tj := tj, power := power } now) now
  let s' := withGov s g
  if g.tshut ≤ tj && !g.shutdownPending
  then { s' with gov := { g with shutdownPending := true }, chip := raiseSource s'.chip 2 } else s'

/-- GOVERNOR_STEP_UP. -/
def stepUp (s : State) : State :=
  let g := s.gov
  if !governs s || s.chip.dev == .bringup || !cool g || !light g || throttling g || g.regFault || g.fcap ≤ g.clMhz
      || !since g.lastUp s.chip.clock 10000000 then s
  else withGov s { g with clMhz := min g.fcap (g.clMhz + 100), lastUp := some s.chip.clock }

/-- Walk cause GOVERNOR (13 R409). -/
def governorLost (s : State) : State := onChip s (fun c e => arbitrate (walkEntry c e 0) e)

/-- GOVERNOR_HOLD_FAIL. -/
def holdFails (s : State) : State :=
  if governs s && since s.gov.stuckSince s.chip.clock 1000000000 then governorLost { s with gov := { s.gov with holdFail := true } } else s

/-- GOVERNOR_CAUSE_CLEAR. -/
def causeClears (s : State) : State :=
  if governs s && bit s.chip.walk.toNat 0 && since s.gov.heldSince s.chip.clock 10000000000
  then { s with chip := { s.chip with walkCleared := s.chip.walkCleared ||| 1 } } else s

/-- THERM_ALERT_N low for 1 ms, or high again. In HALT the pin is ignored. -/
def thermAlert (s : State) (low : Bool) : State :=
  if s.chip.dev == .off then { s with gov := { s.gov with extAlert := low } }
  else if !governs s || s.gov.extAlert == low then s
  else withGov s (settleGov (stepDown { s.gov with extAlert := low } s.chip.clock) s.chip.clock)

/-- REGULATOR_FAULT: 600 MHz, and the limit counts as not holdable. -/
def regulatorFails (s : State) : State :=
  if !governs s || s.gov.regFault then s
  else governorLost (withGov s { s.gov with regFault := true, clMhz := 600, holdFail := true, heldSince := none })

def execGovernorSample (tj power : Nat) (s : State) : Host.Outcome State Fault Refusal := .next (sample s tj power)
def execGovernorStepUp (s : State) : Host.Outcome State Fault Refusal := .next (stepUp s)
def execGovernorHoldFail (s : State) : Host.Outcome State Fault Refusal := .next (holdFails s)
def execGovernorCauseClear (s : State) : Host.Outcome State Fault Refusal := .next (causeClears s)
def execThermAlertN (low : Bool) (s : State) : Host.Outcome State Fault Refusal := .next (thermAlert s low)
def execRegulatorFault (s : State) : Host.Outcome State Fault Refusal := .next (regulatorFails s)

end Sys2Proof.Machine
end

