-- ==== Sys2Proof/Machine/Dispatch.lean ====
section
/-! DEFINITION. One arm for each command: a direct call of its meaning. -/

namespace Sys2Proof.Machine

def exec (i : Instr) (s : State) : Host.Outcome State Fault Refusal :=
  match i with
  | .doorbell fn slot value => Sys2Proof.Machine.execDoorbell fn slot value s
  | .bar2Read fn off len => Sys2Proof.Machine.execBar2Read fn off len s
  | .bar2Write fn off data => Sys2Proof.Machine.execBar2Write fn off data s
  | .lowHalfRead fn target => Sys2Proof.Machine.execLowHalfRead fn target s
  | .registerWrite fn target value => Sys2Proof.Machine.execRegisterWrite fn target value s
  | .windowSetValid tenant win control => Sys2Proof.Machine.execWindowSetValid tenant win control s
  | .windowFillDone tenant win => Sys2Proof.Machine.execWindowFillDone tenant win s
  | .windowClearValid tenant win clear => Sys2Proof.Machine.execWindowClearValid tenant win clear s
  | .requestTailWrite fn value => Sys2Proof.Machine.execRequestTailWrite fn value s
  | .responseHeadWrite fn value => Sys2Proof.Machine.execResponseHeadWrite fn value s
  | .undefinedRequest fn => Sys2Proof.Machine.execUndefinedRequest fn s
  | .negotiate fn => Sys2Proof.Machine.execNegotiate fn s
  | .createContext fn => Sys2Proof.Machine.execCreateContext fn s
  | .createQueue fn => Sys2Proof.Machine.execCreateQueue fn s
  | .createMemory fn => Sys2Proof.Machine.execCreateMemory fn s
  | .createHitch fn => Sys2Proof.Machine.execCreateHitch fn s
  | .createEvent fn => Sys2Proof.Machine.execCreateEvent fn s
  | .armEvent fn => Sys2Proof.Machine.execArmEvent fn s
  | .loadProgram fn => Sys2Proof.Machine.execLoadProgram fn s
  | .setBeat fn => Sys2Proof.Machine.execSetBeat fn s
  | .setNoticeRing fn => Sys2Proof.Machine.execSetNoticeRing fn s
  | .setErrorRing fn => Sys2Proof.Machine.execSetErrorRing fn s
  | .setQuota fn => Sys2Proof.Machine.execSetQuota fn s
  | .createDescriptors fn => Sys2Proof.Machine.execCreateDescriptors fn s
  | .destroyDescriptors fn => Sys2Proof.Machine.execDestroyDescriptors fn s
  | .exportObject fn => Sys2Proof.Machine.execExportObject fn s
  | .revokeToken fn => Sys2Proof.Machine.execRevokeToken fn s
  | .bindSource fn => Sys2Proof.Machine.execBindSource fn s
  | .setSourceVector fn => Sys2Proof.Machine.execSetSourceVector fn s
  | .setCounter fn => Sys2Proof.Machine.execSetCounter fn s
  | .readCounters fn => Sys2Proof.Machine.execReadCounters fn s
  | .freezeRequest fn => Sys2Proof.Machine.execFreezeRequest fn s
  | .setTraceBuffer fn => Sys2Proof.Machine.execSetTraceBuffer fn s
  | .audit fn => Sys2Proof.Machine.execAudit fn s
  | .resetQueue fn stops => Sys2Proof.Machine.execResetQueue fn stops s
  | .resetContext fn stops => Sys2Proof.Machine.execResetContext fn stops s
  | .resumeContext fn => Sys2Proof.Machine.execResumeContext fn s
  | .resetCluster fn passes readable run => Sys2Proof.Machine.execResetCluster fn passes readable run s
  | .resetEngine fn done => Sys2Proof.Machine.execResetEngine fn done s
  | .resetTenant fn stops => Sys2Proof.Machine.execResetTenant fn stops s
  | .getWalk fn => Sys2Proof.Machine.execGetWalk fn s
  | .exitWalk fn => Sys2Proof.Machine.execExitWalk fn s
  | .fwStage fn => Sys2Proof.Machine.execFwStage fn s
  | .fwActivate fn => Sys2Proof.Machine.execFwActivate fn s
  | .fwLoadComplete => Sys2Proof.Machine.execFwLoadComplete s
  | .handoverValidation ev => Sys2Proof.Machine.execHandoverValidation ev s
  | .fwStatus fn => Sys2Proof.Machine.execFwStatus fn s
  | .fwSetBoot fn => Sys2Proof.Machine.execFwSetBoot fn s
  | .setLimits fn => Sys2Proof.Machine.execSetLimits fn s
  | .retireCluster fn => Sys2Proof.Machine.execRetireCluster fn s
  | .retireChannel fn => Sys2Proof.Machine.execRetireChannel fn s
  | .setBeatDomain fn => Sys2Proof.Machine.execSetBeatDomain fn s
  | .getBeatDomain fn => Sys2Proof.Machine.execGetBeatDomain fn s
  | .setCablingPlan fn => Sys2Proof.Machine.execSetCablingPlan fn s
  | .getPortReport fn => Sys2Proof.Machine.execGetPortReport fn s
  | .setRoute fn => Sys2Proof.Machine.execSetRoute fn s
  | .rediscover fn => Sys2Proof.Machine.execRediscover fn s
  | .packetFetch q => Sys2Proof.Machine.execPacketFetch q s
  | .undefinedOpcode q => Sys2Proof.Machine.execUndefinedOpcode q s
  | .nop q => Sys2Proof.Machine.execNop q s
  | .tag q => Sys2Proof.Machine.execTag q s
  | .query q => Sys2Proof.Machine.execQuery q s
  | .launchProgram q => Sys2Proof.Machine.execLaunchProgram q s
  | .launchList q => Sys2Proof.Machine.execLaunchList q s
  | .replayList q => Sys2Proof.Machine.execReplayList q s
  | .waitHitch q => Sys2Proof.Machine.execWaitHitch q s
  | .waitSlotObtained q => Sys2Proof.Machine.execWaitSlotObtained q s
  | .waitTimeout q => Sys2Proof.Machine.execWaitTimeout q s
  | .signalHitch q => Sys2Proof.Machine.execSignalHitch q s
  | .groom q => Sys2Proof.Machine.execGroom q s
  | .outride q => Sys2Proof.Machine.execOutride q s
  | .scalarOp q => Sys2Proof.Machine.execScalarOp q s
  | .reduceToScalar q => Sys2Proof.Machine.execReduceToScalar q s
  | .branch q => Sys2Proof.Machine.execBranch q s
  | .loopBegin q => Sys2Proof.Machine.execLoopBegin q s
  | .loopEnd q => Sys2Proof.Machine.execLoopEnd q s
  | .beatMark q => Sys2Proof.Machine.execBeatMark q s
  | .freeze q => Sys2Proof.Machine.execFreeze q s
  | .retain q => Sys2Proof.Machine.execRetain q s
  | .release q => Sys2Proof.Machine.execRelease q s
  | .debugBreakOn q => Sys2Proof.Machine.execDebugBreakOn q s
  | .debugBisect q => Sys2Proof.Machine.execDebugBisect q s
  | .launchComplete q seq run => Sys2Proof.Machine.execLaunchComplete q seq run s
  | .groomComplete q seq => Sys2Proof.Machine.execGroomComplete q seq s
  | .outrideComplete q seq hostData reply parts => Sys2Proof.Machine.execOutrideComplete q seq hostData reply parts s
  | .reduceComplete q seq => Sys2Proof.Machine.execReduceComplete q seq s
  | .commandRetire q => Sys2Proof.Machine.execCommandRetire q s
  | .commitPoint q => Sys2Proof.Machine.execCommitPoint q s
  | .discardedWorkStop stop => Sys2Proof.Machine.execDiscardedWorkStop stop s
  | .recordHeldWrite q => Sys2Proof.Machine.execRecordHeldWrite q s
  | .consReread ring => Sys2Proof.Machine.execConsReread ring s
  | .noticePost tenant => Sys2Proof.Machine.execNoticePost tenant s
  | .commandAged q seq => Sys2Proof.Machine.execCommandAged q seq s
  | .preemptionPoint stop => Sys2Proof.Machine.execPreemptionPoint stop s
  | .preemptedResume q seq => Sys2Proof.Machine.execPreemptedResume q seq s
  | .controlCoreException q seq halts run => Sys2Proof.Machine.execControlCoreException q seq halts run s
  | .yieldSpacingExceeded q seq late run => Sys2Proof.Machine.execYieldSpacingExceeded q seq late run s
  | .trapRaised q seq run => Sys2Proof.Machine.execTrapRaised q seq run s
  | .recoverableFault stop cls info carriedLost published => Sys2Proof.Machine.execRecoverableFault stop cls info carriedLost published s
  | .replayStart q seq => Sys2Proof.Machine.execReplayStart q seq s
  | .clusterFault logical readable run => Sys2Proof.Machine.execClusterFault logical readable run s
  | .mapInComplete logical failedSpares => Sys2Proof.Machine.execMapInComplete logical failedSpares s
  | .uncorrectableError loc hit => Sys2Proof.Machine.execUncorrectableError loc hit s
  | .correctableError loc noSpare => Sys2Proof.Machine.execCorrectableError loc noSpare s
  | .patrolScrub found => Sys2Proof.Machine.execPatrolScrub found s
  | .channelMigrationDone stack channel => Sys2Proof.Machine.execChannelMigrationDone stack channel s
  | .backgroundFill => Sys2Proof.Machine.execBackgroundFill s
  | .governorCauseClear => Sys2Proof.Machine.execGovernorCauseClear s
  | .linkDown lost => Sys2Proof.Machine.execLinkDown lost s
  | .linkHotReset => Sys2Proof.Machine.execLinkHotReset s
  | .perstNAssert => Sys2Proof.Machine.execPerstNAssert s
  | .perstNDeassert => Sys2Proof.Machine.execPerstNDeassert s
  | .bringupEnd test => Sys2Proof.Machine.execBringupEnd test s
  | .pwrGoodRise straps => Sys2Proof.Machine.execPwrGoodRise straps s
  | .pwrGoodFall => Sys2Proof.Machine.execPwrGoodFall s
  | .vfEnableClear stops => Sys2Proof.Machine.execVfEnableClear stops s
  | .vfFlr fn stops => Sys2Proof.Machine.execVfFlr fn stops s
  | .governorSample tj power => Sys2Proof.Machine.execGovernorSample tj power s
  | .governorStepUp => Sys2Proof.Machine.execGovernorStepUp s
  | .governorHoldFail => Sys2Proof.Machine.execGovernorHoldFail s
  | .thermalShutdown => Sys2Proof.Machine.execThermalShutdown s
  | .thermAlertN low => Sys2Proof.Machine.execThermAlertN low s
  | .regulatorFault => Sys2Proof.Machine.execRegulatorFault s
  | .watchdogExpiry core hit ev => Sys2Proof.Machine.execWatchdogExpiry core hit ev s
  | .beatBoundary domain => Sys2Proof.Machine.execBeatBoundary domain s
  | .beatOutPulseEnd => Sys2Proof.Machine.execBeatOutPulseEnd s
  | .beatSyncEdge t => Sys2Proof.Machine.execBeatSyncEdge t s
  | .freeRun domain => Sys2Proof.Machine.execFreeRun domain s
  | .filterAccept src level t => Sys2Proof.Machine.execFilterAccept src level t s
  | .sourceEvent src => Sys2Proof.Machine.execSourceEvent src s
  | .rnSrcCfgWrite src value level => Sys2Proof.Machine.execRnSrcCfgWrite src value level s
  | .rnGroupOwnerWrite group value => Sys2Proof.Machine.execRnGroupOwnerWrite group value s
  | .coreDelivery src => Sys2Proof.Machine.execCoreDelivery src s
  | .coreEoi core src => Sys2Proof.Machine.execCoreEoi core src s
  | .msiXMessage fn vector => Sys2Proof.Machine.execMsiXMessage fn vector s
  | .vectorUnmask fn vector => Sys2Proof.Machine.execVectorUnmask fn vector s
  | .rnHostEoi src => Sys2Proof.Machine.execRnHostEoi src s
  | .asyncEdgeLatch src t => Sys2Proof.Machine.execAsyncEdgeLatch src t s
  | .halterWake wake => Sys2Proof.Machine.execHalterWake wake s
  | .idleEntry => Sys2Proof.Machine.execIdleEntry s
  | .dozeEntry => Sys2Proof.Machine.execDozeEntry s
  | .haltEntry => Sys2Proof.Machine.execHaltEntry s
  | .wakeEvent w levels => Sys2Proof.Machine.execWakeEvent w levels s
  | .freezeLatch => Sys2Proof.Machine.execFreezeLatch s
  | .freezeOutPulseEnd => Sys2Proof.Machine.execFreezeOutPulseEnd s
  | .freezeRelease => Sys2Proof.Machine.execFreezeRelease s
  | .cntGroupWrite group value => Sys2Proof.Machine.execCntGroupWrite group value s
  | .freezeBroadcastFrame port tf id slice => Sys2Proof.Machine.execFreezeBroadcastFrame port tf id slice s
  | .helloSend port => Sys2Proof.Machine.execHelloSend port s
  | .helloReceive port payload => Sys2Proof.Machine.execHelloReceive port payload s
  | .portTrained port => Sys2Proof.Machine.execPortTrained port s
  | .portMissing port => Sys2Proof.Machine.execPortMissing port s
  | .trainingRetry port => Sys2Proof.Machine.execTrainingRetry port s
  | .signalLoss port => Sys2Proof.Machine.execSignalLoss port s
  | .discoveryComplete => Sys2Proof.Machine.execDiscoveryComplete s
  | .laneFailure port => Sys2Proof.Machine.execLaneFailure port s
  | .frameCrcError port frame => Sys2Proof.Machine.execFrameCrcError port frame s
  | .frameHop port frame => Sys2Proof.Machine.execFrameHop port frame s
  | .remoteRequest req => Sys2Proof.Machine.execRemoteRequest req s
  | .remoteRetry q seq => Sys2Proof.Machine.execRemoteRetry q seq s
  | .remoteNoAnswer stop => Sys2Proof.Machine.execRemoteNoAnswer stop s
  | .collectiveMatch q seen => Sys2Proof.Machine.execCollectiveMatch q seen s
  | .timeFrameSend port => Sys2Proof.Machine.execTimeFrameSend port s
  | .timeFrameReceive port request carried hops aligned => Sys2Proof.Machine.execTimeFrameReceive port request carried hops aligned s
  | .roundTrip port t1 t2 t3 t4 => Sys2Proof.Machine.execRoundTrip port t1 t2 t3 t4 s
  | .smbusDevState => Sys2Proof.Machine.execSmbusDevState s
  | .smbusTjC => Sys2Proof.Machine.execSmbusTjC s
  | .smbusPowerW => Sys2Proof.Machine.execSmbusPowerW s
  | .smbusResetCause => Sys2Proof.Machine.execSmbusResetCause s
  | .smbusBoard => Sys2Proof.Machine.execSmbusBoard s
  | .smbusOtherCommand code => Sys2Proof.Machine.execSmbusOtherCommand code s
  | .linkUp speed width flit => Sys2Proof.Machine.execLinkUp speed width flit s
  | .vfEnableSet numVfs => Sys2Proof.Machine.execVfEnableSet numVfs s
  | .bar2SizeWrite fn log2 => Sys2Proof.Machine.execBar2SizeWrite fn log2 s
  | .channelStopsAnswering stack channel => Sys2Proof.Machine.execChannelStopsAnswering stack channel s
  | .vddAonRise => Sys2Proof.Machine.execVddAonRise s
  | .vddAonFall => Sys2Proof.Machine.execVddAonFall s

end Sys2Proof.Machine
end

