-- ==== Sys2Proof/Laws/Memory.lean ====
section
/-! SUPPORT. Laws of sparse tables and of byte memories: read after write, and the canonical form that every memory operation keeps. -/

namespace Sys2Proof.Machine

/-! ### Tables -/

theorem tget_tset_same {α : Type} (t : Tab α) (k : Nat) (v : α) : tget (tset t k v) k = some v := by
  induction t with
  | nil => simp [tset, tget]
  | cons p r ih =>
    obtain ⟨i, w⟩ := p
    simp only [tset]
    split
    · simp [tget]
    · split
      · simp [tget]
      · rename_i _ h
        simp only [beq_iff_eq] at h
        simp [tget, h, ih]

theorem tget_tset_other {α : Type} (t : Tab α) (k j : Nat) (v : α) (h : k ≠ j) : tget (tset t k v) j = tget t j := by
  induction t with
  | nil => simp [tset, tget, h]
  | cons p r ih =>
    obtain ⟨i, w⟩ := p
    simp only [tset]
    split
    · simp [tget, h]
    · split
      · rename_i _ hi
        simp only [beq_iff_eq] at hi
        subst hi
        simp [tget, h]
      · simp [tget, ih]

theorem tget_terase_same {α : Type} (t : Tab α) (k : Nat) : tget (terase t k) k = none := by
  induction t with
  | nil => rfl
  | cons p r ih =>
    obtain ⟨i, w⟩ := p
    by_cases h : i = k
    · subst h; simpa [terase] using ih
    · simpa [terase, tget, h] using ih

theorem tget_terase_other {α : Type} (t : Tab α) (k j : Nat) (h : k ≠ j) : tget (terase t k) j = tget t j := by
  induction t with
  | nil => rfl
  | cons p r ih =>
    obtain ⟨i, w⟩ := p
    by_cases hi : i = k
    · subst hi
      simpa [terase, tget, h] using ih
    · by_cases hj : i = j
      · subst hj; simp [terase, tget, hi]
      · simpa [terase, tget, hi, hj] using ih

/-! ### Reads after writes -/

theorem readByte_writeByte_same (m : List Host.Cell) (a : Nat) (b : Byte) : readByte (writeByte m a b) a = b := by
  unfold readByte writeByte
  split
  · rename_i h; simp only [beq_iff_eq] at h; subst h; simp [tget_terase_same]
  · simp [tget_tset_same]

theorem readByte_writeByte_other (m : List Host.Cell) (a x : Nat) (b : Byte) (h : a ≠ x) :
    readByte (writeByte m a b) x = readByte m x := by
  unfold readByte writeByte
  split
  · rw [tget_terase_other _ _ _ h]
  · rw [tget_tset_other _ _ _ _ h]

/-- What a run of bytes written from `a` on reads as, at every address. -/
theorem readByte_writeBytes (m : List Host.Cell) (a x : Nat) (bs : List Byte) :
    readByte (writeBytes m a bs) x = if a ≤ x ∧ x < a + bs.length then bs.getD (x - a) 0 else readByte m x := by
  induction bs generalizing m a with
  | nil => simp [writeBytes] <;> omega
  | cons b r ih =>
    rw [writeBytes, ih]
    by_cases hx : x = a
    · subst hx
      rw [if_neg (by omega), if_pos (by simp), readByte_writeByte_same]
      simp
    · by_cases hr : a + 1 ≤ x ∧ x < a + 1 + r.length
      · rw [if_pos hr, if_pos (by simp; omega)]
        have : x - a = (x - (a + 1)) + 1 := by omega
        simp [this]
      · rw [if_neg hr, if_neg (by simp; omega), readByte_writeByte_other _ _ _ _ (by omega)]

theorem readByte_clearRange (m : List Host.Cell) (lo hi x : Nat) :
    readByte (clearRange m lo hi) x = if lo ≤ x ∧ x < hi then 0 else readByte m x := by
  unfold readByte clearRange
  induction m with
  | nil => simp [tget]
  | cons c r ih =>
    obtain ⟨i, b⟩ := c
    by_cases hc : i < lo ∨ hi ≤ i
    · simp only [List.filter_cons, hc, Bool.or_eq_true, decide_eq_true_eq, if_true, tget, beq_iff_eq]
      by_cases hi' : i = x
      · subst hi'
        rw [if_pos rfl, if_neg (by omega), if_pos rfl]
      · rw [if_neg hi', if_neg hi', ih]
    · simp only [List.filter_cons, Bool.or_eq_true, decide_eq_true_eq, hc, if_false, ih, tget, beq_iff_eq]
      by_cases hi' : i = x
      · subst hi'
        rw [if_pos (by omega), if_pos (by omega)]
      · simp [hi']

/-! ### The canonical form -/

theorem memWf_iff (m : List Host.Cell) : memWf m = true ↔ m.Pairwise (fun c d => c.1 < d.1) ∧ ∀ c ∈ m, c.2 ≠ 0 := by
  induction m with
  | nil => simp [memWf]
  | cons c r ih =>
    cases r with
    | nil => obtain ⟨a, b⟩ := c; simp [memWf]
    | cons d t =>
      obtain ⟨a, b⟩ := c
      obtain ⟨x, y⟩ := d
      simp only [memWf, Bool.and_eq_true, ih, decide_eq_true_eq, bne_iff_ne, ne_eq]
      constructor
      · rintro ⟨⟨hb, hax⟩, hp, hz⟩
        refine ⟨List.pairwise_cons.2 ⟨?_, hp⟩, ?_⟩
        · intro z hz'
          rcases List.mem_cons.1 hz' with rfl | hz'
          · exact hax
          · exact Nat.lt_trans hax ((List.pairwise_cons.1 hp).1 z hz')
        · intro z hz'
          rcases List.mem_cons.1 hz' with rfl | hz'
          · exact hb
          · exact hz z hz'
      · rintro ⟨hp, hz⟩
        exact ⟨⟨hz (a, b) (by simp), (List.pairwise_cons.1 hp).1 (x, y) (by simp)⟩, (List.pairwise_cons.1 hp).2,
          fun z hz' => hz z (List.mem_cons_of_mem _ hz')⟩

theorem mem_tset {α : Type} (t : Tab α) (k : Nat) (v : α) (p : Nat × α) (h : p ∈ tset t k v) : p = (k, v) ∨ p ∈ t := by
  induction t with
  | nil => simpa [tset] using h
  | cons q r ih =>
    obtain ⟨i, w⟩ := q
    simp only [tset] at h
    split at h
    · simpa using h
    · split at h
      · rcases List.mem_cons.1 h with rfl | h
        · exact .inl rfl
        · exact .inr (List.mem_cons_of_mem _ h)
      · rcases List.mem_cons.1 h with rfl | h
        · exact .inr (by simp)
        · rcases ih h with h | h
          · exact .inl h
          · exact .inr (List.mem_cons_of_mem _ h)

theorem pairwise_tset {α : Type} (t : Tab α) (k : Nat) (v : α) (h : t.Pairwise (fun c d => c.1 < d.1)) :
    (tset t k v).Pairwise (fun c d => c.1 < d.1) := by
  induction t with
  | nil => simp [tset]
  | cons q r ih =>
    obtain ⟨i, w⟩ := q
    have hr := List.pairwise_cons.1 h
    simp only [tset]
    split
    · rename_i hk
      refine List.pairwise_cons.2 ⟨?_, h⟩
      intro z hz
      rcases List.mem_cons.1 hz with rfl | hz
      · exact hk
      · exact Nat.lt_trans hk (hr.1 z hz)
    · split
      · rename_i _ hi
        simp only [beq_iff_eq] at hi
        subst hi
        exact List.pairwise_cons.2 ⟨hr.1, hr.2⟩
      · rename_i hk hi
        simp only [beq_iff_eq] at hi
        refine List.pairwise_cons.2 ⟨?_, ih hr.2⟩
        intro z hz
        rcases mem_tset _ _ _ _ hz with rfl | hz
        · simp; omega
        · exact hr.1 z hz

theorem memWf_writeByte (m : List Host.Cell) (a : Nat) (b : Byte) (h : memWf m = true) : memWf (writeByte m a b) = true := by
  rw [memWf_iff] at h ⊢
  unfold writeByte
  split
  · exact ⟨h.1.filter _, fun c hc => h.2 c (List.mem_filter.1 hc).1⟩
  · rename_i hb
    refine ⟨pairwise_tset _ _ _ h.1, fun c hc => ?_⟩
    rcases mem_tset _ _ _ _ hc with rfl | hc
    · simpa using hb
    · exact h.2 c hc

theorem memWf_writeBytes (m : List Host.Cell) (a : Nat) (bs : List Byte) (h : memWf m = true) : memWf (writeBytes m a bs) = true := by
  induction bs generalizing m a with
  | nil => exact h
  | cons b r ih => exact ih _ _ (memWf_writeByte _ _ _ h)

theorem memWf_clearRange (m : List Host.Cell) (lo hi : Nat) (h : memWf m = true) : memWf (clearRange m lo hi) = true := by
  rw [memWf_iff] at h ⊢
  exact ⟨h.1.filter _, fun c hc => h.2 c (List.mem_filter.1 hc).1⟩

/-! ### Device memory -/

@[simp] theorem memory_cntFix (c : Chip) (i n : Nat) : (cntFix c i n).memory = c.memory := by unfold cntFix; split <;> rfl

theorem memory_foldl_cntFix (l : List Nat) (f g : Nat → Nat) (c : Chip) :
    (l.foldl (fun c s => cntFix c (f s) (g s)) c).memory = c.memory := by
  induction l generalizing c with
  | nil => rfl
  | cons s r ih => rw [List.foldl_cons, ih]; simp

@[simp] theorem memory_cntHbm (c : Chip) (base a n : Nat) : (cntHbm c base a n).memory = c.memory :=
  memory_foldl_cntFix _ _ _ _

@[simp] theorem memory_modMem (c : Chip) (m : Nat) (f : MemObj → MemObj) : (modMem c m f).memory = c.memory := by
  unfold modMem; split <;> rfl

@[simp] theorem memory_raiseStamp (c : Chip) (m : Nat) : (raiseStamp c m).memory = c.memory := memory_modMem _ _ _

@[simp] theorem hbm_healLine (c : Chip) (l : Nat) : (healLine c l).memory.hbm = c.memory.hbm := by
  simp only [healLine]; split <;> rfl

theorem hbm_foldl_healLine (ls : List Nat) (c : Chip) : (ls.foldl healLine c).memory.hbm = c.memory.hbm := by
  induction ls generalizing c with
  | nil => rfl
  | cons l r ih => rw [List.foldl_cons, ih]; simp

@[simp] theorem hbm_clearPoison (c : Chip) (a n : Nat) : (clearPoison c a n).memory.hbm = c.memory.hbm := by
  simp only [clearPoison]
  split
  · rw [hbm_foldl_healLine]
  · rfl

@[simp] theorem hbm_zeroDev (c : Chip) (a n : Nat) : (zeroDev c a n).memory.hbm = clearRange c.memory.hbm a (a + n) := by
  simp [zeroDev]

theorem hbm_fillAt (c : Chip) (m g a n : Nat) : (fillAt c m g a n).memory.hbm = clearRange c.memory.hbm a (a + n) := by
  rw [fillAt, memory_modMem, memory_cntHbm, memory_cntFix, hbm_zeroDev]

theorem memWf_fillAt (c : Chip) (m g a n : Nat) (h : memWf c.memory.hbm = true) : memWf (fillAt c m g a n).memory.hbm = true := by
  rw [hbm_fillAt]; exact memWf_clearRange _ _ _ h

/-- A fill of a granule fills its range or does nothing. -/
theorem fillGranule_cases (c : Chip) (m g : Nat) : fillGranule c m g = c ∨ ∃ a n, fillGranule c m g = fillAt c m g a n := by
  unfold fillGranule
  split
  · exact .inl rfl
  · split
    · exact .inl rfl
    · exact .inr ⟨_, _, rfl⟩

theorem memWf_fillGranule (c : Chip) (m g : Nat) (h : memWf c.memory.hbm = true) : memWf (fillGranule c m g).memory.hbm = true := by
  rcases fillGranule_cases c m g with e | ⟨a, n, e⟩
  · rw [e]; exact h
  · rw [e]; exact memWf_fillAt _ _ _ _ _ h

theorem memWf_foldl {α : Type} (f : Chip → α → Chip) (hf : ∀ c x, memWf c.memory.hbm = true → memWf (f c x).memory.hbm = true)
    (l : List α) (c : Chip) (h : memWf c.memory.hbm = true) : memWf (l.foldl f c).memory.hbm = true := by
  induction l generalizing c with
  | nil => exact h
  | cons x r ih => exact ih _ (hf _ _ h)

theorem memWf_fillTouched (c : Chip) (a n : Nat) (h : memWf c.memory.hbm = true) : memWf (fillTouched c a n).memory.hbm = true := by
  unfold fillTouched
  refine memWf_foldl _ (fun c p hc => ?_) _ _ h
  split
  · exact memWf_foldl _ (fun c i hc => memWf_fillGranule _ _ _ hc) _ _ hc
  · exact hc

/-- Device writes and fills keep the canonical form of HBM. -/
theorem memWf_storeQuiet (c : Chip) (a : Nat) (bs : List Byte) (h : memWf c.memory.hbm = true) :
    memWf (storeQuiet c a bs).memory.hbm = true := by
  unfold storeQuiet
  split
  · exact h
  · simp only [hbm_clearPoison]
    exact memWf_writeBytes _ _ _ (memWf_fillTouched _ _ _ h)

theorem memWf_storeDev (c : Chip) (a : Nat) (bs : List Byte) (h : memWf c.memory.hbm = true) :
    memWf (storeDev c a bs).memory.hbm = true := by
  simp only [storeDev, memory_cntHbm]
  exact memWf_storeQuiet _ _ _ h

theorem memWf_zeroDev (c : Chip) (a n : Nat) (h : memWf c.memory.hbm = true) : memWf (zeroDev c a n).memory.hbm = true := by
  rw [hbm_zeroDev]; exact memWf_clearRange _ _ _ h

theorem memWf_ringWrite (c : Chip) (base sz log2 : Nat) (prod : W32) (entry : Nat) (h : memWf c.memory.hbm = true) :
    memWf (ringWrite c base sz log2 prod entry).memory.hbm = true :=
  memWf_storeDev _ _ _ (memWf_storeDev _ _ _ h)

/-- HBM and scratch are canonical after reset. -/
theorem memWf_reset : memWf State.reset.chip.memory.hbm = true ∧ memWf State.reset.chip.memory.scratch = true := ⟨rfl, rfl⟩

end Sys2Proof.Machine
end

