-- ==== Sys2Proof/Laws/State.lean ====
section
/-! SUPPORT. One lemma for each field under each plain update of the state, true by `rfl`, so that no proof unfolds a record update. -/

namespace Sys2Proof.Machine

/-! ### onChip -/

@[simp] theorem onChip_pending (s : State) (f : Chip → Env → Chip) : (onChip s f).pending = s.pending := rfl
@[simp] theorem onChip_halter (s : State) (f : Chip → Env → Chip) : (onChip s f).halter = s.halter := rfl
@[simp] theorem onChip_fuses (s : State) (f : Chip → Env → Chip) : (onChip s f).fuses = s.fuses := rfl
@[simp] theorem onChip_flash (s : State) (f : Chip → Env → Chip) : (onChip s f).flash = s.flash := rfl
@[simp] theorem onChip_farrier (s : State) (f : Chip → Env → Chip) : (onChip s f).farrier = s.farrier := rfl
@[simp] theorem onChip_link (s : State) (f : Chip → Env → Chip) : (onChip s f).link = s.link := rfl
@[simp] theorem onChip_gov (s : State) (f : Chip → Env → Chip) : (onChip s f).gov = s.gov := rfl
@[simp] theorem onChip_beats (s : State) (f : Chip → Env → Chip) : (onChip s f).beats = s.beats := rfl
@[simp] theorem onChip_fabric (s : State) (f : Chip → Env → Chip) : (onChip s f).fabric = s.fabric := rfl
@[simp] theorem onChip_chip (s : State) (f : Chip → Env → Chip) : (onChip s f).chip = f s.chip (envOf s) := rfl

/-! ### setBeatState -/

@[simp] theorem setBeatState_pending (s : State) (d : Nat) (b : Beat) : (setBeatState s d b).pending = s.pending := rfl
@[simp] theorem setBeatState_halter (s : State) (d : Nat) (b : Beat) : (setBeatState s d b).halter = s.halter := rfl
@[simp] theorem setBeatState_fuses (s : State) (d : Nat) (b : Beat) : (setBeatState s d b).fuses = s.fuses := rfl
@[simp] theorem setBeatState_flash (s : State) (d : Nat) (b : Beat) : (setBeatState s d b).flash = s.flash := rfl
@[simp] theorem setBeatState_farrier (s : State) (d : Nat) (b : Beat) : (setBeatState s d b).farrier = s.farrier := rfl
@[simp] theorem setBeatState_link (s : State) (d : Nat) (b : Beat) : (setBeatState s d b).link = s.link := rfl
@[simp] theorem setBeatState_gov (s : State) (d : Nat) (b : Beat) : (setBeatState s d b).gov = s.gov := rfl
@[simp] theorem setBeatState_beats (s : State) (d : Nat) (b : Beat) : (setBeatState s d b).beats = tset s.beats d b := rfl
@[simp] theorem setBeatState_fabric (s : State) (d : Nat) (b : Beat) : (setBeatState s d b).fabric = s.fabric := rfl
@[simp] theorem setBeatState_chip (s : State) (d : Nat) (b : Beat) : (setBeatState s d b).chip = s.chip := rfl

/-! ### setDev -/

@[simp] theorem setDev_pending (s : State) (d : DevState) : (setDev s d).pending = s.pending := rfl
@[simp] theorem setDev_halter (s : State) (d : DevState) : (setDev s d).halter = s.halter := rfl
@[simp] theorem setDev_fuses (s : State) (d : DevState) : (setDev s d).fuses = s.fuses := rfl
@[simp] theorem setDev_flash (s : State) (d : DevState) : (setDev s d).flash = s.flash := rfl
@[simp] theorem setDev_farrier (s : State) (d : DevState) : (setDev s d).farrier = s.farrier := rfl
@[simp] theorem setDev_link (s : State) (d : DevState) : (setDev s d).link = s.link := rfl
@[simp] theorem setDev_gov (s : State) (d : DevState) : (setDev s d).gov = s.gov := rfl
@[simp] theorem setDev_beats (s : State) (d : DevState) : (setDev s d).beats = s.beats := rfl
@[simp] theorem setDev_fabric (s : State) (d : DevState) : (setDev s d).fabric = s.fabric := rfl
@[simp] theorem setDev_chip (s : State) (d : DevState) : (setDev s d).chip = { s.chip with dev := d } := rfl

/-! ### setPort -/

@[simp] theorem setPort_pending (s : State) (q : Nat) (x : Port) : (setPort s q x).pending = s.pending := rfl
@[simp] theorem setPort_halter (s : State) (q : Nat) (x : Port) : (setPort s q x).halter = s.halter := rfl
@[simp] theorem setPort_fuses (s : State) (q : Nat) (x : Port) : (setPort s q x).fuses = s.fuses := rfl
@[simp] theorem setPort_flash (s : State) (q : Nat) (x : Port) : (setPort s q x).flash = s.flash := rfl
@[simp] theorem setPort_farrier (s : State) (q : Nat) (x : Port) : (setPort s q x).farrier = s.farrier := rfl
@[simp] theorem setPort_link (s : State) (q : Nat) (x : Port) : (setPort s q x).link = s.link := rfl
@[simp] theorem setPort_gov (s : State) (q : Nat) (x : Port) : (setPort s q x).gov = s.gov := rfl
@[simp] theorem setPort_beats (s : State) (q : Nat) (x : Port) : (setPort s q x).beats = s.beats := rfl
@[simp] theorem setPort_fabric (s : State) (q : Nat) (x : Port) : (setPort s q x).fabric = { s.fabric with ports := tset s.fabric.ports q x } := rfl
@[simp] theorem setPort_chip (s : State) (q : Nat) (x : Port) : (setPort s q x).chip = s.chip := rfl

/-! ### setBeatPin -/

@[simp] theorem setBeatPin_pending (s : State) (v : Bool) : (setBeatPin s v).pending = s.pending := rfl
@[simp] theorem setBeatPin_halter (s : State) (v : Bool) : (setBeatPin s v).halter = { s.halter with beatOut := v, beatRise := if v then s.chip.clock else s.halter.beatRise } := rfl
@[simp] theorem setBeatPin_fuses (s : State) (v : Bool) : (setBeatPin s v).fuses = s.fuses := rfl
@[simp] theorem setBeatPin_flash (s : State) (v : Bool) : (setBeatPin s v).flash = s.flash := rfl
@[simp] theorem setBeatPin_farrier (s : State) (v : Bool) : (setBeatPin s v).farrier = s.farrier := rfl
@[simp] theorem setBeatPin_link (s : State) (v : Bool) : (setBeatPin s v).link = s.link := rfl
@[simp] theorem setBeatPin_gov (s : State) (v : Bool) : (setBeatPin s v).gov = s.gov := rfl
@[simp] theorem setBeatPin_beats (s : State) (v : Bool) : (setBeatPin s v).beats = s.beats := rfl
@[simp] theorem setBeatPin_fabric (s : State) (v : Bool) : (setBeatPin s v).fabric = s.fabric := rfl
@[simp] theorem setBeatPin_chip (s : State) (v : Bool) : (setBeatPin s v).chip = emit s.chip (.pin 0 v) := rfl

/-! ### setFreezePin -/

@[simp] theorem setFreezePin_pending (s : State) (v : Bool) : (setFreezePin s v).pending = s.pending := rfl
@[simp] theorem setFreezePin_halter (s : State) (v : Bool) : (setFreezePin s v).halter = { s.halter with freezeOut := v } := rfl
@[simp] theorem setFreezePin_fuses (s : State) (v : Bool) : (setFreezePin s v).fuses = s.fuses := rfl
@[simp] theorem setFreezePin_flash (s : State) (v : Bool) : (setFreezePin s v).flash = s.flash := rfl
@[simp] theorem setFreezePin_farrier (s : State) (v : Bool) : (setFreezePin s v).farrier = s.farrier := rfl
@[simp] theorem setFreezePin_link (s : State) (v : Bool) : (setFreezePin s v).link = s.link := rfl
@[simp] theorem setFreezePin_gov (s : State) (v : Bool) : (setFreezePin s v).gov = s.gov := rfl
@[simp] theorem setFreezePin_beats (s : State) (v : Bool) : (setFreezePin s v).beats = s.beats := rfl
@[simp] theorem setFreezePin_fabric (s : State) (v : Bool) : (setFreezePin s v).fabric = s.fabric := rfl
@[simp] theorem setFreezePin_chip (s : State) (v : Bool) : (setFreezePin s v).chip = emit s.chip (.pin 1 v) := rfl

/-! ### finish -/

@[simp] theorem finish_pending (s : State) (fn r : Nat) (p : Reply) : (finish s fn r p).pending = s.pending := rfl
@[simp] theorem finish_halter (s : State) (fn r : Nat) (p : Reply) : (finish s fn r p).halter = s.halter := rfl
@[simp] theorem finish_fuses (s : State) (fn r : Nat) (p : Reply) : (finish s fn r p).fuses = s.fuses := rfl
@[simp] theorem finish_flash (s : State) (fn r : Nat) (p : Reply) : (finish s fn r p).flash = s.flash := rfl
@[simp] theorem finish_farrier (s : State) (fn r : Nat) (p : Reply) : (finish s fn r p).farrier = s.farrier := rfl
@[simp] theorem finish_link (s : State) (fn r : Nat) (p : Reply) : (finish s fn r p).link = s.link := rfl
@[simp] theorem finish_gov (s : State) (fn r : Nat) (p : Reply) : (finish s fn r p).gov = s.gov := rfl
@[simp] theorem finish_beats (s : State) (fn r : Nat) (p : Reply) : (finish s fn r p).beats = s.beats := rfl
@[simp] theorem finish_fabric (s : State) (fn r : Nat) (p : Reply) : (finish s fn r p).fabric = s.fabric := rfl

/-! ### noteIdle -/

@[simp] theorem noteIdle_pending (s : State) : (noteIdle s).pending = s.pending := rfl
@[simp] theorem noteIdle_fuses (s : State) : (noteIdle s).fuses = s.fuses := rfl
@[simp] theorem noteIdle_flash (s : State) : (noteIdle s).flash = s.flash := rfl
@[simp] theorem noteIdle_farrier (s : State) : (noteIdle s).farrier = s.farrier := rfl
@[simp] theorem noteIdle_link (s : State) : (noteIdle s).link = s.link := rfl
@[simp] theorem noteIdle_gov (s : State) : (noteIdle s).gov = s.gov := rfl
@[simp] theorem noteIdle_beats (s : State) : (noteIdle s).beats = s.beats := rfl
@[simp] theorem noteIdle_fabric (s : State) : (noteIdle s).fabric = s.fabric := rfl
@[simp] theorem noteIdle_chip (s : State) : (noteIdle s).chip = s.chip := rfl

/-! ### wholeReset -/

@[simp] theorem wholeReset_pending (s : State) (cause : Nat) : (wholeReset s cause).pending = s.pending := rfl
@[simp] theorem wholeReset_fuses (s : State) (cause : Nat) : (wholeReset s cause).fuses = s.fuses := rfl
@[simp] theorem wholeReset_flash (s : State) (cause : Nat) : (wholeReset s cause).flash = s.flash := rfl
@[simp] theorem wholeReset_farrier (s : State) (cause : Nat) : (wholeReset s cause).farrier = Farrier.reset := rfl
@[simp] theorem wholeReset_link (s : State) (cause : Nat) : (wholeReset s cause).link = Link.reset := rfl
@[simp] theorem wholeReset_gov (s : State) (cause : Nat) : (wholeReset s cause).gov = { Gov.reset s.fuses with extAlert := s.gov.extAlert } := rfl
@[simp] theorem wholeReset_beats (s : State) (cause : Nat) : (wholeReset s cause).beats = [] := rfl
@[simp] theorem wholeReset_fabric (s : State) (cause : Nat) : (wholeReset s cause).fabric = Fabric.reset := rfl

/-! ### setTenant -/

@[simp] theorem setTenant_out (c : Chip) (t : Nat) (x : Tenant) : (setTenant c t x).out = c.out := rfl
@[simp] theorem setTenant_heldOut (c : Chip) (t : Nat) (x : Tenant) : (setTenant c t x).heldOut = c.heldOut := rfl
@[simp] theorem setTenant_linkUp (c : Chip) (t : Nat) (x : Tenant) : (setTenant c t x).linkUp = c.linkUp := rfl
@[simp] theorem setTenant_free (c : Chip) (t : Nat) (x : Tenant) : (setTenant c t x).free = c.free := rfl
@[simp] theorem setTenant_clock (c : Chip) (t : Nat) (x : Tenant) : (setTenant c t x).clock = c.clock := rfl
@[simp] theorem setTenant_cycles (c : Chip) (t : Nat) (x : Tenant) : (setTenant c t x).cycles = c.cycles := rfl
@[simp] theorem setTenant_gait (c : Chip) (t : Nat) (x : Tenant) : (setTenant c t x).gait = c.gait := rfl
@[simp] theorem setTenant_phase (c : Chip) (t : Nat) (x : Tenant) : (setTenant c t x).phase = c.phase := rfl
@[simp] theorem setTenant_dev (c : Chip) (t : Nat) (x : Tenant) : (setTenant c t x).dev = c.dev := rfl
@[simp] theorem setTenant_walk (c : Chip) (t : Nat) (x : Tenant) : (setTenant c t x).walk = c.walk := rfl
@[simp] theorem setTenant_walkCleared (c : Chip) (t : Nat) (x : Tenant) : (setTenant c t x).walkCleared = c.walkCleared := rfl
@[simp] theorem setTenant_tenants (c : Chip) (t : Nat) (x : Tenant) : (setTenant c t x).tenants = tset c.tenants t x := rfl
@[simp] theorem setTenant_arrivals (c : Chip) (t : Nat) (x : Tenant) : (setTenant c t x).arrivals = c.arrivals := rfl
@[simp] theorem setTenant_reqCount (c : Chip) (t : Nat) (x : Tenant) : (setTenant c t x).reqCount = c.reqCount := rfl
@[simp] theorem setTenant_contexts (c : Chip) (t : Nat) (x : Tenant) : (setTenant c t x).contexts = c.contexts := rfl
@[simp] theorem setTenant_queues (c : Chip) (t : Nat) (x : Tenant) : (setTenant c t x).queues = c.queues := rfl
@[simp] theorem setTenant_mems (c : Chip) (t : Nat) (x : Tenant) : (setTenant c t x).mems = c.mems := rfl
@[simp] theorem setTenant_hitches (c : Chip) (t : Nat) (x : Tenant) : (setTenant c t x).hitches = c.hitches := rfl
@[simp] theorem setTenant_events (c : Chip) (t : Nat) (x : Tenant) : (setTenant c t x).events = c.events := rfl
@[simp] theorem setTenant_tokens (c : Chip) (t : Nat) (x : Tenant) : (setTenant c t x).tokens = c.tokens := rfl
@[simp] theorem setTenant_remoteRefused (c : Chip) (t : Nat) (x : Tenant) : (setTenant c t x).remoteRefused = c.remoteRefused := rfl
@[simp] theorem setTenant_allocs (c : Chip) (t : Nat) (x : Tenant) : (setTenant c t x).allocs = c.allocs := rfl
@[simp] theorem setTenant_memory (c : Chip) (t : Nat) (x : Tenant) : (setTenant c t x).memory = c.memory := rfl
@[simp] theorem setTenant_compute (c : Chip) (t : Nat) (x : Tenant) : (setTenant c t x).compute = c.compute := rfl
@[simp] theorem setTenant_rotation (c : Chip) (t : Nat) (x : Tenant) : (setTenant c t x).rotation = c.rotation := rfl
@[simp] theorem setTenant_logFree (c : Chip) (t : Nat) (x : Tenant) : (setTenant c t x).logFree = c.logFree := rfl
@[simp] theorem setTenant_rein (c : Chip) (t : Nat) (x : Tenant) : (setTenant c t x).rein = c.rein := rfl
@[simp] theorem setTenant_errq (c : Chip) (t : Nat) (x : Tenant) : (setTenant c t x).errq = c.errq := rfl
@[simp] theorem setTenant_ctt (c : Chip) (t : Nat) (x : Tenant) : (setTenant c t x).ctt = c.ctt := rfl
@[simp] theorem setTenant_counters (c : Chip) (t : Nat) (x : Tenant) : (setTenant c t x).counters = c.counters := rfl
@[simp] theorem setTenant_setNow (c : Chip) (t : Nat) (x : Tenant) : (setTenant c t x).setNow = c.setNow := rfl
@[simp] theorem setTenant_record (c : Chip) (t : Nat) (x : Tenant) : (setTenant c t x).record = c.record := rfl
@[simp] theorem setTenant_ghosts (c : Chip) (t : Nat) (x : Tenant) : (setTenant c t x).ghosts = c.ghosts := rfl
@[simp] theorem setTenant_dropRoute (c : Chip) (t : Nat) (x : Tenant) : (setTenant c t x).dropRoute = c.dropRoute := rfl
@[simp] theorem setTenant_dropSlice (c : Chip) (t : Nat) (x : Tenant) : (setTenant c t x).dropSlice = c.dropSlice := rfl
@[simp] theorem setTenant_links (c : Chip) (t : Nat) (x : Tenant) : (setTenant c t x).links = c.links := rfl
@[simp] theorem setTenant_linkHit (c : Chip) (t : Nat) (x : Tenant) : (setTenant c t x).linkHit = c.linkHit := rfl
@[simp] theorem setTenant_started (c : Chip) (t : Nat) (x : Tenant) : (setTenant c t x).started = c.started := rfl

/-! ### modTenant -/

@[simp] theorem modTenant_out (c : Chip) (t : Nat) (f : Tenant → Tenant) : (modTenant c t f).out = c.out := rfl
@[simp] theorem modTenant_heldOut (c : Chip) (t : Nat) (f : Tenant → Tenant) : (modTenant c t f).heldOut = c.heldOut := rfl
@[simp] theorem modTenant_linkUp (c : Chip) (t : Nat) (f : Tenant → Tenant) : (modTenant c t f).linkUp = c.linkUp := rfl
@[simp] theorem modTenant_free (c : Chip) (t : Nat) (f : Tenant → Tenant) : (modTenant c t f).free = c.free := rfl
@[simp] theorem modTenant_clock (c : Chip) (t : Nat) (f : Tenant → Tenant) : (modTenant c t f).clock = c.clock := rfl
@[simp] theorem modTenant_cycles (c : Chip) (t : Nat) (f : Tenant → Tenant) : (modTenant c t f).cycles = c.cycles := rfl
@[simp] theorem modTenant_gait (c : Chip) (t : Nat) (f : Tenant → Tenant) : (modTenant c t f).gait = c.gait := rfl
@[simp] theorem modTenant_phase (c : Chip) (t : Nat) (f : Tenant → Tenant) : (modTenant c t f).phase = c.phase := rfl
@[simp] theorem modTenant_dev (c : Chip) (t : Nat) (f : Tenant → Tenant) : (modTenant c t f).dev = c.dev := rfl
@[simp] theorem modTenant_walk (c : Chip) (t : Nat) (f : Tenant → Tenant) : (modTenant c t f).walk = c.walk := rfl
@[simp] theorem modTenant_walkCleared (c : Chip) (t : Nat) (f : Tenant → Tenant) : (modTenant c t f).walkCleared = c.walkCleared := rfl
@[simp] theorem modTenant_tenants (c : Chip) (t : Nat) (f : Tenant → Tenant) : (modTenant c t f).tenants = tset c.tenants t (f (tenantOf c t)) := rfl
@[simp] theorem modTenant_arrivals (c : Chip) (t : Nat) (f : Tenant → Tenant) : (modTenant c t f).arrivals = c.arrivals := rfl
@[simp] theorem modTenant_reqCount (c : Chip) (t : Nat) (f : Tenant → Tenant) : (modTenant c t f).reqCount = c.reqCount := rfl
@[simp] theorem modTenant_contexts (c : Chip) (t : Nat) (f : Tenant → Tenant) : (modTenant c t f).contexts = c.contexts := rfl
@[simp] theorem modTenant_queues (c : Chip) (t : Nat) (f : Tenant → Tenant) : (modTenant c t f).queues = c.queues := rfl
@[simp] theorem modTenant_mems (c : Chip) (t : Nat) (f : Tenant → Tenant) : (modTenant c t f).mems = c.mems := rfl
@[simp] theorem modTenant_hitches (c : Chip) (t : Nat) (f : Tenant → Tenant) : (modTenant c t f).hitches = c.hitches := rfl
@[simp] theorem modTenant_events (c : Chip) (t : Nat) (f : Tenant → Tenant) : (modTenant c t f).events = c.events := rfl
@[simp] theorem modTenant_tokens (c : Chip) (t : Nat) (f : Tenant → Tenant) : (modTenant c t f).tokens = c.tokens := rfl
@[simp] theorem modTenant_remoteRefused (c : Chip) (t : Nat) (f : Tenant → Tenant) : (modTenant c t f).remoteRefused = c.remoteRefused := rfl
@[simp] theorem modTenant_allocs (c : Chip) (t : Nat) (f : Tenant → Tenant) : (modTenant c t f).allocs = c.allocs := rfl
@[simp] theorem modTenant_memory (c : Chip) (t : Nat) (f : Tenant → Tenant) : (modTenant c t f).memory = c.memory := rfl
@[simp] theorem modTenant_compute (c : Chip) (t : Nat) (f : Tenant → Tenant) : (modTenant c t f).compute = c.compute := rfl
@[simp] theorem modTenant_rotation (c : Chip) (t : Nat) (f : Tenant → Tenant) : (modTenant c t f).rotation = c.rotation := rfl
@[simp] theorem modTenant_logFree (c : Chip) (t : Nat) (f : Tenant → Tenant) : (modTenant c t f).logFree = c.logFree := rfl
@[simp] theorem modTenant_rein (c : Chip) (t : Nat) (f : Tenant → Tenant) : (modTenant c t f).rein = c.rein := rfl
@[simp] theorem modTenant_errq (c : Chip) (t : Nat) (f : Tenant → Tenant) : (modTenant c t f).errq = c.errq := rfl
@[simp] theorem modTenant_ctt (c : Chip) (t : Nat) (f : Tenant → Tenant) : (modTenant c t f).ctt = c.ctt := rfl
@[simp] theorem modTenant_counters (c : Chip) (t : Nat) (f : Tenant → Tenant) : (modTenant c t f).counters = c.counters := rfl
@[simp] theorem modTenant_setNow (c : Chip) (t : Nat) (f : Tenant → Tenant) : (modTenant c t f).setNow = c.setNow := rfl
@[simp] theorem modTenant_record (c : Chip) (t : Nat) (f : Tenant → Tenant) : (modTenant c t f).record = c.record := rfl
@[simp] theorem modTenant_ghosts (c : Chip) (t : Nat) (f : Tenant → Tenant) : (modTenant c t f).ghosts = c.ghosts := rfl
@[simp] theorem modTenant_dropRoute (c : Chip) (t : Nat) (f : Tenant → Tenant) : (modTenant c t f).dropRoute = c.dropRoute := rfl
@[simp] theorem modTenant_dropSlice (c : Chip) (t : Nat) (f : Tenant → Tenant) : (modTenant c t f).dropSlice = c.dropSlice := rfl
@[simp] theorem modTenant_links (c : Chip) (t : Nat) (f : Tenant → Tenant) : (modTenant c t f).links = c.links := rfl
@[simp] theorem modTenant_linkHit (c : Chip) (t : Nat) (f : Tenant → Tenant) : (modTenant c t f).linkHit = c.linkHit := rfl
@[simp] theorem modTenant_started (c : Chip) (t : Nat) (f : Tenant → Tenant) : (modTenant c t f).started = c.started := rfl

/-! ### setQueue -/

@[simp] theorem setQueue_out (c : Chip) (q : Nat) (x : Queue) : (setQueue c q x).out = c.out := rfl
@[simp] theorem setQueue_heldOut (c : Chip) (q : Nat) (x : Queue) : (setQueue c q x).heldOut = c.heldOut := rfl
@[simp] theorem setQueue_linkUp (c : Chip) (q : Nat) (x : Queue) : (setQueue c q x).linkUp = c.linkUp := rfl
@[simp] theorem setQueue_free (c : Chip) (q : Nat) (x : Queue) : (setQueue c q x).free = c.free := rfl
@[simp] theorem setQueue_clock (c : Chip) (q : Nat) (x : Queue) : (setQueue c q x).clock = c.clock := rfl
@[simp] theorem setQueue_cycles (c : Chip) (q : Nat) (x : Queue) : (setQueue c q x).cycles = c.cycles := rfl
@[simp] theorem setQueue_gait (c : Chip) (q : Nat) (x : Queue) : (setQueue c q x).gait = c.gait := rfl
@[simp] theorem setQueue_phase (c : Chip) (q : Nat) (x : Queue) : (setQueue c q x).phase = c.phase := rfl
@[simp] theorem setQueue_dev (c : Chip) (q : Nat) (x : Queue) : (setQueue c q x).dev = c.dev := rfl
@[simp] theorem setQueue_walk (c : Chip) (q : Nat) (x : Queue) : (setQueue c q x).walk = c.walk := rfl
@[simp] theorem setQueue_walkCleared (c : Chip) (q : Nat) (x : Queue) : (setQueue c q x).walkCleared = c.walkCleared := rfl
@[simp] theorem setQueue_tenants (c : Chip) (q : Nat) (x : Queue) : (setQueue c q x).tenants = c.tenants := rfl
@[simp] theorem setQueue_arrivals (c : Chip) (q : Nat) (x : Queue) : (setQueue c q x).arrivals = c.arrivals := rfl
@[simp] theorem setQueue_reqCount (c : Chip) (q : Nat) (x : Queue) : (setQueue c q x).reqCount = c.reqCount := rfl
@[simp] theorem setQueue_contexts (c : Chip) (q : Nat) (x : Queue) : (setQueue c q x).contexts = c.contexts := rfl
@[simp] theorem setQueue_queues (c : Chip) (q : Nat) (x : Queue) : (setQueue c q x).queues = tset c.queues q x := rfl
@[simp] theorem setQueue_mems (c : Chip) (q : Nat) (x : Queue) : (setQueue c q x).mems = c.mems := rfl
@[simp] theorem setQueue_hitches (c : Chip) (q : Nat) (x : Queue) : (setQueue c q x).hitches = c.hitches := rfl
@[simp] theorem setQueue_events (c : Chip) (q : Nat) (x : Queue) : (setQueue c q x).events = c.events := rfl
@[simp] theorem setQueue_tokens (c : Chip) (q : Nat) (x : Queue) : (setQueue c q x).tokens = c.tokens := rfl
@[simp] theorem setQueue_remoteRefused (c : Chip) (q : Nat) (x : Queue) : (setQueue c q x).remoteRefused = c.remoteRefused := rfl
@[simp] theorem setQueue_allocs (c : Chip) (q : Nat) (x : Queue) : (setQueue c q x).allocs = c.allocs := rfl
@[simp] theorem setQueue_memory (c : Chip) (q : Nat) (x : Queue) : (setQueue c q x).memory = c.memory := rfl
@[simp] theorem setQueue_compute (c : Chip) (q : Nat) (x : Queue) : (setQueue c q x).compute = c.compute := rfl
@[simp] theorem setQueue_rotation (c : Chip) (q : Nat) (x : Queue) : (setQueue c q x).rotation = c.rotation := rfl
@[simp] theorem setQueue_logFree (c : Chip) (q : Nat) (x : Queue) : (setQueue c q x).logFree = c.logFree := rfl
@[simp] theorem setQueue_rein (c : Chip) (q : Nat) (x : Queue) : (setQueue c q x).rein = c.rein := rfl
@[simp] theorem setQueue_errq (c : Chip) (q : Nat) (x : Queue) : (setQueue c q x).errq = c.errq := rfl
@[simp] theorem setQueue_ctt (c : Chip) (q : Nat) (x : Queue) : (setQueue c q x).ctt = c.ctt := rfl
@[simp] theorem setQueue_counters (c : Chip) (q : Nat) (x : Queue) : (setQueue c q x).counters = c.counters := rfl
@[simp] theorem setQueue_setNow (c : Chip) (q : Nat) (x : Queue) : (setQueue c q x).setNow = c.setNow := rfl
@[simp] theorem setQueue_record (c : Chip) (q : Nat) (x : Queue) : (setQueue c q x).record = c.record := rfl
@[simp] theorem setQueue_ghosts (c : Chip) (q : Nat) (x : Queue) : (setQueue c q x).ghosts = c.ghosts := rfl
@[simp] theorem setQueue_dropRoute (c : Chip) (q : Nat) (x : Queue) : (setQueue c q x).dropRoute = c.dropRoute := rfl
@[simp] theorem setQueue_dropSlice (c : Chip) (q : Nat) (x : Queue) : (setQueue c q x).dropSlice = c.dropSlice := rfl
@[simp] theorem setQueue_links (c : Chip) (q : Nat) (x : Queue) : (setQueue c q x).links = c.links := rfl
@[simp] theorem setQueue_linkHit (c : Chip) (q : Nat) (x : Queue) : (setQueue c q x).linkHit = c.linkHit := rfl
@[simp] theorem setQueue_started (c : Chip) (q : Nat) (x : Queue) : (setQueue c q x).started = c.started := rfl

/-! ### emit -/

@[simp] theorem emit_out (c : Chip) (o : Output) : (emit c o).out = c.out ++ [o] := rfl
@[simp] theorem emit_heldOut (c : Chip) (o : Output) : (emit c o).heldOut = c.heldOut := rfl
@[simp] theorem emit_linkUp (c : Chip) (o : Output) : (emit c o).linkUp = c.linkUp := rfl
@[simp] theorem emit_free (c : Chip) (o : Output) : (emit c o).free = c.free := rfl
@[simp] theorem emit_clock (c : Chip) (o : Output) : (emit c o).clock = c.clock := rfl
@[simp] theorem emit_cycles (c : Chip) (o : Output) : (emit c o).cycles = c.cycles := rfl
@[simp] theorem emit_gait (c : Chip) (o : Output) : (emit c o).gait = c.gait := rfl
@[simp] theorem emit_phase (c : Chip) (o : Output) : (emit c o).phase = c.phase := rfl
@[simp] theorem emit_dev (c : Chip) (o : Output) : (emit c o).dev = c.dev := rfl
@[simp] theorem emit_walk (c : Chip) (o : Output) : (emit c o).walk = c.walk := rfl
@[simp] theorem emit_walkCleared (c : Chip) (o : Output) : (emit c o).walkCleared = c.walkCleared := rfl
@[simp] theorem emit_tenants (c : Chip) (o : Output) : (emit c o).tenants = c.tenants := rfl
@[simp] theorem emit_arrivals (c : Chip) (o : Output) : (emit c o).arrivals = c.arrivals := rfl
@[simp] theorem emit_reqCount (c : Chip) (o : Output) : (emit c o).reqCount = c.reqCount := rfl
@[simp] theorem emit_contexts (c : Chip) (o : Output) : (emit c o).contexts = c.contexts := rfl
@[simp] theorem emit_queues (c : Chip) (o : Output) : (emit c o).queues = c.queues := rfl
@[simp] theorem emit_mems (c : Chip) (o : Output) : (emit c o).mems = c.mems := rfl
@[simp] theorem emit_hitches (c : Chip) (o : Output) : (emit c o).hitches = c.hitches := rfl
@[simp] theorem emit_events (c : Chip) (o : Output) : (emit c o).events = c.events := rfl
@[simp] theorem emit_tokens (c : Chip) (o : Output) : (emit c o).tokens = c.tokens := rfl
@[simp] theorem emit_remoteRefused (c : Chip) (o : Output) : (emit c o).remoteRefused = c.remoteRefused := rfl
@[simp] theorem emit_allocs (c : Chip) (o : Output) : (emit c o).allocs = c.allocs := rfl
@[simp] theorem emit_memory (c : Chip) (o : Output) : (emit c o).memory = c.memory := rfl
@[simp] theorem emit_compute (c : Chip) (o : Output) : (emit c o).compute = c.compute := rfl
@[simp] theorem emit_rotation (c : Chip) (o : Output) : (emit c o).rotation = c.rotation := rfl
@[simp] theorem emit_logFree (c : Chip) (o : Output) : (emit c o).logFree = c.logFree := rfl
@[simp] theorem emit_rein (c : Chip) (o : Output) : (emit c o).rein = c.rein := rfl
@[simp] theorem emit_errq (c : Chip) (o : Output) : (emit c o).errq = c.errq := rfl
@[simp] theorem emit_ctt (c : Chip) (o : Output) : (emit c o).ctt = c.ctt := rfl
@[simp] theorem emit_counters (c : Chip) (o : Output) : (emit c o).counters = c.counters := rfl
@[simp] theorem emit_setNow (c : Chip) (o : Output) : (emit c o).setNow = c.setNow := rfl
@[simp] theorem emit_record (c : Chip) (o : Output) : (emit c o).record = c.record := rfl
@[simp] theorem emit_ghosts (c : Chip) (o : Output) : (emit c o).ghosts = c.ghosts := rfl
@[simp] theorem emit_dropRoute (c : Chip) (o : Output) : (emit c o).dropRoute = c.dropRoute := rfl
@[simp] theorem emit_dropSlice (c : Chip) (o : Output) : (emit c o).dropSlice = c.dropSlice := rfl
@[simp] theorem emit_links (c : Chip) (o : Output) : (emit c o).links = c.links := rfl
@[simp] theorem emit_linkHit (c : Chip) (o : Output) : (emit c o).linkHit = c.linkHit := rfl
@[simp] theorem emit_started (c : Chip) (o : Output) : (emit c o).started = c.started := rfl

/-! ### raiseGen -/

@[simp] theorem raiseGen_out (c : Chip) : (raiseGen c).out = c.out := rfl
@[simp] theorem raiseGen_heldOut (c : Chip) : (raiseGen c).heldOut = c.heldOut := rfl
@[simp] theorem raiseGen_linkUp (c : Chip) : (raiseGen c).linkUp = c.linkUp := rfl
@[simp] theorem raiseGen_free (c : Chip) : (raiseGen c).free = c.free := rfl
@[simp] theorem raiseGen_clock (c : Chip) : (raiseGen c).clock = c.clock := rfl
@[simp] theorem raiseGen_cycles (c : Chip) : (raiseGen c).cycles = c.cycles := rfl
@[simp] theorem raiseGen_gait (c : Chip) : (raiseGen c).gait = c.gait := rfl
@[simp] theorem raiseGen_phase (c : Chip) : (raiseGen c).phase = c.phase := rfl
@[simp] theorem raiseGen_dev (c : Chip) : (raiseGen c).dev = c.dev := rfl
@[simp] theorem raiseGen_walk (c : Chip) : (raiseGen c).walk = c.walk := rfl
@[simp] theorem raiseGen_walkCleared (c : Chip) : (raiseGen c).walkCleared = c.walkCleared := rfl
@[simp] theorem raiseGen_tenants (c : Chip) : (raiseGen c).tenants = c.tenants := rfl
@[simp] theorem raiseGen_arrivals (c : Chip) : (raiseGen c).arrivals = c.arrivals := rfl
@[simp] theorem raiseGen_reqCount (c : Chip) : (raiseGen c).reqCount = c.reqCount := rfl
@[simp] theorem raiseGen_contexts (c : Chip) : (raiseGen c).contexts = c.contexts := rfl
@[simp] theorem raiseGen_queues (c : Chip) : (raiseGen c).queues = c.queues := rfl
@[simp] theorem raiseGen_mems (c : Chip) : (raiseGen c).mems = c.mems := rfl
@[simp] theorem raiseGen_hitches (c : Chip) : (raiseGen c).hitches = c.hitches := rfl
@[simp] theorem raiseGen_events (c : Chip) : (raiseGen c).events = c.events := rfl
@[simp] theorem raiseGen_tokens (c : Chip) : (raiseGen c).tokens = c.tokens := rfl
@[simp] theorem raiseGen_remoteRefused (c : Chip) : (raiseGen c).remoteRefused = c.remoteRefused := rfl
@[simp] theorem raiseGen_allocs (c : Chip) : (raiseGen c).allocs = c.allocs := rfl
@[simp] theorem raiseGen_memory (c : Chip) : (raiseGen c).memory = c.memory := rfl
@[simp] theorem raiseGen_compute (c : Chip) : (raiseGen c).compute = c.compute := rfl
@[simp] theorem raiseGen_rotation (c : Chip) : (raiseGen c).rotation = c.rotation := rfl
@[simp] theorem raiseGen_logFree (c : Chip) : (raiseGen c).logFree = c.logFree := rfl
@[simp] theorem raiseGen_rein (c : Chip) : (raiseGen c).rein = c.rein := rfl
@[simp] theorem raiseGen_errq (c : Chip) : (raiseGen c).errq = c.errq := rfl
@[simp] theorem raiseGen_ctt (c : Chip) : (raiseGen c).ctt = { c.ctt with gen := c.ctt.gen + 1 } := rfl
@[simp] theorem raiseGen_counters (c : Chip) : (raiseGen c).counters = c.counters := rfl
@[simp] theorem raiseGen_setNow (c : Chip) : (raiseGen c).setNow = c.setNow := rfl
@[simp] theorem raiseGen_record (c : Chip) : (raiseGen c).record = c.record := rfl
@[simp] theorem raiseGen_ghosts (c : Chip) : (raiseGen c).ghosts = c.ghosts := rfl
@[simp] theorem raiseGen_dropRoute (c : Chip) : (raiseGen c).dropRoute = c.dropRoute := rfl
@[simp] theorem raiseGen_dropSlice (c : Chip) : (raiseGen c).dropSlice = c.dropSlice := rfl
@[simp] theorem raiseGen_links (c : Chip) : (raiseGen c).links = c.links := rfl
@[simp] theorem raiseGen_linkHit (c : Chip) : (raiseGen c).linkHit = c.linkHit := rfl
@[simp] theorem raiseGen_started (c : Chip) : (raiseGen c).started = c.started := rfl

/-! ### setStack -/

@[simp] theorem setStack_out (c : Chip) (i : Nat) (x : Stack) : (setStack c i x).out = c.out := rfl
@[simp] theorem setStack_heldOut (c : Chip) (i : Nat) (x : Stack) : (setStack c i x).heldOut = c.heldOut := rfl
@[simp] theorem setStack_linkUp (c : Chip) (i : Nat) (x : Stack) : (setStack c i x).linkUp = c.linkUp := rfl
@[simp] theorem setStack_free (c : Chip) (i : Nat) (x : Stack) : (setStack c i x).free = c.free := rfl
@[simp] theorem setStack_clock (c : Chip) (i : Nat) (x : Stack) : (setStack c i x).clock = c.clock := rfl
@[simp] theorem setStack_cycles (c : Chip) (i : Nat) (x : Stack) : (setStack c i x).cycles = c.cycles := rfl
@[simp] theorem setStack_gait (c : Chip) (i : Nat) (x : Stack) : (setStack c i x).gait = c.gait := rfl
@[simp] theorem setStack_phase (c : Chip) (i : Nat) (x : Stack) : (setStack c i x).phase = c.phase := rfl
@[simp] theorem setStack_dev (c : Chip) (i : Nat) (x : Stack) : (setStack c i x).dev = c.dev := rfl
@[simp] theorem setStack_walk (c : Chip) (i : Nat) (x : Stack) : (setStack c i x).walk = c.walk := rfl
@[simp] theorem setStack_walkCleared (c : Chip) (i : Nat) (x : Stack) : (setStack c i x).walkCleared = c.walkCleared := rfl
@[simp] theorem setStack_tenants (c : Chip) (i : Nat) (x : Stack) : (setStack c i x).tenants = c.tenants := rfl
@[simp] theorem setStack_arrivals (c : Chip) (i : Nat) (x : Stack) : (setStack c i x).arrivals = c.arrivals := rfl
@[simp] theorem setStack_reqCount (c : Chip) (i : Nat) (x : Stack) : (setStack c i x).reqCount = c.reqCount := rfl
@[simp] theorem setStack_contexts (c : Chip) (i : Nat) (x : Stack) : (setStack c i x).contexts = c.contexts := rfl
@[simp] theorem setStack_queues (c : Chip) (i : Nat) (x : Stack) : (setStack c i x).queues = c.queues := rfl
@[simp] theorem setStack_mems (c : Chip) (i : Nat) (x : Stack) : (setStack c i x).mems = c.mems := rfl
@[simp] theorem setStack_hitches (c : Chip) (i : Nat) (x : Stack) : (setStack c i x).hitches = c.hitches := rfl
@[simp] theorem setStack_events (c : Chip) (i : Nat) (x : Stack) : (setStack c i x).events = c.events := rfl
@[simp] theorem setStack_tokens (c : Chip) (i : Nat) (x : Stack) : (setStack c i x).tokens = c.tokens := rfl
@[simp] theorem setStack_remoteRefused (c : Chip) (i : Nat) (x : Stack) : (setStack c i x).remoteRefused = c.remoteRefused := rfl
@[simp] theorem setStack_allocs (c : Chip) (i : Nat) (x : Stack) : (setStack c i x).allocs = c.allocs := rfl
@[simp] theorem setStack_memory (c : Chip) (i : Nat) (x : Stack) : (setStack c i x).memory = { c.memory with stackTab := tset c.memory.stackTab i x } := rfl
@[simp] theorem setStack_compute (c : Chip) (i : Nat) (x : Stack) : (setStack c i x).compute = c.compute := rfl
@[simp] theorem setStack_rotation (c : Chip) (i : Nat) (x : Stack) : (setStack c i x).rotation = c.rotation := rfl
@[simp] theorem setStack_logFree (c : Chip) (i : Nat) (x : Stack) : (setStack c i x).logFree = c.logFree := rfl
@[simp] theorem setStack_rein (c : Chip) (i : Nat) (x : Stack) : (setStack c i x).rein = c.rein := rfl
@[simp] theorem setStack_errq (c : Chip) (i : Nat) (x : Stack) : (setStack c i x).errq = c.errq := rfl
@[simp] theorem setStack_ctt (c : Chip) (i : Nat) (x : Stack) : (setStack c i x).ctt = c.ctt := rfl
@[simp] theorem setStack_counters (c : Chip) (i : Nat) (x : Stack) : (setStack c i x).counters = c.counters := rfl
@[simp] theorem setStack_setNow (c : Chip) (i : Nat) (x : Stack) : (setStack c i x).setNow = c.setNow := rfl
@[simp] theorem setStack_record (c : Chip) (i : Nat) (x : Stack) : (setStack c i x).record = c.record := rfl
@[simp] theorem setStack_ghosts (c : Chip) (i : Nat) (x : Stack) : (setStack c i x).ghosts = c.ghosts := rfl
@[simp] theorem setStack_dropRoute (c : Chip) (i : Nat) (x : Stack) : (setStack c i x).dropRoute = c.dropRoute := rfl
@[simp] theorem setStack_dropSlice (c : Chip) (i : Nat) (x : Stack) : (setStack c i x).dropSlice = c.dropSlice := rfl
@[simp] theorem setStack_links (c : Chip) (i : Nat) (x : Stack) : (setStack c i x).links = c.links := rfl
@[simp] theorem setStack_linkHit (c : Chip) (i : Nat) (x : Stack) : (setStack c i x).linkHit = c.linkHit := rfl
@[simp] theorem setStack_started (c : Chip) (i : Nat) (x : Stack) : (setStack c i x).started = c.started := rfl

/-! ### setPhys -/

@[simp] theorem setPhys_out (c : Chip) (p : Nat) (v : ClState × Option Nat) : (setPhys c p v).out = c.out := rfl
@[simp] theorem setPhys_heldOut (c : Chip) (p : Nat) (v : ClState × Option Nat) : (setPhys c p v).heldOut = c.heldOut := rfl
@[simp] theorem setPhys_linkUp (c : Chip) (p : Nat) (v : ClState × Option Nat) : (setPhys c p v).linkUp = c.linkUp := rfl
@[simp] theorem setPhys_free (c : Chip) (p : Nat) (v : ClState × Option Nat) : (setPhys c p v).free = c.free := rfl
@[simp] theorem setPhys_clock (c : Chip) (p : Nat) (v : ClState × Option Nat) : (setPhys c p v).clock = c.clock := rfl
@[simp] theorem setPhys_cycles (c : Chip) (p : Nat) (v : ClState × Option Nat) : (setPhys c p v).cycles = c.cycles := rfl
@[simp] theorem setPhys_gait (c : Chip) (p : Nat) (v : ClState × Option Nat) : (setPhys c p v).gait = c.gait := rfl
@[simp] theorem setPhys_phase (c : Chip) (p : Nat) (v : ClState × Option Nat) : (setPhys c p v).phase = c.phase := rfl
@[simp] theorem setPhys_dev (c : Chip) (p : Nat) (v : ClState × Option Nat) : (setPhys c p v).dev = c.dev := rfl
@[simp] theorem setPhys_walk (c : Chip) (p : Nat) (v : ClState × Option Nat) : (setPhys c p v).walk = c.walk := rfl
@[simp] theorem setPhys_walkCleared (c : Chip) (p : Nat) (v : ClState × Option Nat) : (setPhys c p v).walkCleared = c.walkCleared := rfl
@[simp] theorem setPhys_tenants (c : Chip) (p : Nat) (v : ClState × Option Nat) : (setPhys c p v).tenants = c.tenants := rfl
@[simp] theorem setPhys_arrivals (c : Chip) (p : Nat) (v : ClState × Option Nat) : (setPhys c p v).arrivals = c.arrivals := rfl
@[simp] theorem setPhys_reqCount (c : Chip) (p : Nat) (v : ClState × Option Nat) : (setPhys c p v).reqCount = c.reqCount := rfl
@[simp] theorem setPhys_contexts (c : Chip) (p : Nat) (v : ClState × Option Nat) : (setPhys c p v).contexts = c.contexts := rfl
@[simp] theorem setPhys_queues (c : Chip) (p : Nat) (v : ClState × Option Nat) : (setPhys c p v).queues = c.queues := rfl
@[simp] theorem setPhys_mems (c : Chip) (p : Nat) (v : ClState × Option Nat) : (setPhys c p v).mems = c.mems := rfl
@[simp] theorem setPhys_hitches (c : Chip) (p : Nat) (v : ClState × Option Nat) : (setPhys c p v).hitches = c.hitches := rfl
@[simp] theorem setPhys_events (c : Chip) (p : Nat) (v : ClState × Option Nat) : (setPhys c p v).events = c.events := rfl
@[simp] theorem setPhys_tokens (c : Chip) (p : Nat) (v : ClState × Option Nat) : (setPhys c p v).tokens = c.tokens := rfl
@[simp] theorem setPhys_remoteRefused (c : Chip) (p : Nat) (v : ClState × Option Nat) : (setPhys c p v).remoteRefused = c.remoteRefused := rfl
@[simp] theorem setPhys_allocs (c : Chip) (p : Nat) (v : ClState × Option Nat) : (setPhys c p v).allocs = c.allocs := rfl
@[simp] theorem setPhys_memory (c : Chip) (p : Nat) (v : ClState × Option Nat) : (setPhys c p v).memory = c.memory := rfl
@[simp] theorem setPhys_compute (c : Chip) (p : Nat) (v : ClState × Option Nat) : (setPhys c p v).compute = { c.compute with phys := tset c.compute.phys p v } := rfl
@[simp] theorem setPhys_rotation (c : Chip) (p : Nat) (v : ClState × Option Nat) : (setPhys c p v).rotation = c.rotation := rfl
@[simp] theorem setPhys_logFree (c : Chip) (p : Nat) (v : ClState × Option Nat) : (setPhys c p v).logFree = c.logFree := rfl
@[simp] theorem setPhys_rein (c : Chip) (p : Nat) (v : ClState × Option Nat) : (setPhys c p v).rein = c.rein := rfl
@[simp] theorem setPhys_errq (c : Chip) (p : Nat) (v : ClState × Option Nat) : (setPhys c p v).errq = c.errq := rfl
@[simp] theorem setPhys_ctt (c : Chip) (p : Nat) (v : ClState × Option Nat) : (setPhys c p v).ctt = c.ctt := rfl
@[simp] theorem setPhys_counters (c : Chip) (p : Nat) (v : ClState × Option Nat) : (setPhys c p v).counters = c.counters := rfl
@[simp] theorem setPhys_setNow (c : Chip) (p : Nat) (v : ClState × Option Nat) : (setPhys c p v).setNow = c.setNow := rfl
@[simp] theorem setPhys_record (c : Chip) (p : Nat) (v : ClState × Option Nat) : (setPhys c p v).record = c.record := rfl
@[simp] theorem setPhys_ghosts (c : Chip) (p : Nat) (v : ClState × Option Nat) : (setPhys c p v).ghosts = c.ghosts := rfl
@[simp] theorem setPhys_dropRoute (c : Chip) (p : Nat) (v : ClState × Option Nat) : (setPhys c p v).dropRoute = c.dropRoute := rfl
@[simp] theorem setPhys_dropSlice (c : Chip) (p : Nat) (v : ClState × Option Nat) : (setPhys c p v).dropSlice = c.dropSlice := rfl
@[simp] theorem setPhys_links (c : Chip) (p : Nat) (v : ClState × Option Nat) : (setPhys c p v).links = c.links := rfl
@[simp] theorem setPhys_linkHit (c : Chip) (p : Nat) (v : ClState × Option Nat) : (setPhys c p v).linkHit = c.linkHit := rfl
@[simp] theorem setPhys_started (c : Chip) (p : Nat) (v : ClState × Option Nat) : (setPhys c p v).started = c.started := rfl

/-! ### addGait -/

@[simp] theorem addGait_out (c : Chip) (v : Int) : (addGait c v).out = c.out := rfl
@[simp] theorem addGait_heldOut (c : Chip) (v : Int) : (addGait c v).heldOut = c.heldOut := rfl
@[simp] theorem addGait_linkUp (c : Chip) (v : Int) : (addGait c v).linkUp = c.linkUp := rfl
@[simp] theorem addGait_free (c : Chip) (v : Int) : (addGait c v).free = c.free := rfl
@[simp] theorem addGait_clock (c : Chip) (v : Int) : (addGait c v).clock = c.clock := rfl
@[simp] theorem addGait_cycles (c : Chip) (v : Int) : (addGait c v).cycles = c.cycles := rfl
@[simp] theorem addGait_gait (c : Chip) (v : Int) : (addGait c v).gait = ((c.gait : Int) + v).toNat := rfl
@[simp] theorem addGait_phase (c : Chip) (v : Int) : (addGait c v).phase = c.phase := rfl
@[simp] theorem addGait_dev (c : Chip) (v : Int) : (addGait c v).dev = c.dev := rfl
@[simp] theorem addGait_walk (c : Chip) (v : Int) : (addGait c v).walk = c.walk := rfl
@[simp] theorem addGait_walkCleared (c : Chip) (v : Int) : (addGait c v).walkCleared = c.walkCleared := rfl
@[simp] theorem addGait_tenants (c : Chip) (v : Int) : (addGait c v).tenants = c.tenants := rfl
@[simp] theorem addGait_arrivals (c : Chip) (v : Int) : (addGait c v).arrivals = c.arrivals := rfl
@[simp] theorem addGait_reqCount (c : Chip) (v : Int) : (addGait c v).reqCount = c.reqCount := rfl
@[simp] theorem addGait_contexts (c : Chip) (v : Int) : (addGait c v).contexts = c.contexts := rfl
@[simp] theorem addGait_queues (c : Chip) (v : Int) : (addGait c v).queues = c.queues := rfl
@[simp] theorem addGait_mems (c : Chip) (v : Int) : (addGait c v).mems = c.mems := rfl
@[simp] theorem addGait_hitches (c : Chip) (v : Int) : (addGait c v).hitches = c.hitches := rfl
@[simp] theorem addGait_events (c : Chip) (v : Int) : (addGait c v).events = c.events := rfl
@[simp] theorem addGait_tokens (c : Chip) (v : Int) : (addGait c v).tokens = c.tokens := rfl
@[simp] theorem addGait_remoteRefused (c : Chip) (v : Int) : (addGait c v).remoteRefused = c.remoteRefused := rfl
@[simp] theorem addGait_allocs (c : Chip) (v : Int) : (addGait c v).allocs = c.allocs := rfl
@[simp] theorem addGait_memory (c : Chip) (v : Int) : (addGait c v).memory = c.memory := rfl
@[simp] theorem addGait_compute (c : Chip) (v : Int) : (addGait c v).compute = c.compute := rfl
@[simp] theorem addGait_rotation (c : Chip) (v : Int) : (addGait c v).rotation = c.rotation := rfl
@[simp] theorem addGait_logFree (c : Chip) (v : Int) : (addGait c v).logFree = c.logFree := rfl
@[simp] theorem addGait_rein (c : Chip) (v : Int) : (addGait c v).rein = { c.rein with counting := [] } := rfl
@[simp] theorem addGait_errq (c : Chip) (v : Int) : (addGait c v).errq = c.errq := rfl
@[simp] theorem addGait_ctt (c : Chip) (v : Int) : (addGait c v).ctt = c.ctt := rfl
@[simp] theorem addGait_counters (c : Chip) (v : Int) : (addGait c v).counters = c.counters := rfl
@[simp] theorem addGait_setNow (c : Chip) (v : Int) : (addGait c v).setNow = c.setNow := rfl
@[simp] theorem addGait_record (c : Chip) (v : Int) : (addGait c v).record = c.record := rfl
@[simp] theorem addGait_ghosts (c : Chip) (v : Int) : (addGait c v).ghosts = c.ghosts := rfl
@[simp] theorem addGait_dropRoute (c : Chip) (v : Int) : (addGait c v).dropRoute = c.dropRoute := rfl
@[simp] theorem addGait_dropSlice (c : Chip) (v : Int) : (addGait c v).dropSlice = c.dropSlice := rfl
@[simp] theorem addGait_links (c : Chip) (v : Int) : (addGait c v).links = c.links := rfl
@[simp] theorem addGait_linkHit (c : Chip) (v : Int) : (addGait c v).linkHit = c.linkHit := rfl
@[simp] theorem addGait_started (c : Chip) (v : Int) : (addGait c v).started = c.started := rfl

/-! ### modQueue -/

@[simp] theorem modQueue_out (c : Chip) (q : Nat) (f : Queue → Queue) : (modQueue c q f).out = c.out := by unfold modQueue; split <;> rfl
@[simp] theorem modQueue_heldOut (c : Chip) (q : Nat) (f : Queue → Queue) : (modQueue c q f).heldOut = c.heldOut := by unfold modQueue; split <;> rfl
@[simp] theorem modQueue_linkUp (c : Chip) (q : Nat) (f : Queue → Queue) : (modQueue c q f).linkUp = c.linkUp := by unfold modQueue; split <;> rfl
@[simp] theorem modQueue_free (c : Chip) (q : Nat) (f : Queue → Queue) : (modQueue c q f).free = c.free := by unfold modQueue; split <;> rfl
@[simp] theorem modQueue_clock (c : Chip) (q : Nat) (f : Queue → Queue) : (modQueue c q f).clock = c.clock := by unfold modQueue; split <;> rfl
@[simp] theorem modQueue_cycles (c : Chip) (q : Nat) (f : Queue → Queue) : (modQueue c q f).cycles = c.cycles := by unfold modQueue; split <;> rfl
@[simp] theorem modQueue_gait (c : Chip) (q : Nat) (f : Queue → Queue) : (modQueue c q f).gait = c.gait := by unfold modQueue; split <;> rfl
@[simp] theorem modQueue_phase (c : Chip) (q : Nat) (f : Queue → Queue) : (modQueue c q f).phase = c.phase := by unfold modQueue; split <;> rfl
@[simp] theorem modQueue_dev (c : Chip) (q : Nat) (f : Queue → Queue) : (modQueue c q f).dev = c.dev := by unfold modQueue; split <;> rfl
@[simp] theorem modQueue_walk (c : Chip) (q : Nat) (f : Queue → Queue) : (modQueue c q f).walk = c.walk := by unfold modQueue; split <;> rfl
@[simp] theorem modQueue_walkCleared (c : Chip) (q : Nat) (f : Queue → Queue) : (modQueue c q f).walkCleared = c.walkCleared := by unfold modQueue; split <;> rfl
@[simp] theorem modQueue_tenants (c : Chip) (q : Nat) (f : Queue → Queue) : (modQueue c q f).tenants = c.tenants := by unfold modQueue; split <;> rfl
@[simp] theorem modQueue_arrivals (c : Chip) (q : Nat) (f : Queue → Queue) : (modQueue c q f).arrivals = c.arrivals := by unfold modQueue; split <;> rfl
@[simp] theorem modQueue_reqCount (c : Chip) (q : Nat) (f : Queue → Queue) : (modQueue c q f).reqCount = c.reqCount := by unfold modQueue; split <;> rfl
@[simp] theorem modQueue_contexts (c : Chip) (q : Nat) (f : Queue → Queue) : (modQueue c q f).contexts = c.contexts := by unfold modQueue; split <;> rfl
@[simp] theorem modQueue_mems (c : Chip) (q : Nat) (f : Queue → Queue) : (modQueue c q f).mems = c.mems := by unfold modQueue; split <;> rfl
@[simp] theorem modQueue_hitches (c : Chip) (q : Nat) (f : Queue → Queue) : (modQueue c q f).hitches = c.hitches := by unfold modQueue; split <;> rfl
@[simp] theorem modQueue_events (c : Chip) (q : Nat) (f : Queue → Queue) : (modQueue c q f).events = c.events := by unfold modQueue; split <;> rfl
@[simp] theorem modQueue_tokens (c : Chip) (q : Nat) (f : Queue → Queue) : (modQueue c q f).tokens = c.tokens := by unfold modQueue; split <;> rfl
@[simp] theorem modQueue_remoteRefused (c : Chip) (q : Nat) (f : Queue → Queue) : (modQueue c q f).remoteRefused = c.remoteRefused := by unfold modQueue; split <;> rfl
@[simp] theorem modQueue_allocs (c : Chip) (q : Nat) (f : Queue → Queue) : (modQueue c q f).allocs = c.allocs := by unfold modQueue; split <;> rfl
@[simp] theorem modQueue_memory (c : Chip) (q : Nat) (f : Queue → Queue) : (modQueue c q f).memory = c.memory := by unfold modQueue; split <;> rfl
@[simp] theorem modQueue_compute (c : Chip) (q : Nat) (f : Queue → Queue) : (modQueue c q f).compute = c.compute := by unfold modQueue; split <;> rfl
@[simp] theorem modQueue_rotation (c : Chip) (q : Nat) (f : Queue → Queue) : (modQueue c q f).rotation = c.rotation := by unfold modQueue; split <;> rfl
@[simp] theorem modQueue_logFree (c : Chip) (q : Nat) (f : Queue → Queue) : (modQueue c q f).logFree = c.logFree := by unfold modQueue; split <;> rfl
@[simp] theorem modQueue_rein (c : Chip) (q : Nat) (f : Queue → Queue) : (modQueue c q f).rein = c.rein := by unfold modQueue; split <;> rfl
@[simp] theorem modQueue_errq (c : Chip) (q : Nat) (f : Queue → Queue) : (modQueue c q f).errq = c.errq := by unfold modQueue; split <;> rfl
@[simp] theorem modQueue_ctt (c : Chip) (q : Nat) (f : Queue → Queue) : (modQueue c q f).ctt = c.ctt := by unfold modQueue; split <;> rfl
@[simp] theorem modQueue_counters (c : Chip) (q : Nat) (f : Queue → Queue) : (modQueue c q f).counters = c.counters := by unfold modQueue; split <;> rfl
@[simp] theorem modQueue_setNow (c : Chip) (q : Nat) (f : Queue → Queue) : (modQueue c q f).setNow = c.setNow := by unfold modQueue; split <;> rfl
@[simp] theorem modQueue_record (c : Chip) (q : Nat) (f : Queue → Queue) : (modQueue c q f).record = c.record := by unfold modQueue; split <;> rfl
@[simp] theorem modQueue_ghosts (c : Chip) (q : Nat) (f : Queue → Queue) : (modQueue c q f).ghosts = c.ghosts := by unfold modQueue; split <;> rfl
@[simp] theorem modQueue_dropRoute (c : Chip) (q : Nat) (f : Queue → Queue) : (modQueue c q f).dropRoute = c.dropRoute := by unfold modQueue; split <;> rfl
@[simp] theorem modQueue_dropSlice (c : Chip) (q : Nat) (f : Queue → Queue) : (modQueue c q f).dropSlice = c.dropSlice := by unfold modQueue; split <;> rfl
@[simp] theorem modQueue_links (c : Chip) (q : Nat) (f : Queue → Queue) : (modQueue c q f).links = c.links := by unfold modQueue; split <;> rfl
@[simp] theorem modQueue_linkHit (c : Chip) (q : Nat) (f : Queue → Queue) : (modQueue c q f).linkHit = c.linkHit := by unfold modQueue; split <;> rfl
@[simp] theorem modQueue_started (c : Chip) (q : Nat) (f : Queue → Queue) : (modQueue c q f).started = c.started := by unfold modQueue; split <;> rfl

/-! ### modContext -/

@[simp] theorem modContext_out (c : Chip) (k : Nat) (f : Context → Context) : (modContext c k f).out = c.out := by unfold modContext; split <;> rfl
@[simp] theorem modContext_heldOut (c : Chip) (k : Nat) (f : Context → Context) : (modContext c k f).heldOut = c.heldOut := by unfold modContext; split <;> rfl
@[simp] theorem modContext_linkUp (c : Chip) (k : Nat) (f : Context → Context) : (modContext c k f).linkUp = c.linkUp := by unfold modContext; split <;> rfl
@[simp] theorem modContext_free (c : Chip) (k : Nat) (f : Context → Context) : (modContext c k f).free = c.free := by unfold modContext; split <;> rfl
@[simp] theorem modContext_clock (c : Chip) (k : Nat) (f : Context → Context) : (modContext c k f).clock = c.clock := by unfold modContext; split <;> rfl
@[simp] theorem modContext_cycles (c : Chip) (k : Nat) (f : Context → Context) : (modContext c k f).cycles = c.cycles := by unfold modContext; split <;> rfl
@[simp] theorem modContext_gait (c : Chip) (k : Nat) (f : Context → Context) : (modContext c k f).gait = c.gait := by unfold modContext; split <;> rfl
@[simp] theorem modContext_phase (c : Chip) (k : Nat) (f : Context → Context) : (modContext c k f).phase = c.phase := by unfold modContext; split <;> rfl
@[simp] theorem modContext_dev (c : Chip) (k : Nat) (f : Context → Context) : (modContext c k f).dev = c.dev := by unfold modContext; split <;> rfl
@[simp] theorem modContext_walk (c : Chip) (k : Nat) (f : Context → Context) : (modContext c k f).walk = c.walk := by unfold modContext; split <;> rfl
@[simp] theorem modContext_walkCleared (c : Chip) (k : Nat) (f : Context → Context) : (modContext c k f).walkCleared = c.walkCleared := by unfold modContext; split <;> rfl
@[simp] theorem modContext_tenants (c : Chip) (k : Nat) (f : Context → Context) : (modContext c k f).tenants = c.tenants := by unfold modContext; split <;> rfl
@[simp] theorem modContext_arrivals (c : Chip) (k : Nat) (f : Context → Context) : (modContext c k f).arrivals = c.arrivals := by unfold modContext; split <;> rfl
@[simp] theorem modContext_reqCount (c : Chip) (k : Nat) (f : Context → Context) : (modContext c k f).reqCount = c.reqCount := by unfold modContext; split <;> rfl
@[simp] theorem modContext_queues (c : Chip) (k : Nat) (f : Context → Context) : (modContext c k f).queues = c.queues := by unfold modContext; split <;> rfl
@[simp] theorem modContext_mems (c : Chip) (k : Nat) (f : Context → Context) : (modContext c k f).mems = c.mems := by unfold modContext; split <;> rfl
@[simp] theorem modContext_hitches (c : Chip) (k : Nat) (f : Context → Context) : (modContext c k f).hitches = c.hitches := by unfold modContext; split <;> rfl
@[simp] theorem modContext_events (c : Chip) (k : Nat) (f : Context → Context) : (modContext c k f).events = c.events := by unfold modContext; split <;> rfl
@[simp] theorem modContext_tokens (c : Chip) (k : Nat) (f : Context → Context) : (modContext c k f).tokens = c.tokens := by unfold modContext; split <;> rfl
@[simp] theorem modContext_remoteRefused (c : Chip) (k : Nat) (f : Context → Context) : (modContext c k f).remoteRefused = c.remoteRefused := by unfold modContext; split <;> rfl
@[simp] theorem modContext_allocs (c : Chip) (k : Nat) (f : Context → Context) : (modContext c k f).allocs = c.allocs := by unfold modContext; split <;> rfl
@[simp] theorem modContext_memory (c : Chip) (k : Nat) (f : Context → Context) : (modContext c k f).memory = c.memory := by unfold modContext; split <;> rfl
@[simp] theorem modContext_compute (c : Chip) (k : Nat) (f : Context → Context) : (modContext c k f).compute = c.compute := by unfold modContext; split <;> rfl
@[simp] theorem modContext_rotation (c : Chip) (k : Nat) (f : Context → Context) : (modContext c k f).rotation = c.rotation := by unfold modContext; split <;> rfl
@[simp] theorem modContext_logFree (c : Chip) (k : Nat) (f : Context → Context) : (modContext c k f).logFree = c.logFree := by unfold modContext; split <;> rfl
@[simp] theorem modContext_rein (c : Chip) (k : Nat) (f : Context → Context) : (modContext c k f).rein = c.rein := by unfold modContext; split <;> rfl
@[simp] theorem modContext_errq (c : Chip) (k : Nat) (f : Context → Context) : (modContext c k f).errq = c.errq := by unfold modContext; split <;> rfl
@[simp] theorem modContext_ctt (c : Chip) (k : Nat) (f : Context → Context) : (modContext c k f).ctt = c.ctt := by unfold modContext; split <;> rfl
@[simp] theorem modContext_counters (c : Chip) (k : Nat) (f : Context → Context) : (modContext c k f).counters = c.counters := by unfold modContext; split <;> rfl
@[simp] theorem modContext_setNow (c : Chip) (k : Nat) (f : Context → Context) : (modContext c k f).setNow = c.setNow := by unfold modContext; split <;> rfl
@[simp] theorem modContext_record (c : Chip) (k : Nat) (f : Context → Context) : (modContext c k f).record = c.record := by unfold modContext; split <;> rfl
@[simp] theorem modContext_ghosts (c : Chip) (k : Nat) (f : Context → Context) : (modContext c k f).ghosts = c.ghosts := by unfold modContext; split <;> rfl
@[simp] theorem modContext_dropRoute (c : Chip) (k : Nat) (f : Context → Context) : (modContext c k f).dropRoute = c.dropRoute := by unfold modContext; split <;> rfl
@[simp] theorem modContext_dropSlice (c : Chip) (k : Nat) (f : Context → Context) : (modContext c k f).dropSlice = c.dropSlice := by unfold modContext; split <;> rfl
@[simp] theorem modContext_links (c : Chip) (k : Nat) (f : Context → Context) : (modContext c k f).links = c.links := by unfold modContext; split <;> rfl
@[simp] theorem modContext_linkHit (c : Chip) (k : Nat) (f : Context → Context) : (modContext c k f).linkHit = c.linkHit := by unfold modContext; split <;> rfl
@[simp] theorem modContext_started (c : Chip) (k : Nat) (f : Context → Context) : (modContext c k f).started = c.started := by unfold modContext; split <;> rfl

/-! ### modMem -/

@[simp] theorem modMem_out (c : Chip) (m : Nat) (f : MemObj → MemObj) : (modMem c m f).out = c.out := by unfold modMem; split <;> rfl
@[simp] theorem modMem_heldOut (c : Chip) (m : Nat) (f : MemObj → MemObj) : (modMem c m f).heldOut = c.heldOut := by unfold modMem; split <;> rfl
@[simp] theorem modMem_linkUp (c : Chip) (m : Nat) (f : MemObj → MemObj) : (modMem c m f).linkUp = c.linkUp := by unfold modMem; split <;> rfl
@[simp] theorem modMem_free (c : Chip) (m : Nat) (f : MemObj → MemObj) : (modMem c m f).free = c.free := by unfold modMem; split <;> rfl
@[simp] theorem modMem_clock (c : Chip) (m : Nat) (f : MemObj → MemObj) : (modMem c m f).clock = c.clock := by unfold modMem; split <;> rfl
@[simp] theorem modMem_cycles (c : Chip) (m : Nat) (f : MemObj → MemObj) : (modMem c m f).cycles = c.cycles := by unfold modMem; split <;> rfl
@[simp] theorem modMem_gait (c : Chip) (m : Nat) (f : MemObj → MemObj) : (modMem c m f).gait = c.gait := by unfold modMem; split <;> rfl
@[simp] theorem modMem_phase (c : Chip) (m : Nat) (f : MemObj → MemObj) : (modMem c m f).phase = c.phase := by unfold modMem; split <;> rfl
@[simp] theorem modMem_dev (c : Chip) (m : Nat) (f : MemObj → MemObj) : (modMem c m f).dev = c.dev := by unfold modMem; split <;> rfl
@[simp] theorem modMem_walk (c : Chip) (m : Nat) (f : MemObj → MemObj) : (modMem c m f).walk = c.walk := by unfold modMem; split <;> rfl
@[simp] theorem modMem_walkCleared (c : Chip) (m : Nat) (f : MemObj → MemObj) : (modMem c m f).walkCleared = c.walkCleared := by unfold modMem; split <;> rfl
@[simp] theorem modMem_tenants (c : Chip) (m : Nat) (f : MemObj → MemObj) : (modMem c m f).tenants = c.tenants := by unfold modMem; split <;> rfl
@[simp] theorem modMem_arrivals (c : Chip) (m : Nat) (f : MemObj → MemObj) : (modMem c m f).arrivals = c.arrivals := by unfold modMem; split <;> rfl
@[simp] theorem modMem_reqCount (c : Chip) (m : Nat) (f : MemObj → MemObj) : (modMem c m f).reqCount = c.reqCount := by unfold modMem; split <;> rfl
@[simp] theorem modMem_contexts (c : Chip) (m : Nat) (f : MemObj → MemObj) : (modMem c m f).contexts = c.contexts := by unfold modMem; split <;> rfl
@[simp] theorem modMem_queues (c : Chip) (m : Nat) (f : MemObj → MemObj) : (modMem c m f).queues = c.queues := by unfold modMem; split <;> rfl
@[simp] theorem modMem_hitches (c : Chip) (m : Nat) (f : MemObj → MemObj) : (modMem c m f).hitches = c.hitches := by unfold modMem; split <;> rfl
@[simp] theorem modMem_events (c : Chip) (m : Nat) (f : MemObj → MemObj) : (modMem c m f).events = c.events := by unfold modMem; split <;> rfl
@[simp] theorem modMem_tokens (c : Chip) (m : Nat) (f : MemObj → MemObj) : (modMem c m f).tokens = c.tokens := by unfold modMem; split <;> rfl
@[simp] theorem modMem_remoteRefused (c : Chip) (m : Nat) (f : MemObj → MemObj) : (modMem c m f).remoteRefused = c.remoteRefused := by unfold modMem; split <;> rfl
@[simp] theorem modMem_allocs (c : Chip) (m : Nat) (f : MemObj → MemObj) : (modMem c m f).allocs = c.allocs := by unfold modMem; split <;> rfl
@[simp] theorem modMem_compute (c : Chip) (m : Nat) (f : MemObj → MemObj) : (modMem c m f).compute = c.compute := by unfold modMem; split <;> rfl
@[simp] theorem modMem_rotation (c : Chip) (m : Nat) (f : MemObj → MemObj) : (modMem c m f).rotation = c.rotation := by unfold modMem; split <;> rfl
@[simp] theorem modMem_logFree (c : Chip) (m : Nat) (f : MemObj → MemObj) : (modMem c m f).logFree = c.logFree := by unfold modMem; split <;> rfl
@[simp] theorem modMem_rein (c : Chip) (m : Nat) (f : MemObj → MemObj) : (modMem c m f).rein = c.rein := by unfold modMem; split <;> rfl
@[simp] theorem modMem_errq (c : Chip) (m : Nat) (f : MemObj → MemObj) : (modMem c m f).errq = c.errq := by unfold modMem; split <;> rfl
@[simp] theorem modMem_ctt (c : Chip) (m : Nat) (f : MemObj → MemObj) : (modMem c m f).ctt = c.ctt := by unfold modMem; split <;> rfl
@[simp] theorem modMem_counters (c : Chip) (m : Nat) (f : MemObj → MemObj) : (modMem c m f).counters = c.counters := by unfold modMem; split <;> rfl
@[simp] theorem modMem_setNow (c : Chip) (m : Nat) (f : MemObj → MemObj) : (modMem c m f).setNow = c.setNow := by unfold modMem; split <;> rfl
@[simp] theorem modMem_record (c : Chip) (m : Nat) (f : MemObj → MemObj) : (modMem c m f).record = c.record := by unfold modMem; split <;> rfl
@[simp] theorem modMem_ghosts (c : Chip) (m : Nat) (f : MemObj → MemObj) : (modMem c m f).ghosts = c.ghosts := by unfold modMem; split <;> rfl
@[simp] theorem modMem_dropRoute (c : Chip) (m : Nat) (f : MemObj → MemObj) : (modMem c m f).dropRoute = c.dropRoute := by unfold modMem; split <;> rfl
@[simp] theorem modMem_dropSlice (c : Chip) (m : Nat) (f : MemObj → MemObj) : (modMem c m f).dropSlice = c.dropSlice := by unfold modMem; split <;> rfl
@[simp] theorem modMem_links (c : Chip) (m : Nat) (f : MemObj → MemObj) : (modMem c m f).links = c.links := by unfold modMem; split <;> rfl
@[simp] theorem modMem_linkHit (c : Chip) (m : Nat) (f : MemObj → MemObj) : (modMem c m f).linkHit = c.linkHit := by unfold modMem; split <;> rfl
@[simp] theorem modMem_started (c : Chip) (m : Nat) (f : MemObj → MemObj) : (modMem c m f).started = c.started := by unfold modMem; split <;> rfl
@[simp] theorem modMem_memory (c : Chip) (m : Nat) (f : MemObj → MemObj) : (modMem c m f).memory = c.memory := by unfold modMem; split <;> rfl

/-! ### modHitch -/

@[simp] theorem modHitch_out (c : Chip) (h : Nat) (f : Hitch → Hitch) : (modHitch c h f).out = c.out := by unfold modHitch; split <;> rfl
@[simp] theorem modHitch_heldOut (c : Chip) (h : Nat) (f : Hitch → Hitch) : (modHitch c h f).heldOut = c.heldOut := by unfold modHitch; split <;> rfl
@[simp] theorem modHitch_linkUp (c : Chip) (h : Nat) (f : Hitch → Hitch) : (modHitch c h f).linkUp = c.linkUp := by unfold modHitch; split <;> rfl
@[simp] theorem modHitch_free (c : Chip) (h : Nat) (f : Hitch → Hitch) : (modHitch c h f).free = c.free := by unfold modHitch; split <;> rfl
@[simp] theorem modHitch_clock (c : Chip) (h : Nat) (f : Hitch → Hitch) : (modHitch c h f).clock = c.clock := by unfold modHitch; split <;> rfl
@[simp] theorem modHitch_cycles (c : Chip) (h : Nat) (f : Hitch → Hitch) : (modHitch c h f).cycles = c.cycles := by unfold modHitch; split <;> rfl
@[simp] theorem modHitch_gait (c : Chip) (h : Nat) (f : Hitch → Hitch) : (modHitch c h f).gait = c.gait := by unfold modHitch; split <;> rfl
@[simp] theorem modHitch_phase (c : Chip) (h : Nat) (f : Hitch → Hitch) : (modHitch c h f).phase = c.phase := by unfold modHitch; split <;> rfl
@[simp] theorem modHitch_dev (c : Chip) (h : Nat) (f : Hitch → Hitch) : (modHitch c h f).dev = c.dev := by unfold modHitch; split <;> rfl
@[simp] theorem modHitch_walk (c : Chip) (h : Nat) (f : Hitch → Hitch) : (modHitch c h f).walk = c.walk := by unfold modHitch; split <;> rfl
@[simp] theorem modHitch_walkCleared (c : Chip) (h : Nat) (f : Hitch → Hitch) : (modHitch c h f).walkCleared = c.walkCleared := by unfold modHitch; split <;> rfl
@[simp] theorem modHitch_tenants (c : Chip) (h : Nat) (f : Hitch → Hitch) : (modHitch c h f).tenants = c.tenants := by unfold modHitch; split <;> rfl
@[simp] theorem modHitch_arrivals (c : Chip) (h : Nat) (f : Hitch → Hitch) : (modHitch c h f).arrivals = c.arrivals := by unfold modHitch; split <;> rfl
@[simp] theorem modHitch_reqCount (c : Chip) (h : Nat) (f : Hitch → Hitch) : (modHitch c h f).reqCount = c.reqCount := by unfold modHitch; split <;> rfl
@[simp] theorem modHitch_contexts (c : Chip) (h : Nat) (f : Hitch → Hitch) : (modHitch c h f).contexts = c.contexts := by unfold modHitch; split <;> rfl
@[simp] theorem modHitch_queues (c : Chip) (h : Nat) (f : Hitch → Hitch) : (modHitch c h f).queues = c.queues := by unfold modHitch; split <;> rfl
@[simp] theorem modHitch_mems (c : Chip) (h : Nat) (f : Hitch → Hitch) : (modHitch c h f).mems = c.mems := by unfold modHitch; split <;> rfl
@[simp] theorem modHitch_events (c : Chip) (h : Nat) (f : Hitch → Hitch) : (modHitch c h f).events = c.events := by unfold modHitch; split <;> rfl
@[simp] theorem modHitch_tokens (c : Chip) (h : Nat) (f : Hitch → Hitch) : (modHitch c h f).tokens = c.tokens := by unfold modHitch; split <;> rfl
@[simp] theorem modHitch_remoteRefused (c : Chip) (h : Nat) (f : Hitch → Hitch) : (modHitch c h f).remoteRefused = c.remoteRefused := by unfold modHitch; split <;> rfl
@[simp] theorem modHitch_allocs (c : Chip) (h : Nat) (f : Hitch → Hitch) : (modHitch c h f).allocs = c.allocs := by unfold modHitch; split <;> rfl
@[simp] theorem modHitch_memory (c : Chip) (h : Nat) (f : Hitch → Hitch) : (modHitch c h f).memory = c.memory := by unfold modHitch; split <;> rfl
@[simp] theorem modHitch_compute (c : Chip) (h : Nat) (f : Hitch → Hitch) : (modHitch c h f).compute = c.compute := by unfold modHitch; split <;> rfl
@[simp] theorem modHitch_rotation (c : Chip) (h : Nat) (f : Hitch → Hitch) : (modHitch c h f).rotation = c.rotation := by unfold modHitch; split <;> rfl
@[simp] theorem modHitch_logFree (c : Chip) (h : Nat) (f : Hitch → Hitch) : (modHitch c h f).logFree = c.logFree := by unfold modHitch; split <;> rfl
@[simp] theorem modHitch_rein (c : Chip) (h : Nat) (f : Hitch → Hitch) : (modHitch c h f).rein = c.rein := by unfold modHitch; split <;> rfl
@[simp] theorem modHitch_errq (c : Chip) (h : Nat) (f : Hitch → Hitch) : (modHitch c h f).errq = c.errq := by unfold modHitch; split <;> rfl
@[simp] theorem modHitch_ctt (c : Chip) (h : Nat) (f : Hitch → Hitch) : (modHitch c h f).ctt = c.ctt := by unfold modHitch; split <;> rfl
@[simp] theorem modHitch_counters (c : Chip) (h : Nat) (f : Hitch → Hitch) : (modHitch c h f).counters = c.counters := by unfold modHitch; split <;> rfl
@[simp] theorem modHitch_setNow (c : Chip) (h : Nat) (f : Hitch → Hitch) : (modHitch c h f).setNow = c.setNow := by unfold modHitch; split <;> rfl
@[simp] theorem modHitch_record (c : Chip) (h : Nat) (f : Hitch → Hitch) : (modHitch c h f).record = c.record := by unfold modHitch; split <;> rfl
@[simp] theorem modHitch_ghosts (c : Chip) (h : Nat) (f : Hitch → Hitch) : (modHitch c h f).ghosts = c.ghosts := by unfold modHitch; split <;> rfl
@[simp] theorem modHitch_dropRoute (c : Chip) (h : Nat) (f : Hitch → Hitch) : (modHitch c h f).dropRoute = c.dropRoute := by unfold modHitch; split <;> rfl
@[simp] theorem modHitch_dropSlice (c : Chip) (h : Nat) (f : Hitch → Hitch) : (modHitch c h f).dropSlice = c.dropSlice := by unfold modHitch; split <;> rfl
@[simp] theorem modHitch_links (c : Chip) (h : Nat) (f : Hitch → Hitch) : (modHitch c h f).links = c.links := by unfold modHitch; split <;> rfl
@[simp] theorem modHitch_linkHit (c : Chip) (h : Nat) (f : Hitch → Hitch) : (modHitch c h f).linkHit = c.linkHit := by unfold modHitch; split <;> rfl
@[simp] theorem modHitch_started (c : Chip) (h : Nat) (f : Hitch → Hitch) : (modHitch c h f).started = c.started := by unfold modHitch; split <;> rfl

/-! ### modEvent -/

@[simp] theorem modEvent_out (c : Chip) (i : Nat) (f : Event → Event) : (modEvent c i f).out = c.out := by unfold modEvent; split <;> rfl
@[simp] theorem modEvent_heldOut (c : Chip) (i : Nat) (f : Event → Event) : (modEvent c i f).heldOut = c.heldOut := by unfold modEvent; split <;> rfl
@[simp] theorem modEvent_linkUp (c : Chip) (i : Nat) (f : Event → Event) : (modEvent c i f).linkUp = c.linkUp := by unfold modEvent; split <;> rfl
@[simp] theorem modEvent_free (c : Chip) (i : Nat) (f : Event → Event) : (modEvent c i f).free = c.free := by unfold modEvent; split <;> rfl
@[simp] theorem modEvent_clock (c : Chip) (i : Nat) (f : Event → Event) : (modEvent c i f).clock = c.clock := by unfold modEvent; split <;> rfl
@[simp] theorem modEvent_cycles (c : Chip) (i : Nat) (f : Event → Event) : (modEvent c i f).cycles = c.cycles := by unfold modEvent; split <;> rfl
@[simp] theorem modEvent_gait (c : Chip) (i : Nat) (f : Event → Event) : (modEvent c i f).gait = c.gait := by unfold modEvent; split <;> rfl
@[simp] theorem modEvent_phase (c : Chip) (i : Nat) (f : Event → Event) : (modEvent c i f).phase = c.phase := by unfold modEvent; split <;> rfl
@[simp] theorem modEvent_dev (c : Chip) (i : Nat) (f : Event → Event) : (modEvent c i f).dev = c.dev := by unfold modEvent; split <;> rfl
@[simp] theorem modEvent_walk (c : Chip) (i : Nat) (f : Event → Event) : (modEvent c i f).walk = c.walk := by unfold modEvent; split <;> rfl
@[simp] theorem modEvent_walkCleared (c : Chip) (i : Nat) (f : Event → Event) : (modEvent c i f).walkCleared = c.walkCleared := by unfold modEvent; split <;> rfl
@[simp] theorem modEvent_tenants (c : Chip) (i : Nat) (f : Event → Event) : (modEvent c i f).tenants = c.tenants := by unfold modEvent; split <;> rfl
@[simp] theorem modEvent_arrivals (c : Chip) (i : Nat) (f : Event → Event) : (modEvent c i f).arrivals = c.arrivals := by unfold modEvent; split <;> rfl
@[simp] theorem modEvent_reqCount (c : Chip) (i : Nat) (f : Event → Event) : (modEvent c i f).reqCount = c.reqCount := by unfold modEvent; split <;> rfl
@[simp] theorem modEvent_contexts (c : Chip) (i : Nat) (f : Event → Event) : (modEvent c i f).contexts = c.contexts := by unfold modEvent; split <;> rfl
@[simp] theorem modEvent_queues (c : Chip) (i : Nat) (f : Event → Event) : (modEvent c i f).queues = c.queues := by unfold modEvent; split <;> rfl
@[simp] theorem modEvent_mems (c : Chip) (i : Nat) (f : Event → Event) : (modEvent c i f).mems = c.mems := by unfold modEvent; split <;> rfl
@[simp] theorem modEvent_hitches (c : Chip) (i : Nat) (f : Event → Event) : (modEvent c i f).hitches = c.hitches := by unfold modEvent; split <;> rfl
@[simp] theorem modEvent_tokens (c : Chip) (i : Nat) (f : Event → Event) : (modEvent c i f).tokens = c.tokens := by unfold modEvent; split <;> rfl
@[simp] theorem modEvent_remoteRefused (c : Chip) (i : Nat) (f : Event → Event) : (modEvent c i f).remoteRefused = c.remoteRefused := by unfold modEvent; split <;> rfl
@[simp] theorem modEvent_allocs (c : Chip) (i : Nat) (f : Event → Event) : (modEvent c i f).allocs = c.allocs := by unfold modEvent; split <;> rfl
@[simp] theorem modEvent_memory (c : Chip) (i : Nat) (f : Event → Event) : (modEvent c i f).memory = c.memory := by unfold modEvent; split <;> rfl
@[simp] theorem modEvent_compute (c : Chip) (i : Nat) (f : Event → Event) : (modEvent c i f).compute = c.compute := by unfold modEvent; split <;> rfl
@[simp] theorem modEvent_rotation (c : Chip) (i : Nat) (f : Event → Event) : (modEvent c i f).rotation = c.rotation := by unfold modEvent; split <;> rfl
@[simp] theorem modEvent_logFree (c : Chip) (i : Nat) (f : Event → Event) : (modEvent c i f).logFree = c.logFree := by unfold modEvent; split <;> rfl
@[simp] theorem modEvent_rein (c : Chip) (i : Nat) (f : Event → Event) : (modEvent c i f).rein = c.rein := by unfold modEvent; split <;> rfl
@[simp] theorem modEvent_errq (c : Chip) (i : Nat) (f : Event → Event) : (modEvent c i f).errq = c.errq := by unfold modEvent; split <;> rfl
@[simp] theorem modEvent_ctt (c : Chip) (i : Nat) (f : Event → Event) : (modEvent c i f).ctt = c.ctt := by unfold modEvent; split <;> rfl
@[simp] theorem modEvent_counters (c : Chip) (i : Nat) (f : Event → Event) : (modEvent c i f).counters = c.counters := by unfold modEvent; split <;> rfl
@[simp] theorem modEvent_setNow (c : Chip) (i : Nat) (f : Event → Event) : (modEvent c i f).setNow = c.setNow := by unfold modEvent; split <;> rfl
@[simp] theorem modEvent_record (c : Chip) (i : Nat) (f : Event → Event) : (modEvent c i f).record = c.record := by unfold modEvent; split <;> rfl
@[simp] theorem modEvent_ghosts (c : Chip) (i : Nat) (f : Event → Event) : (modEvent c i f).ghosts = c.ghosts := by unfold modEvent; split <;> rfl
@[simp] theorem modEvent_dropRoute (c : Chip) (i : Nat) (f : Event → Event) : (modEvent c i f).dropRoute = c.dropRoute := by unfold modEvent; split <;> rfl
@[simp] theorem modEvent_dropSlice (c : Chip) (i : Nat) (f : Event → Event) : (modEvent c i f).dropSlice = c.dropSlice := by unfold modEvent; split <;> rfl
@[simp] theorem modEvent_links (c : Chip) (i : Nat) (f : Event → Event) : (modEvent c i f).links = c.links := by unfold modEvent; split <;> rfl
@[simp] theorem modEvent_linkHit (c : Chip) (i : Nat) (f : Event → Event) : (modEvent c i f).linkHit = c.linkHit := by unfold modEvent; split <;> rfl
@[simp] theorem modEvent_started (c : Chip) (i : Nat) (f : Event → Event) : (modEvent c i f).started = c.started := by unfold modEvent; split <;> rfl

/-! ### modToken -/

@[simp] theorem modToken_out (c : Chip) (i : Nat) (f : Token → Token) : (modToken c i f).out = c.out := by unfold modToken; split <;> rfl
@[simp] theorem modToken_heldOut (c : Chip) (i : Nat) (f : Token → Token) : (modToken c i f).heldOut = c.heldOut := by unfold modToken; split <;> rfl
@[simp] theorem modToken_linkUp (c : Chip) (i : Nat) (f : Token → Token) : (modToken c i f).linkUp = c.linkUp := by unfold modToken; split <;> rfl
@[simp] theorem modToken_free (c : Chip) (i : Nat) (f : Token → Token) : (modToken c i f).free = c.free := by unfold modToken; split <;> rfl
@[simp] theorem modToken_clock (c : Chip) (i : Nat) (f : Token → Token) : (modToken c i f).clock = c.clock := by unfold modToken; split <;> rfl
@[simp] theorem modToken_cycles (c : Chip) (i : Nat) (f : Token → Token) : (modToken c i f).cycles = c.cycles := by unfold modToken; split <;> rfl
@[simp] theorem modToken_gait (c : Chip) (i : Nat) (f : Token → Token) : (modToken c i f).gait = c.gait := by unfold modToken; split <;> rfl
@[simp] theorem modToken_phase (c : Chip) (i : Nat) (f : Token → Token) : (modToken c i f).phase = c.phase := by unfold modToken; split <;> rfl
@[simp] theorem modToken_dev (c : Chip) (i : Nat) (f : Token → Token) : (modToken c i f).dev = c.dev := by unfold modToken; split <;> rfl
@[simp] theorem modToken_walk (c : Chip) (i : Nat) (f : Token → Token) : (modToken c i f).walk = c.walk := by unfold modToken; split <;> rfl
@[simp] theorem modToken_walkCleared (c : Chip) (i : Nat) (f : Token → Token) : (modToken c i f).walkCleared = c.walkCleared := by unfold modToken; split <;> rfl
@[simp] theorem modToken_tenants (c : Chip) (i : Nat) (f : Token → Token) : (modToken c i f).tenants = c.tenants := by unfold modToken; split <;> rfl
@[simp] theorem modToken_arrivals (c : Chip) (i : Nat) (f : Token → Token) : (modToken c i f).arrivals = c.arrivals := by unfold modToken; split <;> rfl
@[simp] theorem modToken_reqCount (c : Chip) (i : Nat) (f : Token → Token) : (modToken c i f).reqCount = c.reqCount := by unfold modToken; split <;> rfl
@[simp] theorem modToken_contexts (c : Chip) (i : Nat) (f : Token → Token) : (modToken c i f).contexts = c.contexts := by unfold modToken; split <;> rfl
@[simp] theorem modToken_queues (c : Chip) (i : Nat) (f : Token → Token) : (modToken c i f).queues = c.queues := by unfold modToken; split <;> rfl
@[simp] theorem modToken_mems (c : Chip) (i : Nat) (f : Token → Token) : (modToken c i f).mems = c.mems := by unfold modToken; split <;> rfl
@[simp] theorem modToken_hitches (c : Chip) (i : Nat) (f : Token → Token) : (modToken c i f).hitches = c.hitches := by unfold modToken; split <;> rfl
@[simp] theorem modToken_events (c : Chip) (i : Nat) (f : Token → Token) : (modToken c i f).events = c.events := by unfold modToken; split <;> rfl
@[simp] theorem modToken_remoteRefused (c : Chip) (i : Nat) (f : Token → Token) : (modToken c i f).remoteRefused = c.remoteRefused := by unfold modToken; split <;> rfl
@[simp] theorem modToken_allocs (c : Chip) (i : Nat) (f : Token → Token) : (modToken c i f).allocs = c.allocs := by unfold modToken; split <;> rfl
@[simp] theorem modToken_memory (c : Chip) (i : Nat) (f : Token → Token) : (modToken c i f).memory = c.memory := by unfold modToken; split <;> rfl
@[simp] theorem modToken_compute (c : Chip) (i : Nat) (f : Token → Token) : (modToken c i f).compute = c.compute := by unfold modToken; split <;> rfl
@[simp] theorem modToken_rotation (c : Chip) (i : Nat) (f : Token → Token) : (modToken c i f).rotation = c.rotation := by unfold modToken; split <;> rfl
@[simp] theorem modToken_logFree (c : Chip) (i : Nat) (f : Token → Token) : (modToken c i f).logFree = c.logFree := by unfold modToken; split <;> rfl
@[simp] theorem modToken_rein (c : Chip) (i : Nat) (f : Token → Token) : (modToken c i f).rein = c.rein := by unfold modToken; split <;> rfl
@[simp] theorem modToken_errq (c : Chip) (i : Nat) (f : Token → Token) : (modToken c i f).errq = c.errq := by unfold modToken; split <;> rfl
@[simp] theorem modToken_ctt (c : Chip) (i : Nat) (f : Token → Token) : (modToken c i f).ctt = c.ctt := by unfold modToken; split <;> rfl
@[simp] theorem modToken_counters (c : Chip) (i : Nat) (f : Token → Token) : (modToken c i f).counters = c.counters := by unfold modToken; split <;> rfl
@[simp] theorem modToken_setNow (c : Chip) (i : Nat) (f : Token → Token) : (modToken c i f).setNow = c.setNow := by unfold modToken; split <;> rfl
@[simp] theorem modToken_record (c : Chip) (i : Nat) (f : Token → Token) : (modToken c i f).record = c.record := by unfold modToken; split <;> rfl
@[simp] theorem modToken_ghosts (c : Chip) (i : Nat) (f : Token → Token) : (modToken c i f).ghosts = c.ghosts := by unfold modToken; split <;> rfl
@[simp] theorem modToken_dropRoute (c : Chip) (i : Nat) (f : Token → Token) : (modToken c i f).dropRoute = c.dropRoute := by unfold modToken; split <;> rfl
@[simp] theorem modToken_dropSlice (c : Chip) (i : Nat) (f : Token → Token) : (modToken c i f).dropSlice = c.dropSlice := by unfold modToken; split <;> rfl
@[simp] theorem modToken_links (c : Chip) (i : Nat) (f : Token → Token) : (modToken c i f).links = c.links := by unfold modToken; split <;> rfl
@[simp] theorem modToken_linkHit (c : Chip) (i : Nat) (f : Token → Token) : (modToken c i f).linkHit = c.linkHit := by unfold modToken; split <;> rfl
@[simp] theorem modToken_started (c : Chip) (i : Nat) (f : Token → Token) : (modToken c i f).started = c.started := by unfold modToken; split <;> rfl

/-! ### raiseSource -/

@[simp] theorem raiseSource_out (c : Chip) (i : Nat) : (raiseSource c i).out = c.out := by simp only [raiseSource]; repeat (first | rfl | split)
@[simp] theorem raiseSource_heldOut (c : Chip) (i : Nat) : (raiseSource c i).heldOut = c.heldOut := by simp only [raiseSource]; repeat (first | rfl | split)
@[simp] theorem raiseSource_linkUp (c : Chip) (i : Nat) : (raiseSource c i).linkUp = c.linkUp := by simp only [raiseSource]; repeat (first | rfl | split)
@[simp] theorem raiseSource_free (c : Chip) (i : Nat) : (raiseSource c i).free = c.free := by simp only [raiseSource]; repeat (first | rfl | split)
@[simp] theorem raiseSource_clock (c : Chip) (i : Nat) : (raiseSource c i).clock = c.clock := by simp only [raiseSource]; repeat (first | rfl | split)
@[simp] theorem raiseSource_cycles (c : Chip) (i : Nat) : (raiseSource c i).cycles = c.cycles := by simp only [raiseSource]; repeat (first | rfl | split)
@[simp] theorem raiseSource_gait (c : Chip) (i : Nat) : (raiseSource c i).gait = c.gait := by simp only [raiseSource]; repeat (first | rfl | split)
@[simp] theorem raiseSource_phase (c : Chip) (i : Nat) : (raiseSource c i).phase = c.phase := by simp only [raiseSource]; repeat (first | rfl | split)
@[simp] theorem raiseSource_dev (c : Chip) (i : Nat) : (raiseSource c i).dev = c.dev := by simp only [raiseSource]; repeat (first | rfl | split)
@[simp] theorem raiseSource_walk (c : Chip) (i : Nat) : (raiseSource c i).walk = c.walk := by simp only [raiseSource]; repeat (first | rfl | split)
@[simp] theorem raiseSource_walkCleared (c : Chip) (i : Nat) : (raiseSource c i).walkCleared = c.walkCleared := by simp only [raiseSource]; repeat (first | rfl | split)
@[simp] theorem raiseSource_tenants (c : Chip) (i : Nat) : (raiseSource c i).tenants = c.tenants := by simp only [raiseSource]; repeat (first | rfl | split)
@[simp] theorem raiseSource_arrivals (c : Chip) (i : Nat) : (raiseSource c i).arrivals = c.arrivals := by simp only [raiseSource]; repeat (first | rfl | split)
@[simp] theorem raiseSource_reqCount (c : Chip) (i : Nat) : (raiseSource c i).reqCount = c.reqCount := by simp only [raiseSource]; repeat (first | rfl | split)
@[simp] theorem raiseSource_contexts (c : Chip) (i : Nat) : (raiseSource c i).contexts = c.contexts := by simp only [raiseSource]; repeat (first | rfl | split)
@[simp] theorem raiseSource_queues (c : Chip) (i : Nat) : (raiseSource c i).queues = c.queues := by simp only [raiseSource]; repeat (first | rfl | split)
@[simp] theorem raiseSource_mems (c : Chip) (i : Nat) : (raiseSource c i).mems = c.mems := by simp only [raiseSource]; repeat (first | rfl | split)
@[simp] theorem raiseSource_hitches (c : Chip) (i : Nat) : (raiseSource c i).hitches = c.hitches := by simp only [raiseSource]; repeat (first | rfl | split)
@[simp] theorem raiseSource_events (c : Chip) (i : Nat) : (raiseSource c i).events = c.events := by simp only [raiseSource]; repeat (first | rfl | split)
@[simp] theorem raiseSource_tokens (c : Chip) (i : Nat) : (raiseSource c i).tokens = c.tokens := by simp only [raiseSource]; repeat (first | rfl | split)
@[simp] theorem raiseSource_remoteRefused (c : Chip) (i : Nat) : (raiseSource c i).remoteRefused = c.remoteRefused := by simp only [raiseSource]; repeat (first | rfl | split)
@[simp] theorem raiseSource_allocs (c : Chip) (i : Nat) : (raiseSource c i).allocs = c.allocs := by simp only [raiseSource]; repeat (first | rfl | split)
@[simp] theorem raiseSource_memory (c : Chip) (i : Nat) : (raiseSource c i).memory = c.memory := by simp only [raiseSource]; repeat (first | rfl | split)
@[simp] theorem raiseSource_compute (c : Chip) (i : Nat) : (raiseSource c i).compute = c.compute := by simp only [raiseSource]; repeat (first | rfl | split)
@[simp] theorem raiseSource_rotation (c : Chip) (i : Nat) : (raiseSource c i).rotation = c.rotation := by simp only [raiseSource]; repeat (first | rfl | split)
@[simp] theorem raiseSource_logFree (c : Chip) (i : Nat) : (raiseSource c i).logFree = c.logFree := by simp only [raiseSource]; repeat (first | rfl | split)
@[simp] theorem raiseSource_errq (c : Chip) (i : Nat) : (raiseSource c i).errq = c.errq := by simp only [raiseSource]; repeat (first | rfl | split)
@[simp] theorem raiseSource_ctt (c : Chip) (i : Nat) : (raiseSource c i).ctt = c.ctt := by simp only [raiseSource]; repeat (first | rfl | split)
@[simp] theorem raiseSource_counters (c : Chip) (i : Nat) : (raiseSource c i).counters = c.counters := by simp only [raiseSource]; repeat (first | rfl | split)
@[simp] theorem raiseSource_setNow (c : Chip) (i : Nat) : (raiseSource c i).setNow = c.setNow := by simp only [raiseSource]; repeat (first | rfl | split)
@[simp] theorem raiseSource_record (c : Chip) (i : Nat) : (raiseSource c i).record = c.record := by simp only [raiseSource]; repeat (first | rfl | split)
@[simp] theorem raiseSource_ghosts (c : Chip) (i : Nat) : (raiseSource c i).ghosts = c.ghosts := by simp only [raiseSource]; repeat (first | rfl | split)
@[simp] theorem raiseSource_dropRoute (c : Chip) (i : Nat) : (raiseSource c i).dropRoute = c.dropRoute := by simp only [raiseSource]; repeat (first | rfl | split)
@[simp] theorem raiseSource_dropSlice (c : Chip) (i : Nat) : (raiseSource c i).dropSlice = c.dropSlice := by simp only [raiseSource]; repeat (first | rfl | split)
@[simp] theorem raiseSource_links (c : Chip) (i : Nat) : (raiseSource c i).links = c.links := by simp only [raiseSource]; repeat (first | rfl | split)
@[simp] theorem raiseSource_linkHit (c : Chip) (i : Nat) : (raiseSource c i).linkHit = c.linkHit := by simp only [raiseSource]; repeat (first | rfl | split)
@[simp] theorem raiseSource_started (c : Chip) (i : Nat) : (raiseSource c i).started = c.started := by simp only [raiseSource]; repeat (first | rfl | split)

/-! ### settleLevel -/

@[simp] theorem settleLevel_out (c : Chip) (i : Nat) : (settleLevel c i).out = c.out := by simp only [settleLevel]; repeat (first | rfl | split)
@[simp] theorem settleLevel_heldOut (c : Chip) (i : Nat) : (settleLevel c i).heldOut = c.heldOut := by simp only [settleLevel]; repeat (first | rfl | split)
@[simp] theorem settleLevel_linkUp (c : Chip) (i : Nat) : (settleLevel c i).linkUp = c.linkUp := by simp only [settleLevel]; repeat (first | rfl | split)
@[simp] theorem settleLevel_free (c : Chip) (i : Nat) : (settleLevel c i).free = c.free := by simp only [settleLevel]; repeat (first | rfl | split)
@[simp] theorem settleLevel_clock (c : Chip) (i : Nat) : (settleLevel c i).clock = c.clock := by simp only [settleLevel]; repeat (first | rfl | split)
@[simp] theorem settleLevel_cycles (c : Chip) (i : Nat) : (settleLevel c i).cycles = c.cycles := by simp only [settleLevel]; repeat (first | rfl | split)
@[simp] theorem settleLevel_gait (c : Chip) (i : Nat) : (settleLevel c i).gait = c.gait := by simp only [settleLevel]; repeat (first | rfl | split)
@[simp] theorem settleLevel_phase (c : Chip) (i : Nat) : (settleLevel c i).phase = c.phase := by simp only [settleLevel]; repeat (first | rfl | split)
@[simp] theorem settleLevel_dev (c : Chip) (i : Nat) : (settleLevel c i).dev = c.dev := by simp only [settleLevel]; repeat (first | rfl | split)
@[simp] theorem settleLevel_walk (c : Chip) (i : Nat) : (settleLevel c i).walk = c.walk := by simp only [settleLevel]; repeat (first | rfl | split)
@[simp] theorem settleLevel_walkCleared (c : Chip) (i : Nat) : (settleLevel c i).walkCleared = c.walkCleared := by simp only [settleLevel]; repeat (first | rfl | split)
@[simp] theorem settleLevel_tenants (c : Chip) (i : Nat) : (settleLevel c i).tenants = c.tenants := by simp only [settleLevel]; repeat (first | rfl | split)
@[simp] theorem settleLevel_arrivals (c : Chip) (i : Nat) : (settleLevel c i).arrivals = c.arrivals := by simp only [settleLevel]; repeat (first | rfl | split)
@[simp] theorem settleLevel_reqCount (c : Chip) (i : Nat) : (settleLevel c i).reqCount = c.reqCount := by simp only [settleLevel]; repeat (first | rfl | split)
@[simp] theorem settleLevel_contexts (c : Chip) (i : Nat) : (settleLevel c i).contexts = c.contexts := by simp only [settleLevel]; repeat (first | rfl | split)
@[simp] theorem settleLevel_queues (c : Chip) (i : Nat) : (settleLevel c i).queues = c.queues := by simp only [settleLevel]; repeat (first | rfl | split)
@[simp] theorem settleLevel_mems (c : Chip) (i : Nat) : (settleLevel c i).mems = c.mems := by simp only [settleLevel]; repeat (first | rfl | split)
@[simp] theorem settleLevel_hitches (c : Chip) (i : Nat) : (settleLevel c i).hitches = c.hitches := by simp only [settleLevel]; repeat (first | rfl | split)
@[simp] theorem settleLevel_events (c : Chip) (i : Nat) : (settleLevel c i).events = c.events := by simp only [settleLevel]; repeat (first | rfl | split)
@[simp] theorem settleLevel_tokens (c : Chip) (i : Nat) : (settleLevel c i).tokens = c.tokens := by simp only [settleLevel]; repeat (first | rfl | split)
@[simp] theorem settleLevel_remoteRefused (c : Chip) (i : Nat) : (settleLevel c i).remoteRefused = c.remoteRefused := by simp only [settleLevel]; repeat (first | rfl | split)
@[simp] theorem settleLevel_allocs (c : Chip) (i : Nat) : (settleLevel c i).allocs = c.allocs := by simp only [settleLevel]; repeat (first | rfl | split)
@[simp] theorem settleLevel_memory (c : Chip) (i : Nat) : (settleLevel c i).memory = c.memory := by simp only [settleLevel]; repeat (first | rfl | split)
@[simp] theorem settleLevel_compute (c : Chip) (i : Nat) : (settleLevel c i).compute = c.compute := by simp only [settleLevel]; repeat (first | rfl | split)
@[simp] theorem settleLevel_rotation (c : Chip) (i : Nat) : (settleLevel c i).rotation = c.rotation := by simp only [settleLevel]; repeat (first | rfl | split)
@[simp] theorem settleLevel_logFree (c : Chip) (i : Nat) : (settleLevel c i).logFree = c.logFree := by simp only [settleLevel]; repeat (first | rfl | split)
@[simp] theorem settleLevel_errq (c : Chip) (i : Nat) : (settleLevel c i).errq = c.errq := by simp only [settleLevel]; repeat (first | rfl | split)
@[simp] theorem settleLevel_ctt (c : Chip) (i : Nat) : (settleLevel c i).ctt = c.ctt := by simp only [settleLevel]; repeat (first | rfl | split)
@[simp] theorem settleLevel_counters (c : Chip) (i : Nat) : (settleLevel c i).counters = c.counters := by simp only [settleLevel]; repeat (first | rfl | split)
@[simp] theorem settleLevel_setNow (c : Chip) (i : Nat) : (settleLevel c i).setNow = c.setNow := by simp only [settleLevel]; repeat (first | rfl | split)
@[simp] theorem settleLevel_record (c : Chip) (i : Nat) : (settleLevel c i).record = c.record := by simp only [settleLevel]; repeat (first | rfl | split)
@[simp] theorem settleLevel_ghosts (c : Chip) (i : Nat) : (settleLevel c i).ghosts = c.ghosts := by simp only [settleLevel]; repeat (first | rfl | split)
@[simp] theorem settleLevel_dropRoute (c : Chip) (i : Nat) : (settleLevel c i).dropRoute = c.dropRoute := by simp only [settleLevel]; repeat (first | rfl | split)
@[simp] theorem settleLevel_dropSlice (c : Chip) (i : Nat) : (settleLevel c i).dropSlice = c.dropSlice := by simp only [settleLevel]; repeat (first | rfl | split)
@[simp] theorem settleLevel_links (c : Chip) (i : Nat) : (settleLevel c i).links = c.links := by simp only [settleLevel]; repeat (first | rfl | split)
@[simp] theorem settleLevel_linkHit (c : Chip) (i : Nat) : (settleLevel c i).linkHit = c.linkHit := by simp only [settleLevel]; repeat (first | rfl | split)
@[simp] theorem settleLevel_started (c : Chip) (i : Nat) : (settleLevel c i).started = c.started := by simp only [settleLevel]; repeat (first | rfl | split)

/-! ### cntFix -/

@[simp] theorem cntFix_out (c : Chip) (i n : Nat) : (cntFix c i n).out = c.out := by unfold cntFix; split <;> rfl
@[simp] theorem cntFix_heldOut (c : Chip) (i n : Nat) : (cntFix c i n).heldOut = c.heldOut := by unfold cntFix; split <;> rfl
@[simp] theorem cntFix_linkUp (c : Chip) (i n : Nat) : (cntFix c i n).linkUp = c.linkUp := by unfold cntFix; split <;> rfl
@[simp] theorem cntFix_free (c : Chip) (i n : Nat) : (cntFix c i n).free = c.free := by unfold cntFix; split <;> rfl
@[simp] theorem cntFix_clock (c : Chip) (i n : Nat) : (cntFix c i n).clock = c.clock := by unfold cntFix; split <;> rfl
@[simp] theorem cntFix_cycles (c : Chip) (i n : Nat) : (cntFix c i n).cycles = c.cycles := by unfold cntFix; split <;> rfl
@[simp] theorem cntFix_gait (c : Chip) (i n : Nat) : (cntFix c i n).gait = c.gait := by unfold cntFix; split <;> rfl
@[simp] theorem cntFix_phase (c : Chip) (i n : Nat) : (cntFix c i n).phase = c.phase := by unfold cntFix; split <;> rfl
@[simp] theorem cntFix_dev (c : Chip) (i n : Nat) : (cntFix c i n).dev = c.dev := by unfold cntFix; split <;> rfl
@[simp] theorem cntFix_walk (c : Chip) (i n : Nat) : (cntFix c i n).walk = c.walk := by unfold cntFix; split <;> rfl
@[simp] theorem cntFix_walkCleared (c : Chip) (i n : Nat) : (cntFix c i n).walkCleared = c.walkCleared := by unfold cntFix; split <;> rfl
@[simp] theorem cntFix_tenants (c : Chip) (i n : Nat) : (cntFix c i n).tenants = c.tenants := by unfold cntFix; split <;> rfl
@[simp] theorem cntFix_arrivals (c : Chip) (i n : Nat) : (cntFix c i n).arrivals = c.arrivals := by unfold cntFix; split <;> rfl
@[simp] theorem cntFix_reqCount (c : Chip) (i n : Nat) : (cntFix c i n).reqCount = c.reqCount := by unfold cntFix; split <;> rfl
@[simp] theorem cntFix_contexts (c : Chip) (i n : Nat) : (cntFix c i n).contexts = c.contexts := by unfold cntFix; split <;> rfl
@[simp] theorem cntFix_queues (c : Chip) (i n : Nat) : (cntFix c i n).queues = c.queues := by unfold cntFix; split <;> rfl
@[simp] theorem cntFix_mems (c : Chip) (i n : Nat) : (cntFix c i n).mems = c.mems := by unfold cntFix; split <;> rfl
@[simp] theorem cntFix_hitches (c : Chip) (i n : Nat) : (cntFix c i n).hitches = c.hitches := by unfold cntFix; split <;> rfl
@[simp] theorem cntFix_events (c : Chip) (i n : Nat) : (cntFix c i n).events = c.events := by unfold cntFix; split <;> rfl
@[simp] theorem cntFix_tokens (c : Chip) (i n : Nat) : (cntFix c i n).tokens = c.tokens := by unfold cntFix; split <;> rfl
@[simp] theorem cntFix_remoteRefused (c : Chip) (i n : Nat) : (cntFix c i n).remoteRefused = c.remoteRefused := by unfold cntFix; split <;> rfl
@[simp] theorem cntFix_allocs (c : Chip) (i n : Nat) : (cntFix c i n).allocs = c.allocs := by unfold cntFix; split <;> rfl
@[simp] theorem cntFix_compute (c : Chip) (i n : Nat) : (cntFix c i n).compute = c.compute := by unfold cntFix; split <;> rfl
@[simp] theorem cntFix_rotation (c : Chip) (i n : Nat) : (cntFix c i n).rotation = c.rotation := by unfold cntFix; split <;> rfl
@[simp] theorem cntFix_logFree (c : Chip) (i n : Nat) : (cntFix c i n).logFree = c.logFree := by unfold cntFix; split <;> rfl
@[simp] theorem cntFix_rein (c : Chip) (i n : Nat) : (cntFix c i n).rein = c.rein := by unfold cntFix; split <;> rfl
@[simp] theorem cntFix_errq (c : Chip) (i n : Nat) : (cntFix c i n).errq = c.errq := by unfold cntFix; split <;> rfl
@[simp] theorem cntFix_ctt (c : Chip) (i n : Nat) : (cntFix c i n).ctt = c.ctt := by unfold cntFix; split <;> rfl
@[simp] theorem cntFix_setNow (c : Chip) (i n : Nat) : (cntFix c i n).setNow = c.setNow := by unfold cntFix; split <;> rfl
@[simp] theorem cntFix_record (c : Chip) (i n : Nat) : (cntFix c i n).record = c.record := by unfold cntFix; split <;> rfl
@[simp] theorem cntFix_ghosts (c : Chip) (i n : Nat) : (cntFix c i n).ghosts = c.ghosts := by unfold cntFix; split <;> rfl
@[simp] theorem cntFix_dropRoute (c : Chip) (i n : Nat) : (cntFix c i n).dropRoute = c.dropRoute := by unfold cntFix; split <;> rfl
@[simp] theorem cntFix_dropSlice (c : Chip) (i n : Nat) : (cntFix c i n).dropSlice = c.dropSlice := by unfold cntFix; split <;> rfl
@[simp] theorem cntFix_links (c : Chip) (i n : Nat) : (cntFix c i n).links = c.links := by unfold cntFix; split <;> rfl
@[simp] theorem cntFix_linkHit (c : Chip) (i n : Nat) : (cntFix c i n).linkHit = c.linkHit := by unfold cntFix; split <;> rfl
@[simp] theorem cntFix_started (c : Chip) (i n : Nat) : (cntFix c i n).started = c.started := by unfold cntFix; split <;> rfl
@[simp] theorem cntFix_memory (c : Chip) (i n : Nat) : (cntFix c i n).memory = c.memory := by unfold cntFix; split <;> rfl

/-! ### setLink -/

@[simp] theorem setLink_out (c : Chip) (q : Nat) (l : LinkTx) : (setLink c q l).out = c.out := rfl
@[simp] theorem setLink_heldOut (c : Chip) (q : Nat) (l : LinkTx) : (setLink c q l).heldOut = c.heldOut := rfl
@[simp] theorem setLink_linkUp (c : Chip) (q : Nat) (l : LinkTx) : (setLink c q l).linkUp = c.linkUp := rfl
@[simp] theorem setLink_free (c : Chip) (q : Nat) (l : LinkTx) : (setLink c q l).free = c.free := rfl
@[simp] theorem setLink_clock (c : Chip) (q : Nat) (l : LinkTx) : (setLink c q l).clock = c.clock := rfl
@[simp] theorem setLink_cycles (c : Chip) (q : Nat) (l : LinkTx) : (setLink c q l).cycles = c.cycles := rfl
@[simp] theorem setLink_gait (c : Chip) (q : Nat) (l : LinkTx) : (setLink c q l).gait = c.gait := rfl
@[simp] theorem setLink_phase (c : Chip) (q : Nat) (l : LinkTx) : (setLink c q l).phase = c.phase := rfl
@[simp] theorem setLink_dev (c : Chip) (q : Nat) (l : LinkTx) : (setLink c q l).dev = c.dev := rfl
@[simp] theorem setLink_walk (c : Chip) (q : Nat) (l : LinkTx) : (setLink c q l).walk = c.walk := rfl
@[simp] theorem setLink_walkCleared (c : Chip) (q : Nat) (l : LinkTx) : (setLink c q l).walkCleared = c.walkCleared := rfl
@[simp] theorem setLink_tenants (c : Chip) (q : Nat) (l : LinkTx) : (setLink c q l).tenants = c.tenants := rfl
@[simp] theorem setLink_setNow (c : Chip) (q : Nat) (l : LinkTx) : (setLink c q l).setNow = c.setNow := rfl
@[simp] theorem setLink_arrivals (c : Chip) (q : Nat) (l : LinkTx) : (setLink c q l).arrivals = c.arrivals := rfl
@[simp] theorem setLink_reqCount (c : Chip) (q : Nat) (l : LinkTx) : (setLink c q l).reqCount = c.reqCount := rfl
@[simp] theorem setLink_record (c : Chip) (q : Nat) (l : LinkTx) : (setLink c q l).record = c.record := rfl
@[simp] theorem setLink_contexts (c : Chip) (q : Nat) (l : LinkTx) : (setLink c q l).contexts = c.contexts := rfl
@[simp] theorem setLink_queues (c : Chip) (q : Nat) (l : LinkTx) : (setLink c q l).queues = c.queues := rfl
@[simp] theorem setLink_ghosts (c : Chip) (q : Nat) (l : LinkTx) : (setLink c q l).ghosts = c.ghosts := rfl
@[simp] theorem setLink_mems (c : Chip) (q : Nat) (l : LinkTx) : (setLink c q l).mems = c.mems := rfl
@[simp] theorem setLink_hitches (c : Chip) (q : Nat) (l : LinkTx) : (setLink c q l).hitches = c.hitches := rfl
@[simp] theorem setLink_events (c : Chip) (q : Nat) (l : LinkTx) : (setLink c q l).events = c.events := rfl
@[simp] theorem setLink_tokens (c : Chip) (q : Nat) (l : LinkTx) : (setLink c q l).tokens = c.tokens := rfl
@[simp] theorem setLink_remoteRefused (c : Chip) (q : Nat) (l : LinkTx) : (setLink c q l).remoteRefused = c.remoteRefused := rfl
@[simp] theorem setLink_dropRoute (c : Chip) (q : Nat) (l : LinkTx) : (setLink c q l).dropRoute = c.dropRoute := rfl
@[simp] theorem setLink_dropSlice (c : Chip) (q : Nat) (l : LinkTx) : (setLink c q l).dropSlice = c.dropSlice := rfl
@[simp] theorem setLink_links (c : Chip) (q : Nat) (l : LinkTx) : (setLink c q l).links = tset c.links q l := rfl
@[simp] theorem setLink_linkHit (c : Chip) (q : Nat) (l : LinkTx) : (setLink c q l).linkHit = c.linkHit := rfl
@[simp] theorem setLink_started (c : Chip) (q : Nat) (l : LinkTx) : (setLink c q l).started = c.started := rfl
@[simp] theorem setLink_allocs (c : Chip) (q : Nat) (l : LinkTx) : (setLink c q l).allocs = c.allocs := rfl
@[simp] theorem setLink_memory (c : Chip) (q : Nat) (l : LinkTx) : (setLink c q l).memory = c.memory := rfl
@[simp] theorem setLink_compute (c : Chip) (q : Nat) (l : LinkTx) : (setLink c q l).compute = c.compute := rfl
@[simp] theorem setLink_rotation (c : Chip) (q : Nat) (l : LinkTx) : (setLink c q l).rotation = c.rotation := rfl
@[simp] theorem setLink_logFree (c : Chip) (q : Nat) (l : LinkTx) : (setLink c q l).logFree = c.logFree := rfl
@[simp] theorem setLink_rein (c : Chip) (q : Nat) (l : LinkTx) : (setLink c q l).rein = c.rein := rfl
@[simp] theorem setLink_errq (c : Chip) (q : Nat) (l : LinkTx) : (setLink c q l).errq = c.errq := rfl
@[simp] theorem setLink_ctt (c : Chip) (q : Nat) (l : LinkTx) : (setLink c q l).ctt = c.ctt := rfl
@[simp] theorem setLink_counters (c : Chip) (q : Nat) (l : LinkTx) : (setLink c q l).counters = c.counters := rfl

/-! ### noteSet -/

@[simp] theorem noteSet_out (c : Chip) (fn i : Nat) : (noteSet c fn i).out = c.out := rfl
@[simp] theorem noteSet_heldOut (c : Chip) (fn i : Nat) : (noteSet c fn i).heldOut = c.heldOut := rfl
@[simp] theorem noteSet_linkUp (c : Chip) (fn i : Nat) : (noteSet c fn i).linkUp = c.linkUp := rfl
@[simp] theorem noteSet_free (c : Chip) (fn i : Nat) : (noteSet c fn i).free = c.free := rfl
@[simp] theorem noteSet_clock (c : Chip) (fn i : Nat) : (noteSet c fn i).clock = c.clock := rfl
@[simp] theorem noteSet_cycles (c : Chip) (fn i : Nat) : (noteSet c fn i).cycles = c.cycles := rfl
@[simp] theorem noteSet_gait (c : Chip) (fn i : Nat) : (noteSet c fn i).gait = c.gait := rfl
@[simp] theorem noteSet_phase (c : Chip) (fn i : Nat) : (noteSet c fn i).phase = c.phase := rfl
@[simp] theorem noteSet_dev (c : Chip) (fn i : Nat) : (noteSet c fn i).dev = c.dev := rfl
@[simp] theorem noteSet_walk (c : Chip) (fn i : Nat) : (noteSet c fn i).walk = c.walk := rfl
@[simp] theorem noteSet_walkCleared (c : Chip) (fn i : Nat) : (noteSet c fn i).walkCleared = c.walkCleared := rfl
@[simp] theorem noteSet_tenants (c : Chip) (fn i : Nat) : (noteSet c fn i).tenants = c.tenants := rfl
@[simp] theorem noteSet_setNow (c : Chip) (fn i : Nat) : (noteSet c fn i).setNow = insertNat c.setNow (4 * fn + i) := rfl
@[simp] theorem noteSet_arrivals (c : Chip) (fn i : Nat) : (noteSet c fn i).arrivals = c.arrivals := rfl
@[simp] theorem noteSet_reqCount (c : Chip) (fn i : Nat) : (noteSet c fn i).reqCount = c.reqCount := rfl
@[simp] theorem noteSet_record (c : Chip) (fn i : Nat) : (noteSet c fn i).record = c.record := rfl
@[simp] theorem noteSet_contexts (c : Chip) (fn i : Nat) : (noteSet c fn i).contexts = c.contexts := rfl
@[simp] theorem noteSet_queues (c : Chip) (fn i : Nat) : (noteSet c fn i).queues = c.queues := rfl
@[simp] theorem noteSet_ghosts (c : Chip) (fn i : Nat) : (noteSet c fn i).ghosts = c.ghosts := rfl
@[simp] theorem noteSet_mems (c : Chip) (fn i : Nat) : (noteSet c fn i).mems = c.mems := rfl
@[simp] theorem noteSet_hitches (c : Chip) (fn i : Nat) : (noteSet c fn i).hitches = c.hitches := rfl
@[simp] theorem noteSet_events (c : Chip) (fn i : Nat) : (noteSet c fn i).events = c.events := rfl
@[simp] theorem noteSet_tokens (c : Chip) (fn i : Nat) : (noteSet c fn i).tokens = c.tokens := rfl
@[simp] theorem noteSet_remoteRefused (c : Chip) (fn i : Nat) : (noteSet c fn i).remoteRefused = c.remoteRefused := rfl
@[simp] theorem noteSet_dropRoute (c : Chip) (fn i : Nat) : (noteSet c fn i).dropRoute = c.dropRoute := rfl
@[simp] theorem noteSet_dropSlice (c : Chip) (fn i : Nat) : (noteSet c fn i).dropSlice = c.dropSlice := rfl
@[simp] theorem noteSet_links (c : Chip) (fn i : Nat) : (noteSet c fn i).links = c.links := rfl
@[simp] theorem noteSet_linkHit (c : Chip) (fn i : Nat) : (noteSet c fn i).linkHit = c.linkHit := rfl
@[simp] theorem noteSet_started (c : Chip) (fn i : Nat) : (noteSet c fn i).started = c.started := rfl
@[simp] theorem noteSet_allocs (c : Chip) (fn i : Nat) : (noteSet c fn i).allocs = c.allocs := rfl
@[simp] theorem noteSet_memory (c : Chip) (fn i : Nat) : (noteSet c fn i).memory = c.memory := rfl
@[simp] theorem noteSet_compute (c : Chip) (fn i : Nat) : (noteSet c fn i).compute = c.compute := rfl
@[simp] theorem noteSet_rotation (c : Chip) (fn i : Nat) : (noteSet c fn i).rotation = c.rotation := rfl
@[simp] theorem noteSet_logFree (c : Chip) (fn i : Nat) : (noteSet c fn i).logFree = c.logFree := rfl
@[simp] theorem noteSet_rein (c : Chip) (fn i : Nat) : (noteSet c fn i).rein = c.rein := rfl
@[simp] theorem noteSet_errq (c : Chip) (fn i : Nat) : (noteSet c fn i).errq = c.errq := rfl
@[simp] theorem noteSet_ctt (c : Chip) (fn i : Nat) : (noteSet c fn i).ctt = c.ctt := rfl
@[simp] theorem noteSet_counters (c : Chip) (fn i : Nat) : (noteSet c fn i).counters = c.counters := rfl

end Sys2Proof.Machine
end

