-- ==== Sys2Proof/WellFormed.lean ====
section
/-! DEFINITION. Which commands the spec's operand ranges admit. `exec` is total on every command; one that is not well formed comes
from no agent of 95_what_each_step_holds.md. -/

namespace Sys2Proof

/-- Functions 0 to 31 (03 R98). -/
def fnOk (fn : Nat) : Bool := fn < 32

/-- Queue indices (02 R51). -/
def queueOk (q : Nat) : Bool := q < 16384

/-- Ports 0 to 3 (11 R330). -/
def portOk (p : Nat) : Bool := p < 4

/-- Rein sources (12 R362). -/
def sourceOk (s : Nat) : Bool := s < 2048

/-- Farrier's cores 0 to 7 (12 R368). -/
def coreOk (c : Nat) : Bool := c < 8

/-- A BAR2 access: at least one byte, within the largest BAR2 (03 R101). -/
def bar2Ok (off len : Nat) : Bool := 0 < len && off + len ≤ 2 ^ 38

/-- An access to BAR0 is in 16 MiB (03 R101), of any width: R17 says what the device does with the ones that it does not support. -/
def bar0Ok (off width : Nat) : Bool := 0 < width && off + width ≤ 2 ^ 24

def readOk : ReadTarget → Bool
  | .bar0 off width => bar0Ok off width
  | _ => true

def targetOk : RegTarget → Bool
  | .bar0 off width _ => bar0Ok off width
  | .coreFields src => sourceOk src
  | .coreControl core => coreOk core
  | _ => true

/-- 8 stacks of 32 channels (10 R303). -/
def channelOk (stack channel : Nat) : Bool := stack < 8 && channel < 32

/-- Logical clusters 0 to 319 (08 R255). -/
def clusterOk (c : Nat) : Bool := c < 320

/-- A run names clusters of a launch, of which there are at most 320 (07 R222). -/
def runOk (r : BodyRun) : Bool := r.words.all (fun p => clusterOk p.1)

def stopOk (x : Stop) : Bool := queueOk x.q && runOk x.run

def stopsOk (xs : List Stop) : Bool := xs.all stopOk

def hitOk : Option Stop → Bool
  | none => true
  | some x => stopOk x

/-- A control core of one of the clusters of a launch. -/
def haltOk (h : CoreHalt) : Bool := clusterOk h.cluster

/-- Device addresses are below 192 GiB (10 R303). -/
def errLocOk : ErrLoc → Bool
  | .hbmObject a => a < 192 * 2 ^ 30
  | .hbmRequest a => a < 192 * 2 ^ 30
  | .spareImage a => a < 192 * 2 ^ 30
  | .programImage _ _ => true
  | .descriptorPage t _ => fnOk t
  | .scratch c off => clusterOk c && off < 1572864
  | .staging _ => true
  | .requestEntry fn slot => fnOk fn && slot < (if fn == 0 then 256 else 8)
  | .contextState c => c < 4096
  | .logbook q _ => queueOk q
  | .farrierData c => coreOk c

def ceLocOk : CeLoc → Bool
  | .hbm s c _ => channelOk s c
  | .scratch c _ _ _ => clusterOk c
  | .staging _ _ _ => true
  | .control _ _ _ => true

def scrubOk : ScrubResult → Bool
  | .clean => true
  | .correctable l _ => ceLocOk l
  | .uncorrectable l x => errLocOk l && hitOk x

def ringOk : RingId → Bool
  | .completion q => queueOk q
  | .notice t => fnOk t
  | .error t => fnOk t
  | .trace t => fnOk t
  | .global => true

/-- A routed frame (11 R345). -/
def frameOk (f : Frame) : Bool := fnOk f.tenant && f.dest < 256

/-- A write carries its bytes; transfers are 1 byte or more (11 R350). -/
def remoteOk (r : RemoteReq) : Bool := fnOk r.tenant && 0 < r.length && (!r.isWrite || r.data.length == r.length)

def failedOk (t : BringupTest) : Bool :=
  t.failedClusters.all (fun p => p < 336) && t.failedChannels.all (fun p => channelOk p.1 p.2)

/-- The operands of a command are in the ranges that the spec gives them. -/
def Instr.wf : Instr → Bool
  | .doorbell fn slot _ => fnOk fn && slot < 4096
  | .bar2Read fn off len => fnOk fn && bar2Ok off len
  | .bar2Write fn off data => fnOk fn && bar2Ok off data.length
  | .lowHalfRead fn target => fnOk fn && readOk target
  | .registerWrite fn target _ => fnOk fn && targetOk target
  | .windowSetValid t w _ => fnOk t && w < 64
  | .windowFillDone t w => fnOk t && w < 64
  | .windowClearValid t w x => fnOk t && w < 64 && stopsOk x.stops
  | .requestTailWrite fn _ => fnOk fn
  | .responseHeadWrite fn _ => fnOk fn
  | .undefinedRequest fn => fnOk fn
  | .negotiate fn => fnOk fn
  | .createContext fn => fnOk fn
  | .createQueue fn => fnOk fn
  | .createMemory fn => fnOk fn
  | .createHitch fn => fnOk fn
  | .createEvent fn => fnOk fn
  | .armEvent fn => fnOk fn
  | .loadProgram fn => fnOk fn
  | .setBeat fn => fnOk fn
  | .setNoticeRing fn => fnOk fn
  | .setErrorRing fn => fnOk fn
  | .setQuota fn => fnOk fn
  | .createDescriptors fn => fnOk fn
  | .destroyDescriptors fn => fnOk fn
  | .exportObject fn => fnOk fn
  | .revokeToken fn => fnOk fn
  | .bindSource fn => fnOk fn
  | .setSourceVector fn => fnOk fn
  | .setCounter fn => fnOk fn
  | .readCounters fn => fnOk fn
  | .freezeRequest fn => fnOk fn
  | .setTraceBuffer fn => fnOk fn
  | .audit fn => fnOk fn
  | .resetQueue fn stops => fnOk fn && stopsOk stops
  | .resetContext fn stops => fnOk fn && stopsOk stops
  | .resumeContext fn => fnOk fn
  | .resetCluster fn _ _ run => fnOk fn && runOk run
  | .resetEngine fn _ => fnOk fn
  | .resetTenant fn stops => fnOk fn && stopsOk stops
  | .getWalk fn => fnOk fn
  | .exitWalk fn => fnOk fn
  | .fwStage fn => fnOk fn
  | .fwActivate fn => fnOk fn
  | .fwLoadComplete => true
  | .handoverValidation _ => true
  | .fwStatus fn => fnOk fn
  | .fwSetBoot fn => fnOk fn
  | .setLimits fn => fnOk fn
  | .retireCluster fn => fnOk fn
  | .retireChannel fn => fnOk fn
  | .setBeatDomain fn => fnOk fn
  | .getBeatDomain fn => fnOk fn
  | .setCablingPlan fn => fnOk fn
  | .getPortReport fn => fnOk fn
  | .setRoute fn => fnOk fn
  | .rediscover fn => fnOk fn
  | .packetFetch q => queueOk q
  | .undefinedOpcode q => queueOk q
  | .nop q => queueOk q
  | .tag q => queueOk q
  | .query q => queueOk q
  | .launchProgram q => queueOk q
  | .launchList q => queueOk q
  | .replayList q => queueOk q
  | .waitHitch q => queueOk q
  | .waitSlotObtained q => queueOk q
  | .waitTimeout q => queueOk q
  | .signalHitch q => queueOk q
  | .groom q => queueOk q
  | .outride q => queueOk q
  | .scalarOp q => queueOk q
  | .reduceToScalar q => queueOk q
  | .branch q => queueOk q
  | .loopBegin q => queueOk q
  | .loopEnd q => queueOk q
  | .beatMark q => queueOk q
  | .freeze q => queueOk q
  | .retain q => queueOk q
  | .release q => queueOk q
  | .debugBreakOn q => queueOk q
  | .debugBisect q => queueOk q
  | .launchComplete q _ run => queueOk q && runOk run
  | .groomComplete q _ => queueOk q
  | .outrideComplete q _ _ _ parts => queueOk q && parts.all (fun p => p.rank < 256)
  | .reduceComplete q _ => queueOk q
  | .commandRetire q => queueOk q
  | .commitPoint q => queueOk q
  | .discardedWorkStop stop => stopOk stop
  | .recordHeldWrite q => queueOk q
  | .consReread ring => ringOk ring
  | .noticePost t => fnOk t
  | .commandAged q _ => queueOk q
  | .preemptionPoint stop => stopOk stop
  | .preemptedResume q _ => queueOk q
  | .controlCoreException q _ halts run => queueOk q && 0 < halts.length && halts.all haltOk && runOk run
  | .yieldSpacingExceeded q _ late run => queueOk q && clusterOk late.cluster && runOk run
  | .trapRaised q _ run => queueOk q && runOk run
  | .recoverableFault stop _ _ _ _ => stopOk stop
  | .replayStart q _ => queueOk q
  | .clusterFault c _ run => clusterOk c && runOk run
  | .mapInComplete c failed => clusterOk c && failed.all (fun p => p < 336)
  | .uncorrectableError loc hit => errLocOk loc && hitOk hit
  | .correctableError loc _ => ceLocOk loc
  | .patrolScrub found => scrubOk found
  | .channelMigrationDone s c => channelOk s c
  | .backgroundFill => true
  | .governorCauseClear => true
  | .linkDown lost => stopsOk lost
  | .linkHotReset => true
  | .perstNAssert => true
  | .perstNDeassert => true
  | .bringupEnd t => failedOk t
  | .pwrGoodRise straps => straps < 4
  | .pwrGoodFall => true
  | .vfEnableClear stops => stopsOk stops
  | .vfFlr fn stops => fnOk fn && 0 < fn && stopsOk stops
  | .governorSample tj power => tj < 256 && power < 65536
  | .governorStepUp => true
  | .governorHoldFail => true
  | .thermalShutdown => true
  | .thermAlertN _ => true
  | .regulatorFault => true
  | .watchdogExpiry core hit _ => coreOk core && hitOk hit
  | .beatBoundary d => d < 8
  | .beatOutPulseEnd => true
  | .beatSyncEdge _ => true
  | .freeRun d => d < 8
  | .filterAccept src _ _ => sourceOk src
  | .sourceEvent src => sourceOk src
  | .rnSrcCfgWrite src _ _ => sourceOk src
  | .rnGroupOwnerWrite g _ => g < 64
  | .coreDelivery src => sourceOk src
  | .coreEoi core _ => coreOk core
  | .msiXMessage fn v => fnOk fn && v < (if fn == 0 then 256 else 64)
  | .vectorUnmask fn v => fnOk fn && v < (if fn == 0 then 256 else 64)
  | .rnHostEoi _ => true
  | .asyncEdgeLatch src _ => sourceOk src
  | .halterWake w => (match w.line with | .watch i _ _ => i < 16 | _ => true) && w.levels.all sourceOk
  | .idleEntry => true
  | .dozeEntry => true
  | .haltEntry => true
  | .wakeEvent _ levels => levels.all sourceOk
  | .freezeLatch => true
  | .freezeOutPulseEnd => true
  | .freezeRelease => true
  | .cntGroupWrite g _ => 16 ≤ g && g < 128
  | .freezeBroadcastFrame p _ _ _ => portOk p
  | .helloSend p => portOk p
  | .helloReceive p _ => portOk p
  | .portTrained p => portOk p
  | .portMissing p => portOk p
  | .trainingRetry p => portOk p
  | .signalLoss p => portOk p
  | .discoveryComplete => true
  | .laneFailure p => portOk p
  | .frameCrcError p f => portOk p && f.lane < 17
  | .frameHop p f => portOk p && frameOk f
  | .remoteRequest r => remoteOk r
  | .remoteRetry q _ => queueOk q
  | .remoteNoAnswer stop => stopOk stop
  | .collectiveMatch q x => queueOk q && x.starts.all (fun s => s.rank < 256)
  | .timeFrameSend p => portOk p
  | .timeFrameReceive p _ _ hops _ => portOk p && hops < 256
  | .roundTrip p _ _ _ _ => portOk p
  | .smbusDevState => true
  | .smbusTjC => true
  | .smbusPowerW => true
  | .smbusResetCause => true
  | .smbusBoard => true
  | .smbusOtherCommand code => code < 256
  | .linkUp speed width _ => 1 ≤ speed && speed ≤ 6 && [1, 2, 4, 8, 16].contains width
  | .vfEnableSet n => n < 32
  | .bar2SizeWrite fn _ => fnOk fn
  | .channelStopsAnswering s c => channelOk s c
  | .vddAonRise => true
  | .vddAonFall => true

end Sys2Proof
end

