-- ==== Sys2Proof/Safety.lean ====
section
/-! DEFINITION. What counts as a safe run, the invariants that claims are stated with, and the conditions under which a row takes
effect, written with the model's own accessors. -/

namespace Sys2Proof.Machine

/-! ### Runs -/

/-- `n` steps from s neither fault nor are refused. -/
def safeFor : Nat → State → Prop
  | 0, _ => True
  | n + 1, s => match step s with | .next t => safeFor n t | _ => False

/-! ### Invariants -/

/-- Beat domains: a period of 1 ms to 1 s (06 R210), and no two domains with EXTERNAL, nor two with BEAT_OUT (06 R204, R209). -/
def BeatsLegal (s : State) : Prop :=
  (∀ p ∈ s.beats, 1000000 ≤ p.2.period ∧ p.2.period ≤ 1000000000)
    ∧ (∀ p ∈ s.beats, ∀ r ∈ s.beats, p.2.ext = true → r.2.ext = true → p.1 = r.1)
    ∧ (∀ p ∈ s.beats, ∀ r ∈ s.beats, p.2.out = true → r.2.out = true → p.1 = r.1)

/-- The Governor: no limit in force beyond its fused value (14 R424), and a clock from 600 MHz to the cap in force (14 R425). -/
def GovLegal (s : State) : Prop :=
  600 ≤ s.fuses.fmax ∧ 600 ≤ s.gov.fcap ∧ s.gov.fcap ≤ s.fuses.fmax ∧ s.gov.tthrot ≤ s.fuses.tthrot ∧ s.gov.tshut ≤ s.fuses.tshut
    ∧ s.gov.plimit ≤ s.fuses.pmax ∧ 600 ≤ s.gov.clMhz ∧ s.gov.clMhz ≤ s.gov.fcap

/-- Everything but the chip part is the same. -/
def sameOutside (s t : State) : Prop :=
  t.pending = s.pending ∧ t.halter = s.halter ∧ t.fuses = s.fuses ∧ t.flash = s.flash ∧ t.farrier = s.farrier ∧ t.link = s.link
    ∧ t.gov = s.gov ∧ t.beats = s.beats ∧ t.fabric = s.fabric

/-- Everything but the chip part and Halter is the same. -/
def sameBeyondHalter (s t : State) : Prop :=
  t.pending = s.pending ∧ t.fuses = s.fuses ∧ t.flash = s.flash ∧ t.farrier = s.farrier ∧ t.link = s.link ∧ t.gov = s.gov
    ∧ t.beats = s.beats ∧ t.fabric = s.fabric

/-! ### Rows by what they touch -/

/-- Rows of Bridle's sequencer: each starts a packet of queue q (05 R162 to R186). -/
def isPacketRow : Instr → Bool
  | .packetFetch _ => true
  | .undefinedOpcode _ => true
  | .nop _ => true
  | .tag _ => true
  | .query _ => true
  | .launchProgram _ => true
  | .launchList _ => true
  | .replayList _ => true
  | .waitHitch _ => true
  | .waitSlotObtained _ => true
  | .waitTimeout _ => true
  | .signalHitch _ => true
  | .groom _ => true
  | .outride _ => true
  | .scalarOp _ => true
  | .reduceToScalar _ => true
  | .branch _ => true
  | .loopBegin _ => true
  | .loopEnd _ => true
  | .beatMark _ => true
  | .freeze _ => true
  | .retain _ => true
  | .release _ => true
  | .debugBreakOn _ => true
  | .debugBisect _ => true
  | _ => false

/-- Rows of engines, retirement, faults and memory errors. -/
def isEngineRow : Instr → Bool
  | .launchComplete _ _ _ => true
  | .groomComplete _ _ => true
  | .outrideComplete _ _ _ _ _ => true
  | .reduceComplete _ _ => true
  | .commandRetire _ => true
  | .commitPoint _ => true
  | .discardedWorkStop _ => true
  | .recordHeldWrite _ => true
  | .consReread _ => true
  | .noticePost _ => true
  | .commandAged _ _ => true
  | .preemptionPoint _ => true
  | .preemptedResume _ _ => true
  | .controlCoreException _ _ _ _ => true
  | .yieldSpacingExceeded _ _ _ _ => true
  | .trapRaised _ _ _ => true
  | .recoverableFault _ _ _ _ _ => true
  | .replayStart _ _ => true
  | .clusterFault _ _ _ => true
  | .mapInComplete _ _ => true
  | .uncorrectableError _ _ => true
  | .correctableError _ _ => true
  | .patrolScrub _ => true
  | .channelMigrationDone _ _ => true
  | .channelStopsAnswering _ _ => true
  | .backgroundFill => true
  | .remoteRetry _ _ => true
  | .remoteNoAnswer _ => true
  | .collectiveMatch _ _ => true
  | _ => false

/-- Requests that change the chip part alone (04 R143). -/
def isChipRequest : Instr → Bool
  | .undefinedRequest _ => true
  | .createContext _ => true
  | .createQueue _ => true
  | .createMemory _ => true
  | .createHitch _ => true
  | .createEvent _ => true
  | .armEvent _ => true
  | .loadProgram _ => true
  | .setBeat _ => true
  | .setNoticeRing _ => true
  | .setErrorRing _ => true
  | .setQuota _ => true
  | .createDescriptors _ => true
  | .destroyDescriptors _ => true
  | .exportObject _ => true
  | .revokeToken _ => true
  | .bindSource _ => true
  | .setSourceVector _ => true
  | .setCounter _ => true
  | .readCounters _ => true
  | .freezeRequest _ => true
  | .setTraceBuffer _ => true
  | .audit _ => true
  | .resetQueue _ _ => true
  | .resetContext _ _ => true
  | .resumeContext _ => true
  | .resetCluster _ _ _ _ => true
  | .resetEngine _ _ => true
  | .resetTenant _ _ => true
  | .getWalk _ => true
  | .exitWalk _ => true
  | .fwStatus _ => true
  | .retireCluster _ => true
  | .retireChannel _ => true
  | .getPortReport _ => true
  | _ => false

/-- Host accesses: besides the chip part they may wake the device (17 R486 to R489). -/
def isHostAccess : Instr → Bool
  | .doorbell _ _ _ => true
  | .bar2Read _ _ _ => true
  | .bar2Write _ _ _ => true
  | .lowHalfRead _ _ => true
  | .windowSetValid _ _ _ => true
  | .windowClearValid _ _ _ => true
  | .requestTailWrite _ _ => true
  | .responseHeadWrite _ _ => true
  | .rnSrcCfgWrite _ _ _ => true
  | .rnGroupOwnerWrite _ _ => true
  | .vectorUnmask _ _ => true
  | .rnHostEoi _ => true
  | .freezeRelease => true
  | .cntGroupWrite _ _ => true
  | _ => false

/-! ### When a row takes effect -/

/-- A host access to function fn reaches it while the device is ACTIVE (03 R99, R101, 17 R486). -/
def hostReaches (s : State) (fn : Nat) : Bool := reachable s fn && !tornDown s fn && s.halter.power == .active

/-- The state after a host access that wakes nothing: it ends a spell without work only. -/
def afterAccess (s : State) (f : Chip → Env → Chip) : State :=
  onChip { s with halter := { s.halter with idleSince := none } } f

/-- Farrier takes the request `r` of function fn next, and neither the device state, nor poison, nor its form answers it, nor does a
reference that does not fit hold it: it is served (02 R82, 04 R139, R142 to R144, 10 R324, 17 R486). -/
def served (s : State) (fn op r : Nat) : Bool :=
  s.chip.dev != .off && s.halter.power == .active && !busyFarrier s.farrier && nextFn s.chip == some fn && entryOf s.chip fn == r
    && rqOp r == op && (stateAnswer s.chip fn op).isNone && !(tenantOf s.chip fn).chan.poisoned.contains (reqSlot s.chip fn)
    && (formAnswer s.chip fn r).isNone && (requestHolds s.chip fn r).all (refRoom s.chip)

/-- The state once the request's head has advanced and the objects that it holds in execution have their references (02 R81). -/
def taken (s : State) (fn : Nat) : State :=
  { s with chip := (requestHolds s.chip fn (entryOf s.chip fn)).foldl takeRef (takeRequest s.chip fn) }

/-- The state that a request served in s leaves: `u`, which its operation gave, then its response, and the references drop (04 R139, R141). -/
def ended (s u : State) (fn r : Nat) (p : Reply) : State :=
  onChip (finish u fn r p) (fun c _ => dropRefs c (requestHolds s.chip fn r))

/-- The same for an operation that changes the chip part alone. -/
def answered (s : State) (fn r : Nat) (c : Chip) (p : Reply) : State := ended s { s with chip := c } fn r p

/-- No bisect of its list ends with the command (05 R185). -/
def letRun (x : Queue) (k : Cmd) : Prop := ∀ l n, k.list.bind (listOf x) = some l → l.bisect = some n → 2 ≤ n

/-- The command at the start position of q is k of queue x, its opcode passes, every start condition of 06 R190 that its row
decides holds, and no bisect stops its context here. -/
def startsAs (s : State) (q : Nat) (ok : Nat → Bool) (x : Queue) (k : Cmd) : Prop := startOf s.chip (envOf s) q ok = .go x k ∧ letRun x k

/-- The channel of port q has a credit and room in the replay buffer for one more frame, and none waits before it (11 R333). -/
def roomFor (f : Fabric) (c : Chip) (q chan : Nat) : Prop :=
  frameFits (portOf f q) (linkTxOf c q) chan = true ∧ (linkTxOf c q).queue = []

/-- One frame leaves on port q, kept in its replay buffer under the next sequence number (11 R333); memory, the queues and the other
ports' sending sides are unchanged. -/
def sends (c d : Chip) (q chan : Nat) (o : Output) : Prop :=
  d.out = c.out ++ [o]
    ∧ (∃ g : TxFrame, linkTxOf d q = { linkTxOf c q with sent := (linkTxOf c q).sent ++ [g], next := (linkTxOf c q).next + 1 }
        ∧ g.chan = chan ∧ g.body = o ∧ g.seqNo = (linkTxOf c q).next)
    ∧ (∀ p, p ≠ q → linkTxOf d p = linkTxOf c p) ∧ d.memory = c.memory ∧ d.queues = c.queues

/-- A reply of this chip to chip `num` about tenant t's request leaves on port p (11 R345, R350). -/
def replies (s : State) (d : Chip) (p num t : Nat) (r : RemoteReply) : Prop :=
  sends s.chip d p 1 (.reply p num (BitVec.ofNat 16 (placeNow s).slice) t r)

/-- The command `seq` of queue q satisfies p. -/
def cmdSat (c : Chip) (q seq : Nat) (p : Cmd → Prop) : Prop := ∃ k, cmdOf c q seq = some k ∧ p k

/-- COMPLETED with a status (05 R155); a command that was replayed says OK_REPLAYED in place of OK (05 R159). -/
def completedWith (st : Nat) (k : Cmd) : Prop :=
  k.phase = .completed ∧ k.status = if st = stOk ∧ k.replays ≠ 0 then stReplayed else st

/-- The objects, memory and registers that a command without engine work leaves alone at its start. -/
def sameObjects (c d : Chip) : Prop :=
  d.contexts = c.contexts ∧ d.mems = c.mems ∧ d.hitches = c.hitches ∧ d.events = c.events ∧ d.memory = c.memory ∧ d.tenants = c.tenants
    ∧ d.compute = c.compute ∧ d.rein = c.rein ∧ d.errq = c.errq ∧ d.out = c.out

/-- The next state is c, in which what waited for engines then takes them (06 R192). -/
def arbitrated (s : State) (c : Chip) : State := { s with chip := arbitrate c (envOf s) }

/-- Every object has room for two more references (02 R82): a packet takes one, a REPLAY_LIST two. -/
def refsFit (c : Chip) : Bool :=
  let ok := fun (r : Refs) => r.dev < 0xFFFFFFFE
  c.contexts.all (fun p => ok p.2.refs) && c.queues.all (fun p => ok p.2.refs) && c.mems.all (fun p => ok p.2.refs)
    && c.hitches.all (fun p => ok p.2.refs) && c.events.all (fun p => ok p.2.refs)

/-- The host still holds the queue, the command's sequence number has been given out, and the command stands before every open window
of the queue, or in one: a failure of the command then takes no record of it away. The last two hold of every command (06 R213, R221). -/
def staysKnown (x : Queue) (k : Cmd) : Prop :=
  x.refs.host ≠ 0 ∧ k.seq < x.nextSeq ∧ (k.spec = none → ∀ g ∈ x.segs, k.seq < g.branch)

/-- The command (q, seq) is k, its attempt on its engines, in a queue x where it stays known. -/
def attemptAt (c : Chip) (q seq : Nat) (x : Queue) (k : Cmd) : Prop :=
  tget c.queues q = some x ∧ attemptOf c q seq = some k ∧ staysKnown x k

/-- The command's job is a launch. -/
def isLaunchJob (k : Cmd) : Prop :=
  ∃ prog teams carried scratch args si so seed mask safe, k.job = .launch prog teams carried scratch args si so seed mask safe

/-- The command's job is a GROOM, a REDUCE_TO_SCALAR or an OUTRIDE. -/
def isMoveJob (k : Cmd) : Prop :=
  (∃ src dst idx, k.job = .groom src dst idx) ∨ (∃ sm sh dm dh, k.job = .outride sm sh dm dh) ∨ ∃ src, k.job = .reduce src

/-- No index, window or poison stops the GROOM, which has its whole work before it (09 R295 to R301). -/
def groomClean (c : Chip) (x : Queue) (k : Cmd) (src dst : DescRef) (idx : Option DescRef) : Prop :=
  k.progress = 0 ∧ windowHit c x.owner 2 ((ofIdx idx).flatMap descAccess) = none
    ∧ (ofIdx idx).findSome? (fun r => poisonAmong c 6 r ((List.range (elemExtent r.img).2).map (fun i => (elemExtent r.img).1 + i))) = none
    ∧ groomIndexFault c (groomArgs k.bits) src dst idx = false ∧ windowHit c x.owner 2 ([src, dst].flatMap descAccess) = none
    ∧ poisonAmong c 6 src (sourceBytes src (groomMoves c (groomArgs k.bits) src dst idx)) = none

/-- No object, token or memory content, and no agreement: what whole-device reset leaves (13 R404). -/
def blank (c : Chip) : Prop :=
  c.contexts = [] ∧ c.queues = [] ∧ c.mems = [] ∧ c.hitches = [] ∧ c.events = [] ∧ c.tokens = [] ∧ c.memory.hbm = []
    ∧ c.memory.scratch = [] ∧ ∀ fn, (tenantOf c fn).agreed = none

/-- Nothing is fetched or committed in queue q, no discarded work of it runs, and no window is open in its context. -/
def restingQueue (c : Chip) (q : Nat) (x : Queue) : Prop :=
  tget c.queues q = some x ∧ x.cmds = [] ∧ x.lists = [] ∧ x.owed = [] ∧ x.tail = x.head ∧ (∀ g ∈ c.ghosts, g.q ≠ q)
    ∧ (∀ p ∈ c.queues, p.2.ctx = x.ctx → p.2.segs = [] ∧ p.2.cmds = [])
    ∧ ∀ y, tget c.contexts x.ctx = some y → y.stopping = none

/-- No team, Groom or Outrider engine is held by the command (q, seq). -/
def freed (c : Chip) (q seq : Nat) : Prop :=
  ∀ t, tget c.compute.holders t ≠ some (q, seq) ∧ tget c.compute.groom t ≠ some (q, seq) ∧ tget c.compute.outrider t ≠ some (q, seq)

end Sys2Proof.Machine
end

