-- ==== Sys2Proof/Certificates/Slice0/Obligations.lean ====
section
/-! DEFINITION. The statements for the provers. Names of operations are the model's; each docstring names the rules of spec/ it rests
on. -/

open Sys2Proof Sys2Proof.Machine

/-! ### The block -/

/-- 95_what_each_step_holds.md: a step takes the command at the front of the queue and is exec of it on the state with the rest. -/
def Obligations.StepRunsFrontCommand : Prop :=
  ∀ (c : Instr) (rest : List Instr) (s : State), s.pending = c :: rest → step s = exec c { s with pending := rest }

/-- On an empty queue a step is one 4 ns cycle of the timebase: the model's choice (log 1). The gait counter advances by 4 ns, or by
3 or 5 in a slewing cycle (11 R358, 15 R462), from step 2 of bring-up on. Memory stays, and the ports where none of them retrains. -/
def Obligations.EmptyQueuePassesOneCycle : Prop :=
  ∀ s : State, s.pending = [] → ∃ t, step s = .next t ∧ t.pending = [] ∧ t.chip.clock = s.chip.clock + 4
    ∧ t.chip.gait = (if gaitRuns s then s.chip.gait + gaitStep s.chip s.fabric else s.chip.gait) ∧ t.chip.dev = s.chip.dev
    ∧ t.gov = s.gov ∧ t.beats = s.beats ∧ t.fuses = s.fuses ∧ t.flash = s.flash
    ∧ ((∀ q, q < 4 → (portOf s.fabric q).retraining = none) → t.chip.memory = s.chip.memory ∧ t.fabric.ports = s.fabric.ports)

/-- No row is refused, and the one fault is that of 17 R481: VDD_AON falls while PWR_GOOD is high. -/
def Obligations.OnlyRailFailureStops : Prop :=
  ∀ (i : Instr) (s : State), (∀ r, exec i s ≠ .refused r)
    ∧ ∀ f, exec i s = .fault f → i = .vddAonFall ∧ s.halter.vddAon = true ∧ s.halter.pwrGood = true ∧ f = .railsOutOfRange

/-- No row touches the queue of waiting commands. Packets, engine events, faults and the requests on objects change the chip part alone:
pins, fuses, flash, Farrier, link, Governor, beat domains and fabric stay. A host access changes the chip part and, by its wake,
Halter: nothing else. -/
def Obligations.RowsKeepTheirFrame : Prop :=
  (∀ (i : Instr) (s t : State), exec i s = .next t → t.pending = s.pending)
  ∧ (∀ (i : Instr) (s t : State), (isPacketRow i || isEngineRow i || isChipRequest i) = true → exec i s = .next t → sameOutside s t)
  ∧ (∀ (i : Instr) (s t : State), isHostAccess i = true → exec i s = .next t → sameBeyondHalter s t)

/-! ### Invariants that every step keeps -/

/-- 14 R424, R425: no step brings a limit beyond its fused value, nor the clock outside 600 MHz to the cap. -/
def Obligations.GovernorStaysLegal : Prop :=
 ∀ s t : State, GovLegal s → step s = .next t → GovLegal t

/-- 06 R204, R209, R210: no step leaves a domain with a period outside 1 ms to 1 s, nor two EXTERNAL or two BEAT_OUT domains. -/
def Obligations.BeatDomainsStayLegal : Prop :=
 ∀ s t : State, BeatsLegal s → step s = .next t → BeatsLegal t

/-- Fuses and the board record are written by no step (14 R424, 17 R493). -/
def Obligations.FusesAndBoardNeverChange : Prop :=
  ∀ s t : State, step s = .next t → t.fuses = s.fuses ∧ t.flash.board = s.flash.board

/-- Both invariants hold after reset, with the memories in their canonical form. -/
def Obligations.ResetIsLegal : Prop :=
  GovLegal State.reset ∧ BeatsLegal State.reset ∧ memWf State.reset.chip.memory.hbm = true ∧ memWf State.reset.chip.memory.scratch = true
    ∧ State.reset.pending = []

/-! ### Host accesses -/

/-- 04 R122: a doorbell write with room advances the queue's committed tail to the value, and nothing else of the queue. -/
def Obligations.DoorbellAdvancesTail : Prop :=
  ∀ (s : State) (fn slot q : Nat) (x : Queue) (v : W32), hostReaches s fn = true → isUp s.chip = true → slot < 4096 →
    slotQueue s.chip fn slot = some (q, x) → tget s.chip.queues q = some x → cqRoom x = true → x.err = none → x.refs.host ≠ 0 →
    negotiated s.chip fn = true → v ≠ x.tail → (x.tail - x.head).toNat + (v - x.tail).toNat ≤ pow2 x.sqLog2 →
    ∃ t, exec (.doorbell fn slot v) s = .next t ∧ tget t.chip.queues q = some { x with tail := v } ∧ t.chip.memory = s.chip.memory
      ∧ t.chip.mems = s.chip.mems ∧ t.chip.tenants = s.chip.tenants ∧ t.chip.out = s.chip.out

/-- 03 R115: a BAR2 read inside a window's range gives the bytes from the address BASE + (A − BAR2_OFF), where no line is poisoned; a
refused read gives zeros and counts one miss. -/
def Obligations.Bar2ReadGivesWindowBytes : Prop :=
  ∀ (s : State) (fn off n : Nat), hostReaches s fn = true → inBar2 s.chip fn off n = true →
    (∀ a, bar2Addr s.chip fn off n false = some a → readPoison s.chip a n = none →
      ∃ t, exec (.bar2Read fn off n) s = .next t ∧ t.chip.out = s.chip.out ++ [.bar2Data fn (loadDev s.chip a n) false]
        ∧ t.chip.memory = s.chip.memory)
    ∧ (bar2Addr s.chip fn off n false = none →
      ∃ t, exec (.bar2Read fn off n) s = .next t ∧ t.chip.out = s.chip.out ++ [.bar2Data fn (List.replicate n 0) false]
        ∧ (tenantOf t.chip fn).bar2Miss.toNat = min ((tenantOf s.chip fn).bar2Miss.toNat + 1) 0xFFFFFFFF
        ∧ t.chip.memory = s.chip.memory)

/-- 03 R115: a BAR2 write inside a writable window stores its bytes from BASE + (A − BAR2_OFF) on, and every other byte of device
memory stays; HBM keeps its canonical form. The range holds no lazily filled object. A refused write stores nothing and counts one
miss. -/
def Obligations.Bar2WriteStoresBytes : Prop :=
  (∀ (s : State) (fn off a : Nat) (data : List Byte), hostReaches s fn = true → inBar2 s.chip fn off data.length = true →
    bar2Addr s.chip fn off data.length true = some a →
    s.chip.mems.all (fun p => !(p.2.lazy && overlap a data.length p.2.addr p.2.span)) = true →
    ∃ t, exec (.bar2Write fn off data) s = .next t
      ∧ (∀ i, i < data.length → readByte t.chip.memory.hbm (a + i) = data.getD i 0)
      ∧ (∀ x, (x < a ∨ a + data.length ≤ x) → readByte t.chip.memory.hbm x = readByte s.chip.memory.hbm x)
      ∧ (memWf s.chip.memory.hbm = true → memWf t.chip.memory.hbm = true))
  ∧ (∀ (s : State) (fn off : Nat) (data : List Byte), hostReaches s fn = true → inBar2 s.chip fn off data.length = true →
    bar2Addr s.chip fn off data.length true = none →
    ∃ t, exec (.bar2Write fn off data) s = .next t ∧ t.chip.memory = s.chip.memory ∧ t.chip.mems = s.chip.mems
      ∧ (tenantOf t.chip fn).bar2Miss.toNat = min ((tenantOf s.chip fn).bar2Miss.toNat + 1) 0xFFFFFFFF)

/-- 10 R315: the first write to a pending granule of a lazy object, here by the background filler, makes all its bytes 0; the other
bytes of device memory stay, and the granule is no longer pending. -/
def Obligations.BackgroundFillZeroesOneGranule : Prop :=
  ∀ (s : State) (m g : Nat) (o : MemObj), (s.halter.power = .active ∨ s.halter.power = .idle) →
    s.chip.mems = [(m, o)] → o.lazy = true → o.filled.length < o.span / 65536 →
    (List.range (o.span / 65536)).find? (fun i => !o.filled.contains i) = some g →
    ∃ t, exec .backgroundFill s = .next t
      ∧ (∀ x, readByte t.chip.memory.hbm x
          = if o.addr + g * 65536 ≤ x ∧ x < o.addr + g * 65536 + 65536 then 0 else readByte s.chip.memory.hbm x)
      ∧ t.chip.mems = [(m, { o with filled := insertNat o.filled g })]

/-- 00 R18: a 32-bit read of the low half of a 64-bit register gives its low half and latches its high half, beside what other registers
have latched; a read of the high half then gives what was latched, and without a latch the live high half. A 64-bit read gives the
register. 00 R17: an access of another width or alignment reads 0. -/
def Obligations.LowHalfReadLatchesHighHalf : Prop :=
  (∀ (s : State) (fn off v : Nat), hostReaches s fn = true → off < barSize fn → off % 8 = 0 →
    reg64 { s with halter := { s.halter with idleSince := none } } fn off = some v →
    (∃ t, exec (.lowHalfRead fn (.bar0 off 4)) s = .next t
      ∧ t.chip.out = s.chip.out ++ [.barData fn off (BitVec.ofNat 64 (v % pow2 32))]
      ∧ tget (tenantOf t.chip fn).latch (off + 4) = some (BitVec.ofNat 32 (v / pow2 32))
      ∧ ∀ o, o ≠ off + 4 → tget (tenantOf t.chip fn).latch o = tget (tenantOf s.chip fn).latch o)
    ∧ (∃ t, exec (.lowHalfRead fn (.bar0 off 8)) s = .next t ∧ t.chip.out = s.chip.out ++ [.barData fn off (BitVec.ofNat 64 v)]
        ∧ t.chip.tenants = s.chip.tenants)
    ∧ (tget (tenantOf s.chip fn).latch (off + 4) = none → off + 4 < barSize fn →
        ∃ w, exec (.lowHalfRead fn (.bar0 (off + 4) 4)) s = .next w
          ∧ w.chip.out = s.chip.out ++ [.barData fn (off + 4) (BitVec.ofNat 64 (v / pow2 32))])
    ∧ ∀ h, tget (tenantOf s.chip fn).latch (off + 4) = some h → off + 4 < barSize fn →
        ∃ w, exec (.lowHalfRead fn (.bar0 (off + 4) 4)) s = .next w
          ∧ w.chip.out = s.chip.out ++ [.barData fn (off + 4) (BitVec.ofNat 64 h.toNat)] ∧ tget (tenantOf w.chip fn).latch (off + 4) = none)
  ∧ ∀ (s : State) (fn off width : Nat), hostReaches s fn = true → off < barSize fn →
    ((width ≠ 4 ∧ width ≠ 8) ∨ off % width ≠ 0) →
    ∃ t, exec (.lowHalfRead fn (.bar0 off width)) s = .next t ∧ t.chip.out = s.chip.out ++ [.barData fn off 0]
      ∧ t.chip.tenants = s.chip.tenants

/-- 17 R492: a 32-bit write of HALT_CFG takes HALT_EN and DOZE_EN from its bits, and the delays from its fields unless they are 0.
00 R15: a write of 1 clears WIN_CHANGED, unless hardware sets it in that cycle. 00 R17: a write of another width or alignment is ignored.
03 R91: a configuration write of Memory Space Enable takes the bit. -/
def Obligations.RegisterWriteTakesFields : Prop :=
  (∀ (s : State) (v : W64) (lv : Bool), hostReaches s 0 = true → ∃ t, exec (.registerWrite 0 (.bar0 0x708000 4 lv) v) s = .next t
      ∧ t.halter.haltEn = bit (v.toNat % pow2 32) 31 ∧ t.halter.dozeEn = bit (v.toNat % pow2 32) 30
      ∧ t.halter.haltDelayS = (if bits (v.toNat % pow2 32) 23 16 = 0 then s.halter.haltDelayS else bits (v.toNat % pow2 32) 23 16)
      ∧ t.halter.dozeDelayMs = (if bits (v.toNat % pow2 32) 15 0 = 0 then s.halter.dozeDelayMs else bits (v.toNat % pow2 32) 15 0)
      ∧ t.chip = s.chip)
    ∧ (∀ (s : State) (fn : Nat) (v : W64), s.chip.dev ≠ .off → s.chip.linkUp = true → fn < 32 → (tenantOf s.chip fn).present = true →
        ∃ t, exec (.registerWrite fn (.config .memorySpaceEnable) v) s = .next t ∧ (tenantOf t.chip fn).memSpace = bit v.toNat 0)
    ∧ (∀ (s : State) (fn : Nat) (v : W64) (lv : Bool), hostReaches s fn = true → bit v.toNat 9 = true →
        ∃ t, exec (.registerWrite fn (.bar0 8 4 lv) v) s = .next t
          ∧ (tenantOf t.chip fn).winChanged = ((tenantOf s.chip fn).winChanged && s.chip.setNow.contains (4 * fn)))
    ∧ ∀ (s : State) (fn off width : Nat) (v : W64) (lv : Bool), hostReaches s fn = true → off < barSize fn →
        ((width ≠ 4 ∧ width ≠ 8) ∨ off % width ≠ 0) →
        exec (.registerWrite fn (.bar0 off width lv) v) s = .next (afterAccess s (fun c _ => c))

/-- 03 R111 to R113: setting VALID of a DEVICE window that passes every check makes it pending and stores the fields of the control word; a
HOST window takes force at once and WIN_CHANGED is set; a window that fails a check takes its ERR and no force. At the end of its fill
a pending window takes force and WIN_CHANGED is set; HBM keeps its canonical form. A write with VALID 0 takes a window out of force at
once; running work of the tenant keeps what it wrote before (10 R329), which the row's `stops` tell. -/
def Obligations.WindowsTakeForce : Prop :=
  (∀ (s : State) (t i : Nat) (v : W64) (w : Window), hostReaches s 0 = true → t < 32 → i < 64 → inForce (windowOf s.chip t i) = false →
    w = withControl (windowOf s.chip t i) v.toNat →
    (windowErr s.chip t i w = 0 → w.host = false →
      ∃ u, exec (.windowSetValid t i v) s = .next u ∧ windowOf u.chip t i = { w with err := 0, pending := true }
        ∧ u.chip.memory = s.chip.memory)
    ∧ (windowErr s.chip t i w = 0 → w.host = true →
      ∃ u, exec (.windowSetValid t i v) s = .next u ∧ windowOf u.chip t i = { w with err := 0, valid := true }
        ∧ (tenantOf u.chip t).winChanged = true ∧ u.chip.memory = s.chip.memory)
    ∧ (windowErr s.chip t i w ≠ 0 →
      ∃ u, exec (.windowSetValid t i v) s = .next u ∧ windowOf u.chip t i = { w with err := windowErr s.chip t i w }))
  ∧ (∀ (s : State) (t i : Nat), (windowOf s.chip t i).pending = true →
    ∃ u, exec (.windowFillDone t i) s = .next u
      ∧ windowOf u.chip t i = { windowOf s.chip t i with valid := true, pending := false } ∧ (tenantOf u.chip t).winChanged = true
      ∧ (memWf s.chip.memory.hbm = true → memWf u.chip.memory.hbm = true) ∧ u.chip.mems = s.chip.mems)
  ∧ (∀ (s : State) (t i : Nat) (v : W64) (stops : List Stop) (w : Window), hostReaches s 0 = true → t < 32 → i < 64 →
    windowOf (noteWork s.chip (envOf s) t stops) t i = w → w.valid = true → w.pending = false →
    ∃ u, exec (.windowClearValid t i { control := v, stops := stops }) s = .next u ∧ windowOf u.chip t i = { w with valid := false }
      ∧ (tenantOf u.chip t).winChanged = true ∧ u.chip.memory = (noteWork s.chip (envOf s) t stops).memory
      ∧ (stops = [] → w = windowOf s.chip t i ∧ u.chip.memory = s.chip.memory))

/-- 04 R138: a tail write within the capacity commits its requests in their landing order (R139); one beyond it sets REQ_OVERRUN only. A
response-head write within the posted responses is stored; another one sets RSP_HEAD_BAD only. -/
def Obligations.ChannelPointerWrites : Prop :=
  (∀ (s : State) (fn : Nat) (v : W32), hostReaches s fn = true → (s.chip.dev = .hold → fn = 0) →
    ((v - (tenantOf s.chip fn).chan.reqHead).toNat ≤ chanCap fn →
      ∃ t, exec (.requestTailWrite fn v) s = .next t ∧ (tenantOf t.chip fn).chan = { (tenantOf s.chip fn).chan with reqTail := v }
        ∧ ((tenantOf s.chip fn).chan.reqTail = (tenantOf s.chip fn).chan.reqHead →
            t.chip.arrivals = s.chip.arrivals ++ List.replicate (v - (tenantOf s.chip fn).chan.reqHead).toNat fn))
    ∧ (chanCap fn < (v - (tenantOf s.chip fn).chan.reqHead).toNat →
      ∃ t, exec (.requestTailWrite fn v) s = .next t
        ∧ (tenantOf t.chip fn).chan = { (tenantOf s.chip fn).chan with reqOverrun := true } ∧ t.chip.arrivals = s.chip.arrivals))
  ∧ ∀ (s : State) (fn : Nat) (v : W32), hostReaches s fn = true →
    ∃ t, exec (.responseHeadWrite fn v) s = .next t
      ∧ (tenantOf t.chip fn).chan
        = (if (v - (tenantOf s.chip fn).chan.rspHead).toNat ≤ ((tenantOf s.chip fn).chan.rspTail - (tenantOf s.chip fn).chan.rspHead).toNat
          then { (tenantOf s.chip fn).chan with rspHead := v } else { (tenantOf s.chip fn).chan with rspHeadBad := true })

/-- 12 R381, R365: a host write of RN_SRC_CFG of an event source of tenant 0 stores HOST_VECTOR and HOST_EN and keeps SENSE, FILTER and
the core fields; of a source of another owner it changes nothing. 12 R361: a write of RN_GROUP_OWNER[g] that changes the group, which is
not BUSY, stores ASSIGNED and TENANT, and leaves no source of the group pending or active; a write to a BUSY group is ignored. -/
def Obligations.RnHostWrites : Prop :=
  (∀ (s : State) (src : Nat) (v : W64) (lv : Bool), hostReaches s 0 = true → src < 2048 →
    (srcOwner s.chip src = some 0 → isPin src = false →
      ∃ t, exec (.rnSrcCfgWrite src v lv) s = .next t
        ∧ srcCfg t.chip src = { srcCfg s.chip src with hostVector := bits v.toNat 39 32, hostEn := bit v.toNat 31 }
        ∧ t.chip.rein.pendingHost = s.chip.rein.pendingHost ∧ t.chip.rein.pendingCore = s.chip.rein.pendingCore)
    ∧ (srcOwner s.chip src ≠ some 0 → exec (.rnSrcCfgWrite src v lv) s = .next (afterAccess s (fun c _ => c))))
  ∧ (∀ (s : State) (g : Nat) (v : W32), hostReaches s 0 = true → 2 ≤ g → g < 64 →
    (groupBusy s.chip g = false → (tget s.chip.rein.groups g).getD 0 ≠ v.toNat % 64 →
      ∃ t, exec (.rnGroupOwnerWrite g v) s = .next t ∧ tget t.chip.rein.groups g = some (v.toNat % 64)
        ∧ (∀ i, i < 32 → t.chip.rein.pendingHost.contains (32 * g + i) = false ∧ t.chip.rein.pendingCore.contains (32 * g + i) = false
            ∧ t.chip.rein.activeHost.contains (32 * g + i) = false ∧ tget t.chip.rein.activeCore (32 * g + i) = none))
    ∧ (groupBusy s.chip g = true → exec (.rnGroupOwnerWrite g v) s = .next (afterAccess s (fun c _ => c))))

/-- 12 R372 to R376: unmasking a vector sends one message for it if a source waits on it, and clears PENDING_HOST of every such source; with
none waiting it sends nothing. An unmasked vector on which a source waits sends its message. The vector is of the function, MSI-X Enable
is 1, the function is not masked, the link is up. A completion on the host path ends ACTIVE_HOST of its source; one for a source that is
not active changes no state and raises RN_SPURIOUS_EOI_COUNT by 1, which saturates. -/
def Obligations.HostPathDelivers : Prop :=
  (∀ (s : State) (fn v : Nat), hostReaches s fn = true → v < vectorCount fn → (tenantOf s.chip fn).msixEnable = true →
    (tenantOf s.chip fn).functionMask = false → s.chip.linkUp = true →
    (waitingOn s.chip fn v ≠ [] →
      ∃ t, exec (.vectorUnmask fn v) s = .next t
        ∧ t.chip.out = s.chip.out ++ [.msix fn v (msixOf (tenantOf s.chip fn) v).addr (msixOf (tenantOf s.chip fn) v).data]
        ∧ (∀ i ∈ waitingOn s.chip fn v, t.chip.rein.pendingHost.contains i = false)
        ∧ (msixOf (tenantOf t.chip fn) v).masked = false)
    ∧ (waitingOn s.chip fn v = [] →
      ∃ t, exec (.vectorUnmask fn v) s = .next t ∧ t.chip.out = s.chip.out ∧ (msixOf (tenantOf t.chip fn) v).masked = false))
  ∧ (∀ (s : State) (fn v : Nat), s.chip.dev ≠ .off → (tenantOf s.chip fn).present = true → v < vectorCount fn →
    (tenantOf s.chip fn).msixEnable = true → (tenantOf s.chip fn).functionMask = false →
    (msixOf (tenantOf s.chip fn) v).masked = false → waitingOn s.chip fn v ≠ [] → s.chip.linkUp = true →
    ∃ t, exec (.msiXMessage fn v) s = .next t
      ∧ t.chip.out = s.chip.out ++ [.msix fn v (msixOf (tenantOf s.chip fn) v).addr (msixOf (tenantOf s.chip fn) v).data]
      ∧ ∀ i ∈ waitingOn s.chip fn v, t.chip.rein.pendingHost.contains i = false)
  ∧ (∀ (s : State) (src : Nat), hostReaches s 0 = true →
    (s.chip.rein.activeHost.contains src = true →
      ∃ t, exec (.rnHostEoi src) s = .next t ∧ t.chip.rein.activeHost.contains src = false
        ∧ t.chip.rein.spurious = s.chip.rein.spurious)
    ∧ (s.chip.rein.activeHost.contains src = false →
      ∃ t, exec (.rnHostEoi src) s = .next t
        ∧ t.chip = { s.chip with rein := { s.chip.rein with spurious := BitVec.ofNat 32 (min (s.chip.rein.spurious.toNat + 1) 0xFFFFFFFF) } }))

/-- 15 R449: a write of CNT_GROUP[g] that changes the group stores it, and makes the EVENT and the value of every counter of the group 0; one
that changes nothing changes nothing; no event counts in a group without an owner. 15 R458: RELEASE frees the held bank. -/
def Obligations.CounterGroupAndRelease : Prop :=
  (∀ (s : State) (g : Nat) (v : W32), hostReaches s 0 = true → 16 ≤ g → g < 128 →
    ((tget s.chip.counters.groups g).getD 0 ≠ v.toNat % 64 →
      ∃ t, exec (.cntGroupWrite g v) s = .next t ∧ tget t.chip.counters.groups g = some (v.toNat % 64)
        ∧ (∀ i, i / 32 = g → tget t.chip.counters.value i = none)
        ∧ (∀ i x, i / 32 = g → tget t.chip.counters.sel i = some x → x.event = 0)
        ∧ (∀ i, i / 32 ≠ g → tget t.chip.counters.value i = tget s.chip.counters.value i))
    ∧ ((tget s.chip.counters.groups g).getD 0 = v.toNat % 64 → exec (.cntGroupWrite g v) s = .next (afterAccess s (fun c _ => c))))
  ∧ (∀ s : State, hostReaches s 0 = true →
      ∃ t, exec .freezeRelease s = .next t ∧ t.chip = { s.chip with counters := { s.chip.counters with heldBank := none } })
  ∧ ∀ (c : Chip) (ctx ev cl n i : Nat) (mode : CntMode), groupOwner c.counters.groups (i / 32) = none →
      tget (cntEv c ctx ev cl n mode).counters.value i = tget c.counters.value i

/-! ### Management requests -/

/-- 02 R51, R57, R59, R61, R62, R64, R68, R78, R79: a creation within its limits and quotas takes the next index of its space, gives the
handle as RESULT, and makes the object as the request says; the other objects of its class stay. ARM_EVENT leaves an event that was not
armed BROKEN, FIRED or ARMED by what its hitch says. 11 R348, R349: EXPORT_OBJECT makes a token; REVOKE_TOKEN removes one, or waits for the
accepted requests of its own. -/
def Obligations.ObjectsAreCreated : Prop :=
  (∀ (s : State) (fn r i : Nat) (d : Chip), served s fn 0x10 r = true → charged (taken s fn).chip (rqOwner fn r) 0 < 256 →
    quotaRoom (taken s fn).chip (rqOwner fn r) 0 1 = true → takeIndex (taken s fn).chip 1 = some (i, d) →
    ∃ c y, exec (.createContext fn) s = .next (answered s fn r c (okReply (field (mkHandle 1 (reuseOf d 1 i) i).toNat 64 32)))
      ∧ tget c.contexts i = some y ∧ y.handle = mkHandle 1 (reuseOf d 1 i) i ∧ y.owner = rqOwner fn r ∧ y.refs = { host := 1, dev := 0 }
      ∧ y.cls = classOf (bits r 65 64) ∧ y.beat = (if bits r 71 68 = 15 then none else some (bits r 71 68)) ∧ y.slots = []
      ∧ y.runnable = true ∧ y.brk = none ∧ y.bisect = none ∧ (∀ j, j ≠ i → tget c.contexts j = tget s.chip.contexts j)
      ∧ c.queues = s.chip.queues ∧ c.mems = s.chip.mems ∧ c.memory = s.chip.memory)
  ∧ (∀ (s : State) (fn r i : Nat) (d : Chip), served s fn 0x13 r = true →
    quotaRoom (taken s fn).chip (rqOwner fn r) 3 1 = true → takeIndex (taken s fn).chip 5 = some (i, d) →
    ∃ c, exec (.createHitch fn) s = .next (answered s fn r c (okReply (field (mkHandle 5 (reuseOf d 5 i) i).toNat 64 32)))
      ∧ tget c.hitches i = some
          { handle := mkHandle 5 (reuseOf d 5 i) i, owner := rqOwner fn r, refs := { host := 1, dev := 0 },
            value := BitVec.ofNat 64 (bits r 127 64), broken := 0, breaker := none, waiters := [] }
      ∧ (∀ j, j ≠ i → tget c.hitches j = tget s.chip.hitches j) ∧ c.memory = s.chip.memory ∧ c.mems = s.chip.mems
      ∧ c.queues = s.chip.queues ∧ c.contexts = s.chip.contexts ∧ c.events = s.chip.events)
  ∧ (∀ (s : State) (fn r i : Nat) (d : Chip), served s fn 0x14 r = true →
    quotaRoom (taken s fn).chip (rqOwner fn r) 4 1 = true → takeIndex (taken s fn).chip 6 = some (i, d) →
    ∃ c v, exec (.createEvent fn) s = .next (answered s fn r c (okReply (field (mkHandle 6 (reuseOf d 6 i) i).toNat 64 32)))
      ∧ tget c.events i = some v ∧ v.handle = mkHandle 6 (reuseOf d 6 i) i ∧ v.owner = rqOwner fn r ∧ v.refs = { host := 1, dev := 0 }
      ∧ v.state = .idle ∧ (∀ j, j ≠ i → tget c.events j = tget s.chip.events j) ∧ c.hitches = s.chip.hitches ∧ c.memory = s.chip.memory)
  ∧ (∀ (s : State) (fn r i : Nat) (d : Chip), served s fn 0x12 r = true → homeOk (taken s fn).chip (rqOwner fn r) (fieldHandle r 127) = true →
    quotaRoom (taken s fn).chip (rqOwner fn r) 2 1 = true → takeIndex (taken s fn).chip 3 = some (i, d) →
    memoryForm (bit r 64) (bit r 65) (bits r 191 128) = true →
    (bit r 64 = true → winCovers (windowOf (taken s fn).chip (rqOwner fn r) (bits r 77 72)) true (bits r 255 192) (bits r 191 128) = true →
      ∃ c o, exec (.createMemory fn) s = .next (answered s fn r c (okReply (field (mkHandle 3 (reuseOf d 3 i) i).toNat 64 32)))
        ∧ tget c.mems i = some o ∧ o.handle = mkHandle 3 (reuseOf d 3 i) i ∧ o.owner = rqOwner fn r ∧ o.refs = { host := 1, dev := 0 }
        ∧ o.kind = .host ∧ o.size = bits r 191 128 ∧ o.addr = bits r 255 192 ∧ o.home = homeOf (fieldHandle r 127)
        ∧ (∀ j, j ≠ i → tget c.mems j = tget s.chip.mems j) ∧ c.memory = s.chip.memory)
    ∧ (∀ span, span = (if bit r 65 then 2 * bits r 191 128 else bits r 191 128) → bit r 64 = false →
      quotaRoom (taken s fn).chip (rqOwner fn r) 6 (span / 65536) = true →
      placements (taken s fn).chip (windowOf (taken s fn).chip (rqOwner fn r) (bits r 77 72)) span ≠ [] →
      ∃ c o a h, a ∈ placements (taken s fn).chip (windowOf (taken s fn).chip (rqOwner fn r) (bits r 77 72)) span
        ∧ exec (.createMemory fn) s = .next (answered s fn r c (okReply (field h.toNat 64 32 + field a 128 64)))
        ∧ tget c.mems i = some o ∧ o.handle = h ∧ h = mkHandle 3 (reuseOf d 3 i) i ∧ o.owner = rqOwner fn r ∧ o.refs = { host := 1, dev := 0 }
        ∧ o.kind = .device ∧ o.double = bit r 65 ∧ o.size = bits r 191 128 ∧ o.addr = a ∧ o.filled = []
        ∧ (∀ j, j ≠ i → tget c.mems j = tget s.chip.mems j)
        ∧ (o.lazy = false → ∀ x, readByte c.memory.hbm x = if a ≤ x ∧ x < a + span then 0 else readByte s.chip.memory.hbm x)
        ∧ (o.lazy = true → c.memory = s.chip.memory)))
  ∧ (∀ (s : State) (fn r i ms mq : Nat) (os oq : MemObj) (d : Chip) (t : Nat), served s fn 0x11 r = true →
    t = actor (taken s fn).chip fn (fieldHandle r 95) → 8 ≤ bits r 324 320 → bits r 324 320 ≤ 20 → 6 ≤ bits r 332 328 → bits r 332 328 ≤ 16 →
    handleOk (taken s fn).chip t [1] (fieldHandle r 95) = true →
    deviceObj (taken s fn).chip t (fieldHandle r 127) = some (ms, os) → deviceObj (taken s fn).chip t (fieldHandle r 159) = some (mq, oq) →
    ringPlaced (taken s fn).chip os (bits r 255 192) (16 * pow2 (bits r 324 320)) none = true →
    ringPlaced (taken s fn).chip oq (bits r 319 256) (64 + 16 * pow2 (bits r 332 328)) none = true →
    overlap (os.addr + bits r 255 192) (16 * pow2 (bits r 324 320)) (oq.addr + bits r 319 256) (64 + 16 * pow2 (bits r 332 328)) = false →
    queuesOf (taken s fn).chip (hIndex (fieldHandle r 95)) < 16 → quotaRoom (taken s fn).chip t 1 1 = true →
    refRoom (taken s fn).chip (fieldHandle r 95) = true → refRoom (taken s fn).chip (fieldHandle r 127) = true →
    refRoom (taken s fn).chip (fieldHandle r 159) = true → freeSlots (taken s fn).chip t ≠ [] → takeIndex (taken s fn).chip 2 = some (i, d) →
    ∃ c x slot, slot ∈ freeSlots (taken s fn).chip t
      ∧ exec (.createQueue fn) s = .next (answered s fn r c (okReply (field (mkHandle 2 (reuseOf d 2 i) i).toNat 64 32 + field slot 96 12)))
      ∧ tget c.queues i = some x ∧ x.handle = mkHandle 2 (reuseOf d 2 i) i ∧ x.owner = t ∧ x.ctx = hIndex (fieldHandle r 95) ∧ x.slot = slot
      ∧ x.sq = ms ∧ x.cq = mq ∧ x.sqOff = bits r 255 192 ∧ x.cqOff = bits r 319 256 ∧ x.sqLog2 = bits r 324 320 ∧ x.cqLog2 = bits r 332 328
      ∧ x.head = 0 ∧ x.tail = 0 ∧ x.prod = 0 ∧ x.err = none ∧ x.cmds = [] ∧ x.refs = { host := 1, dev := 0 }
      ∧ ∀ j, j ≠ i → tget c.queues j = tget s.chip.queues j)
  ∧ (∀ (s : State) (fn r t : Nat) (v : Event) (y : Hitch), served s fn 0x15 r = true → t = actor (taken s fn).chip fn (fieldHandle r 95) →
    handleOk (taken s fn).chip t [6] (fieldHandle r 95) = true → handleOk (taken s fn).chip t [5] (fieldHandle r 127) = true →
    sourceOk (taken s fn).chip t (bits r 202 192) = true → tget s.chip.events (hIndex (fieldHandle r 95)) = some v →
    tget s.chip.hitches (hIndex (fieldHandle r 127)) = some y → v.state ≠ .armed →
    slotRoom (taken s fn).chip t = true → refRoom (taken s fn).chip (fieldHandle r 127) = true →
    ∃ c w, exec (.armEvent fn) s = .next (answered s fn r c (okReply 0)) ∧ tget c.events (hIndex (fieldHandle r 95)) = some w
      ∧ w.state = (if y.broken ≠ 0 then .broken else if bits r 191 128 ≤ y.value.toNat then .fired else .armed)
      ∧ w.hitch = hIndex (fieldHandle r 127) ∧ w.target = BitVec.ofNat 64 (bits r 191 128) ∧ w.source = bits r 202 192
      ∧ w.armGait = s.chip.gait ∧ (∀ j, j ≠ hIndex (fieldHandle r 95) → tget c.events j = tget s.chip.events j)
      ∧ (w.state = .armed → ∃ y', tget c.hitches (hIndex (fieldHandle r 127)) = some y' ∧ y'.value = y.value
          ∧ y'.waiters = y.waiters ++ [.event (hIndex (fieldHandle r 95)) (BitVec.ofNat 64 (bits r 191 128))])
      ∧ (w.state ≠ .armed → c.hitches = s.chip.hitches) ∧ c.memory = s.chip.memory)
  ∧ (∀ (s : State) (fn r i m : Nat) (o : MemObj) (d : Chip), served s fn 0x1C r = true →
    deviceObj (taken s fn).chip (rqOwner fn r) (fieldHandle r 95) = some (m, o) →
    s.chip.tokens.countP (fun p => p.2.owner == rqOwner fn r && !p.2.revoking) < 1024 → refRoom (taken s fn).chip (fieldHandle r 95) = true →
    takeIndex (taken s fn).chip 10 = some (i, d) →
    ∃ c, exec (.exportObject fn) s = .next (answered s fn r c (okReply (field (mkToken (reuseOf d 10 i) i).toNat 64 32)))
      ∧ tget c.tokens i = some { owner := rqOwner fn r, mem := m, reuse := reuseOf d 10 i, rd := bit r 96, wr := bit r 97, revoking := false,
                                 accepted := 0 }
      ∧ (∀ j, j ≠ i → tget c.tokens j = tget s.chip.tokens j) ∧ c.memory = s.chip.memory ∧ c.queues = s.chip.queues)
  ∧ ∀ (s : State) (fn r i : Nat) (k : Token), served s fn 0x1D r = true → tokenOf s.chip (fieldHandle r 95) = some (i, k) →
    k.revoking = false → k.owner = rqOwner fn r →
    ∃ c, exec (.revokeToken fn) s = .next (answered s fn r c (okReply 0))
      ∧ tget c.tokens i = (if k.accepted = 0 then none else some { k with revoking := true })
      ∧ ∀ j, j ≠ i → tget c.tokens j = tget s.chip.tokens j

/-- 04 R143: SET_BEAT gives a context with no work in flight its beat domain, 0xF for none. 02 R52: SET_QUOTA stores the quota of the class for
the tenant. 04 R120, R136, 15 R451: SET_NOTICE_RING, SET_ERROR_RING and SET_TRACE_BUFFER put a ring that is placed inside its
object in force, empty but for notices already held, and OBJECT null takes the ring away. 12 R362, R363: BIND_SOURCE binds a queue, the
notices or the errors of the tenant to a source that it owns, or to none; SET_SOURCE_VECTOR takes HOST_EN and the vector. 15 R450, R451:
SET_COUNTER takes the selection of a counter of the caller's group, whose value is then 0; READ_COUNTERS writes the counters and raises
the object's stamp, and from the frozen bank each counter's 8 bytes are its frozen value; FREEZE is pending at the gait 50,000 on, or at
an earlier one already pending. 09 R279 to R283: CREATE_DESCRIPTORS makes descriptors of images that pass their checks, while there is
room; after DESTROY_DESCRIPTORS none of the named descriptors is live, and every other index keeps its slot. -/
def Obligations.SettingsAreTaken : Prop :=
  (∀ (s : State) (fn r : Nat) (y : Context), served s fn 0x17 r = true →
    handleOk (taken s fn).chip (actor (taken s fn).chip fn (fieldHandle r 95)) [1] (fieldHandle r 95) = true →
    ctxWorks s.chip (hIndex (fieldHandle r 95)) = false → tget s.chip.contexts (hIndex (fieldHandle r 95)) = some y →
    ∃ c, exec (.setBeat fn) s = .next (answered s fn r c (okReply 0))
      ∧ tget c.contexts (hIndex (fieldHandle r 95)) = some { y with beat := if bits r 99 96 = 15 then none else some (bits r 99 96) }
      ∧ (∀ j, j ≠ hIndex (fieldHandle r 95) → tget c.contexts j = tget s.chip.contexts j) ∧ c.queues = s.chip.queues ∧ c.memory = s.chip.memory)
  ∧ (∀ (s : State) (r : Nat), served s 0 0x20 r = true →
    ∃ c, exec (.setQuota 0) s = .next (answered s 0 r c (okReply 0))
      ∧ quotaOf c (bits r 68 64) (bits r 74 72) = bits r 127 96
      ∧ (∀ k, k ≠ bits r 74 72 → quotaOf c (bits r 68 64) k = quotaOf s.chip (bits r 68 64) k)
      ∧ (∀ t k, t ≠ bits r 68 64 → t ≠ 0 → quotaOf c t k = quotaOf s.chip t k))
  ∧ (∀ (s : State) (fn r k op : Nat) (row : Nat → Instr),
    (k, op, row) = (0, 0x18, Instr.setNoticeRing) ∨ (k, op, row) = (1, 0x19, Instr.setErrorRing) ∨ (k, op, row) = (2, 0x24, Instr.setTraceBuffer) →
    served s fn op r = true →
    (fieldHandle r 95 = 0 → ∃ c, exec (row fn) s = .next (answered s fn r c (okReply 0))
      ∧ ringOf (tenantOf c (actor (taken s fn).chip fn 0)) k = none)
    ∧ (∀ (i : Nat) (m : MemObj), fieldHandle r 95 ≠ 0 → 4 ≤ bits r 196 192 → bits r 196 192 ≤ 16 →
      deviceObj (taken s fn).chip (actor (taken s fn).chip fn (fieldHandle r 95)) (fieldHandle r 95) = some (i, m) →
      ringPlaced (taken s fn).chip m (bits r 191 128) (64 + (if k = 0 then 32 else 64) * pow2 (bits r 196 192))
        (some (actor (taken s fn).chip fn (fieldHandle r 95), k)) = true →
      refRoom (taken s fn).chip (fieldHandle r 95) = true →
      ∃ c g, exec (row fn) s = .next (answered s fn r c (okReply 0))
        ∧ ringOf (tenantOf c (actor (taken s fn).chip fn (fieldHandle r 95))) k = some g
        ∧ g.mem = i ∧ g.off = bits r 191 128 ∧ g.log2 = bits r 196 192 ∧ g.dropped = 0 ∧ (k ≠ 0 → g.prod = 0 ∧ g.cons = 0)))
  ∧ (∀ (s : State) (fn r : Nat), served s fn 0x1E r = true → (bit r 71 = false → sourceOk (taken s fn).chip (rqOwner fn r) (bits r 82 72) = true) →
    ∀ b, b = (if bit r 71 then none else some (bits r 82 72)) →
    (∀ x, bits r 65 64 = 0 → handleOk (taken s fn).chip (rqOwner fn r) [2] (fieldHandle r 127) = true →
      tget s.chip.queues (hIndex (fieldHandle r 127)) = some x →
      ∃ c, exec (.bindSource fn) s = .next (answered s fn r c (okReply 0)) ∧ tget c.queues (hIndex (fieldHandle r 127)) = some { x with bind := b }
        ∧ (∀ j, j ≠ hIndex (fieldHandle r 127) → tget c.queues j = tget s.chip.queues j) ∧ c.rein = s.chip.rein)
    ∧ (bits r 65 64 ≠ 0 → fieldHandle r 127 = 0 → ∃ c, exec (.bindSource fn) s = .next (answered s fn r c (okReply 0))
      ∧ tenantOf c (rqOwner fn r) = (if bits r 65 64 = 1 then { tenantOf (taken s fn).chip (rqOwner fn r) with noticeBind := b }
          else { tenantOf (taken s fn).chip (rqOwner fn r) with errorBind := b }) ∧ c.queues = s.chip.queues ∧ c.rein = s.chip.rein))
  ∧ (∀ (s : State) (fn r : Nat), served s fn 0x1F r = true →
    sourceOk (taken s fn).chip (rqOwner fn r) (bits r 74 64) = true ∨ (fn ≠ 0 ∧ bits r 74 64 = 32 + fn) →
    bits r 87 80 < vectorCount (rqOwner fn r) →
    ∃ c, exec (.setSourceVector fn) s = .next (answered s fn r c (okReply 0))
      ∧ srcCfg c (bits r 74 64) = { srcCfg s.chip (bits r 74 64) with hostEn := bit r 75, hostVector := bits r 87 80 }
      ∧ ∀ j, j ≠ bits r 74 64 → srcCfg c j = srcCfg s.chip j)
  ∧ (∀ (s : State) (fn r t : Nat), served s fn 0x21 r = true → groupOwner s.chip.counters.groups (bits r 75 64 / 32) = some t →
    fn = 0 ∨ fn = t → bits r 87 80 < 16 → bits r 136 128 ≤ bits r 152 144 → bits r 152 144 < 320 →
    (bit r 89 = true → fieldHandle r 127 ≠ 0 ∧ handleOk (taken s fn).chip t [1] (fieldHandle r 127) = true) →
    ∃ c, exec (.setCounter fn) s = .next (answered s fn r c (okReply 0))
      ∧ tget c.counters.sel (bits r 75 64) = some
          { event := bits r 87 80, spec := bit r 88, ctxFilter := bit r 89, clFilter := bit r 90,
            ctx := if bit r 89 then hIndex (fieldHandle r 127) else 0, clFirst := bits r 136 128, clLast := bits r 152 144 }
      ∧ tget c.counters.value (bits r 75 64) = none
      ∧ ∀ j, j ≠ bits r 75 64 → tget c.counters.sel j = tget s.chip.counters.sel j ∧ tget c.counters.value j = tget s.chip.counters.value j)
  ∧ (∀ (s : State) (fn r i : Nat) (m : MemObj), served s fn 0x22 r = true → bits r 191 128 % 8 = 0 → bits r 220 208 ≠ 0 → bits r 220 208 ≤ 4096 →
    bits r 203 192 + bits r 220 208 ≤ 4096 → deviceObj (taken s fn).chip fn (fieldHandle r 95) = some (i, m) →
    (∀ j, j < bits r 220 208 → counterReadable s.chip fn (bits r 203 192 + j) = true) →
    windowReason (taken s fn).chip fn m m.pub (bits r 191 128) (8 * bits r 220 208) = none →
    (bit r 224 = false → exec (.readCounters fn) s = .next (answered s fn r
        (raiseStamp (writeCounters none (bits r 203 192) (bits r 220 208) (taken s fn).chip (m.at m.pub (bits r 191 128))) i) (okReply 0)))
    ∧ (∀ f b, bit r 224 = true → s.chip.counters.heldBank = some (f, b) →
      ∃ c, exec (.readCounters fn) s = .next (answered s fn r c (okReply (field f.tf 64 64 + field f.id.toNat 128 16)))
        ∧ (s.chip.mems.any (fun p => p.2.lazy) = false → ∀ x,
            readByte c.memory.hbm x = if m.at m.pub (bits r 191 128) ≤ x ∧ x < m.at m.pub (bits r 191 128) + 8 * bits r 220 208
              then BitVec.ofNat 8 (((tget b (bits r 203 192 + (x - m.at m.pub (bits r 191 128)) / 8)).getD 0).toNat
                / 256 ^ ((x - m.at m.pub (bits r 191 128)) % 8))
              else readByte s.chip.memory.hbm x)))
  ∧ (∀ (s : State) (fn r : Nat), served s fn 0x23 r = true → s.chip.counters.heldBank = none →
    ∃ c f, exec (.freezeRequest fn) s = .next (answered s fn r c (okReply (field f.tf 64 64 + field f.id.toNat 128 16)))
      ∧ c.counters.pendingFreeze = some f
      ∧ f.tf = (match s.chip.counters.pendingFreeze with | none => s.chip.gait + 50000 | some p => min p.tf (s.chip.gait + 50000))
      ∧ c.counters.heldBank = none ∧ c.memory = s.chip.memory)
  ∧ (∀ (s : State) (fn r i : Nat) (m : MemObj) (c : Chip) (ids : List Nat), served s fn 0x1A r = true → bits r 99 96 ≠ 0 → bits r 99 96 ≤ 14 →
    bits r 191 128 % 64 = 0 → deviceObj (taken s fn).chip (rqOwner fn r) (fieldHandle r 95) = some (i, m) →
    bits r 191 128 + 64 * bits r 99 96 ≤ m.size → readPoison (taken s fn).chip (m.at m.pub (bits r 191 128)) (64 * bits r 99 96) = none →
    ∀ imgs : List W512, imgs = (List.range (bits r 99 96)).map (fun j => BitVec.ofNat 512
      (leAt (loadDev (taken s fn).chip (m.at m.pub (bits r 191 128)) (64 * bits r 99 96)) (64 * j) 64)) →
    (∀ g, g ∈ imgs → descCheck (cntHbm (taken s fn).chip 64 (m.at m.pub (bits r 191 128)) (64 * bits r 99 96)) (rqOwner fn r) g = none) →
    createDescsN (rqOwner fn r) (cntHbm (taken s fn).chip 64 (m.at m.pub (bits r 191 128)) (64 * bits r 99 96)) imgs = some (c, ids) →
    exec (.createDescriptors fn) s = .next (answered s fn r c (okReply (idBits ids)))
      ∧ (∀ g, imgs = [g] → ∃ j n, ids = [j + field n 16 8] ∧ tget (tenantOf c (rqOwner fn r)).descs.slots j = some { live := some g, reuse := n }))
  ∧ ∀ (s : State) (fn r : Nat) (ids : List Nat), served s fn 0x1B r = true → bits r 67 64 ≠ 0 → bits r 67 64 ≤ 13 →
    ids = (List.range (bits r 67 64)).map (fun i => bits r (127 + 32 * i) (96 + 32 * i)) → ids.Nodup →
    (∀ id, id ∈ ids → (descOf s.chip (rqOwner fn r) id).isSome = true) →
    ∃ c, exec (.destroyDescriptors fn) s = .next (answered s fn r c (okReply 0)) ∧ (∀ id, id ∈ ids → descOf c (rqOwner fn r) id = none)
      ∧ ∀ j, (∀ id, id ∈ ids → bits id 15 0 ≠ j) → tget (tenantOf c (rqOwner fn r)).descs.slots j = tget (tenantOf s.chip (rqOwner fn r)).descs.slots j

/-- 13 R400: RESET_QUEUE answers FINAL_PROD, the count of the queue's records written and held, and the queue is then not in error.
R401: RESET_CONTEXT leaves a context runnable, with no residency slot, breakpoint, bisect or stop; RESUME_CONTEXT makes a context that is
not runnable runnable. R402: RESET_CLUSTER of an idle cluster that passes its test changes nothing else, and one that fails drains;
RESET_ENGINE of an idle engine changes nothing else, and of a busy one takes every engine from its command. R403: RESET_TENANT leaves a tenant with nothing negotiated (but for PF0), no live
descriptor and no counter selected. 14 R434, R440: RETIRE_CLUSTER drains the cluster while a spare is left. 10 R308: RETIRE_CHANNEL
starts the migration of the channel to the next spare. -/
def Obligations.ResetsAndRepairs : Prop :=
  (∀ (s : State) (fn r : Nat) (stops : List Stop), served s fn 0x40 r = true →
    handleOk (taken s fn).chip (actor (taken s fn).chip fn (fieldHandle r 95)) [2] (fieldHandle r 95) = true →
    (∃ c n, exec (.resetQueue fn stops) s = .next (answered s fn r c (okReply (field n 64 32)))
      ∧ ∀ x, tget c.queues (hIndex (fieldHandle r 95)) = some x → n = x.prod.toNat + x.owed.length ∧ x.err = none ∧ x.flags = 0)
    ∧ ∀ x, restingQueue s.chip (hIndex (fieldHandle r 95)) x →
      ∃ c y, exec (.resetQueue fn stops) s = .next (answered s fn r c (okReply (field x.prod.toNat 64 32)))
        ∧ tget c.queues (hIndex (fieldHandle r 95)) = some y ∧ y = { x with err := none, flags := 0, refs := y.refs }
        ∧ c.memory = s.chip.memory ∧ c.mems = s.chip.mems)
  ∧ (∀ (s : State) (fn r : Nat) (stops : List Stop), served s fn 0x41 r = true →
    handleOk (taken s fn).chip (actor (taken s fn).chip fn (fieldHandle r 95)) [1] (fieldHandle r 95) = true →
    (∃ c, exec (.resetContext fn stops) s = .next (answered s fn r c (okReply 0))
      ∧ ∀ y, tget c.contexts (hIndex (fieldHandle r 95)) = some y →
          y.slots = [] ∧ y.brk = none ∧ y.bisect = none ∧ y.stopping = none ∧ y.runnable = true)
    ∧ ∀ x, tget s.chip.contexts (hIndex (fieldHandle r 95)) = some x → (∀ p ∈ s.chip.queues, p.2.ctx ≠ hIndex (fieldHandle r 95)) →
      ∃ c y, exec (.resetContext fn stops) s = .next (answered s fn r c (okReply 0))
        ∧ tget c.contexts (hIndex (fieldHandle r 95)) = some y
        ∧ y = { x with slots := [], brk := none, bisect := none, stopping := none, runnable := true, refs := y.refs }
        ∧ c.queues = s.chip.queues ∧ c.memory = s.chip.memory)
  ∧ (∀ (s : State) (fn r : Nat) (y : Context), served s fn 0x42 r = true →
    handleOk (taken s fn).chip (actor (taken s fn).chip fn (fieldHandle r 95)) [1] (fieldHandle r 95) = true →
    tget s.chip.contexts (hIndex (fieldHandle r 95)) = some y → y.runnable = false →
    ∃ c, exec (.resumeContext fn) s = .next (answered s fn r c (okReply 0))
      ∧ tget c.contexts (hIndex (fieldHandle r 95)) = some { y with runnable := true }
      ∧ (∀ j, j ≠ hIndex (fieldHandle r 95) → tget c.contexts j = tget s.chip.contexts j) ∧ c.queues = s.chip.queues ∧ c.memory = s.chip.memory)
  ∧ (∀ (s : State) (fn r p : Nat) (passes rd : Bool) (run : BodyRun), served s fn 0x43 r = true → bits r 72 64 ≤ 319 →
    s.chip.compute.draining.contains (bits r 72 64) = false → physOf s.chip (bits r 72 64) = some p →
    (∃ c, exec (.resetCluster fn passes rd run) s = .next (answered s fn r c (okReply 0)))
    ∧ (passes = true → holderOf s.chip (bits r 72 64 / 8) = none →
      exec (.resetCluster fn passes rd run) s = .next (answered s fn r (taken s fn).chip (okReply 0)))
    ∧ (passes = false → spareLeft s.chip = true → holderOf s.chip (bits r 72 64 / 8) = none →
      ∃ c, exec (.resetCluster fn passes rd run) s = .next (answered s fn r c (okReply 0))
        ∧ c.compute.draining = insertNat s.chip.compute.draining (bits r 72 64) ∧ c.compute.phys = s.chip.compute.phys
        ∧ (rd = true → c.memory = s.chip.memory)))
  ∧ (∀ (s : State) (fn r done : Nat) (held : Tab (Nat × Nat)), served s fn 0x44 r = true →
    held = (if bit r 64 then s.chip.compute.outrider else s.chip.compute.groom) →
    (tget held (bits r 70 68) = none → exec (.resetEngine fn done) s = .next (answered s fn r (taken s fn).chip (okReply 0)))
    ∧ ∀ q seq x k, tget held (bits r 70 68) = some (q, seq) → attemptAt s.chip q seq x k →
        s.chip.ghosts.find? (fun g => g.q == q && g.cmd.seq == seq) = none →
        ∃ c, exec (.resetEngine fn done) s = .next (answered s fn r c (okReply 0)) ∧ freed c q seq)
  ∧ (∀ (s : State) (fn r : Nat) (stops : List Stop), served s fn 0x45 r = true → (tenantOf s.chip (bits r 68 64)).present = true →
    ∃ c, exec (.resetTenant fn stops) s = .next (answered s fn r c (okReply 0))
      ∧ (bits r 68 64 ≠ 0 → (tenantOf c (bits r 68 64)).agreed = none)
      ∧ (∀ p, p ∈ (tenantOf c (bits r 68 64)).descs.slots → p.2.live = none) ∧ (tenantOf c (bits r 68 64)).descs.pages = []
      ∧ ∀ p, p ∈ c.counters.sel → groupOwner c.counters.groups (p.1 / 32) ≠ some (bits r 68 64))
  ∧ (∀ (s : State) (fn r p : Nat), served s fn 0x60 r = true → bits r 72 64 ≤ 319 → s.chip.compute.draining.contains (bits r 72 64) = false →
    physOf s.chip (bits r 72 64) = some p → spareLeft s.chip = true →
    ∃ c, exec (.retireCluster fn) s = .next (answered s fn r c (okReply 0)) ∧ c.compute.draining = insertNat s.chip.compute.draining (bits r 72 64)
      ∧ c.compute.phys = s.chip.compute.phys ∧ c.memory = s.chip.memory)
  ∧ ∀ (s : State) (fn r i : Nat) (rest : List Nat), served s fn 0x61 r = true →
    tget (stackState s.chip (bits r 66 64)).migrating (bits r 76 72) = none → (stackState s.chip (bits r 66 64)).spareFree = i :: rest →
    (stackState s.chip (bits r 66 64)).dead.contains (bits r 76 72) = false →
    ∃ c, exec (.retireChannel fn) s = .next (answered s fn r c (okReply 0))
      ∧ tget (stackState c (bits r 66 64)).migrating (bits r 76 72) = some i ∧ (stackState c (bits r 66 64)).spareFree = rest
      ∧ (∀ k, k ≠ bits r 66 64 → stackState c k = stackState s.chip k) ∧ c.queues = s.chip.queues ∧ c.mems = s.chip.mems

/-- 04 R139, R141: a request is taken by an advance of its channel's head by 1; its response is the 64 bytes of its OP, STATUS, TAG, DETAIL
and RESULT in the next free entry, whose tail advances by 1, and no other response byte changes. R142: an OP that the interface does not
define is answered with REFUSED, DETAIL 0x0001. 16 R465 to R470: a served AUDIT changes nothing but its channel, and its response is the
count of its quantity. -/
def Obligations.RequestsAreTakenAndAnswered : Prop :=
  (∀ (c : Chip) (fn r : Nat) (p : Reply),
    (tenantOf (takeRequest c fn) fn).chan = { (tenantOf c fn).chan with reqHead := (tenantOf c fn).chan.reqHead + 1 }
    ∧ (takeRequest c fn).reqCount = c.reqCount + 1
    ∧ (tenantOf (respond c fn r p) fn).chan.rspTail = (tenantOf c fn).chan.rspTail + 1
    ∧ (tenantOf (respond c fn r p) fn).chan.reqTail = (tenantOf c fn).chan.reqTail
    ∧ ∀ x, readByte (tenantOf (respond c fn r p) fn).chan.rspBytes x
        = (if 64 * ((tenantOf c fn).chan.rspTail.toNat % chanCap fn) ≤ x
              ∧ x < 64 * ((tenantOf c fn).chan.rspTail.toNat % chanCap fn) + 64
            then BitVec.ofNat 8 (responseNat r p / 256 ^ (x - 64 * ((tenantOf c fn).chan.rspTail.toNat % chanCap fn)))
            else readByte (tenantOf c fn).chan.rspBytes x))
  ∧ (∀ (s : State) (fn r : Nat), s.chip.dev ≠ .off → s.halter.power = .active → busyFarrier s.farrier = false → nextFn s.chip = some fn → entryOf s.chip fn = r →
    rqDefined (rqOp r) = false → stateAnswer s.chip fn (rqOp r) = none →
    exec (.undefinedRequest fn) s = .next (answered s fn r (takeRequest s.chip fn) { st := stRefused, det := 1, res := 0 }))
  ∧ (∀ (s : State) (fn r : Nat), served s fn 0x25 r = true →
    exec (.audit fn) s = .next (answered s fn r (takeRequest s.chip fn) (audit (taken s fn) fn r)))

/-- 07 R225 to R231: LOAD_PROGRAM of readable bytes with a sound descriptor, window, quota and no poison is answered by the verdict on
the container: PROGRAM_FAULT with its code and no object, or OK with a program object that holds the bytes, and its handle. Which of the
code rules a body breaks is open (log 7). -/
def Obligations.LoadProgramFollowsVerdict : Prop :=
  ∀ (s : State) (fn r m n : Nat) (o : MemObj) (bs : List Byte) (v : Option Nat), served s fn 0x16 r = true → bits r 191 128 % 64 = 0 →
    deviceObj (taken s fn).chip (rqOwner fn r) (fieldHandle r 95) = some (m, o) →
    homeOk (taken s fn).chip (rqOwner fn r) (fieldHandle r 127) = true → n = bits r 255 192 → bits r 191 128 + n ≤ o.size →
    readPoison (taken s fn).chip (o.at o.pub (bits r 191 128)) n = none → bs = loadDev (taken s fn).chip (o.at o.pub (bits r 191 128)) n →
    v = containerVerdict (match s.farrier.running with | some i => i.cvers | none => []) (featuresOf (taken s fn).chip fn) bs n →
    (∀ code, v = some code →
      ∃ c, exec (.loadProgram fn) s = .next (answered s fn r c { st := stProgram, det := code, res := 0 })
        ∧ c.mems = (taken s fn).chip.mems ∧ c.allocs = s.chip.allocs)
    ∧ ∀ i d, v = none → quotaRoom (taken s fn).chip (rqOwner fn r) 2 1 = true →
      quotaRoom (taken s fn).chip (rqOwner fn r) 6 (ceilDiv n 65536) = true → takeIndex (taken s fn).chip 3 = some (i, d) →
      ∃ c y, exec (.loadProgram fn) s = .next (answered s fn r c (okReply (field (mkHandle 4 (reuseOf d 3 i) i).toNat 64 32)))
        ∧ tget c.mems i = some y ∧ y.handle = mkHandle 4 (reuseOf d 3 i) i ∧ y.owner = rqOwner fn r ∧ y.refs = { host := 1, dev := 0 }
        ∧ y.kind = .program ∧ y.size = n ∧ y.image = some { bytes := bs, poisoned := [] } ∧ y.home = homeOf (fieldHandle r 127)
        ∧ (∀ j, j ≠ i → tget c.mems j = tget (taken s fn).chip.mems j) ∧ c.memory = s.chip.memory

/-- 04 R145 to R149: NEGOTIATE of the running image's major, by a function that has agreed nothing, agrees the smaller minor and the
features common to both; in HOLD the device becomes READY and every beat domain starts anew (log 35). Another major is REFUSED with DETAIL
0x0003 and the image's version, and agrees nothing; for PF0, with no function negotiated, the device enters HOLD. -/
def Obligations.NegotiateAgrees : Prop :=
  ∀ (s : State) (fn r : Nat) (i : FwImage), served s fn 0x01 r = true → s.farrier.running = some i →
    (tenantOf s.chip fn).agreed = none →
    (bits r 95 80 = i.major.toNat → s.chip.dev ≠ .hold →
      exec (.negotiate fn) s = .next (answered s fn r
        (modTenant (takeRequest s.chip fn) fn (fun t => { t with agreed := some (agree fn i r) })) (okReply (agree fn i r).response)))
    ∧ (bits r 95 80 = i.major.toNat → s.chip.dev = .hold →
      ∃ u, exec (.negotiate fn) s = .next (finish u fn r (okReply (agree fn i r).response)) ∧ u.chip.dev = .ready
        ∧ (tenantOf u.chip fn).agreed = some (agree fn i r) ∧ u.beats.length = 8)
    ∧ (bits r 95 80 ≠ i.major.toNat →
      ∃ u, exec (.negotiate fn) s = .next (finish u fn r { st := stRefused, det := 3, res := fwResult i })
        ∧ (tenantOf u.chip fn).agreed = none
        ∧ (fn = 0 → isUp s.chip = true → (∀ p, p ∈ s.chip.tenants → p.2.agreed = none) → u.chip.dev = .hold))

/-- 13 R409, R412: GET_WALK gives the cause bits in WALK and 0 elsewhere; EXIT_WALK returns the device to READY when every cause meets its
clearing condition, and else is REFUSED with DETAIL 0x0007 and the causes that remain. -/
def Obligations.WalkRequests : Prop :=
  (∀ (s : State) (r : Nat), served s 0 0x46 r = true →
    exec (.getWalk 0) s = .next (answered s 0 r (takeRequest s.chip 0)
      (okReply (if s.chip.dev = .walk then field s.chip.walk.toNat 64 8 else 0))))
  ∧ ∀ (s : State) (r : Nat), served s 0 0x47 r = true →
    (s.chip.walk &&& ~~~s.chip.walkCleared = 0 →
      exec (.exitWalk 0) s = .next (answered s 0 r { takeRequest s.chip 0 with dev := .ready, walk := 0, walkCleared := 0 } (okReply 0)))
    ∧ (s.chip.walk &&& ~~~s.chip.walkCleared ≠ 0 →
      exec (.exitWalk 0) s = .next (answered s 0 r (takeRequest s.chip 0)
        { st := stRefused, det := 7, res := field (s.chip.walk &&& ~~~s.chip.walkCleared).toNat 64 8 }))

/-! ### Farrier's and the domains' requests -/

/-- 14 R434, R424: FW_STAGE stores a valid image in the slot named and answers OK, and answers REFUSED with DETAIL 0x0001 to another one,
storing nothing. FW_STATUS answers the fields. FW_SET_BOOT stores the preference. The signature's verdict is open (log 8). -/
def Obligations.FirmwareStagingAndBoot : Prop :=
  (∀ (s : State) (r : Nat) (c : Chip) (bs : List Byte), served s 0 0x50 r = true →
    (tenantOf (taken s 0).chip 0).windows.any (fun p => winCovers p.2 false (bits r 191 128) (bits r 255 192)) = true →
    s.farrier.slot ≠ bits r 65 64 → requestRead (taken s 0).chip (bits r 191 128) (bits r 255 192) = (c, some bs) →
    exec (.fwStage 0) s = .next (match fwParse bs with
      | some i => finish { s with chip := c, flash := setSlotImage s.flash (bits r 65 64) i } 0 r (okReply 0)
      | none => answered s 0 r c { st := stRefused, det := 1, res := 0 }))
  ∧ (∀ (s : State) (r : Nat), served s 0 0x52 r = true →
    exec (.fwStatus 0) s = .next (answered s 0 r (takeRequest s.chip 0) (fwStatus s)))
  ∧ ∀ (s : State) (r : Nat), served s 0 0x53 r = true →
    exec (.fwSetBoot 0) s = .next (finish { taken s 0 with flash := { s.flash with pref := boolNat (bit r 64) } } 0 r (okReply 0))

/-- 14 R424: SET_LIMITS takes each field within its range, and the fused value for a field of 0; a clock above the new cap drops to it.
With a field out of its range, a cap that is no multiple of 100 MHz or a shutdown limit less than 5 °C above the throttle limit it is
REFUSED with DETAIL 0x0001 and changes no limit. -/
def Obligations.SetLimitsTakesOrRefuses : Prop :=
  ∀ (s : State) (r : Nat), served s 0 0x58 r = true →
    (∀ cap thr shut p, limitField (bits r 79 64) 600 s.fuses.fmax = some cap → limitField (bits r 87 80) 85 s.fuses.tthrot = some thr →
      limitField (bits r 95 88) 95 s.fuses.tshut = some shut → limitField (bits r 111 96) 150 s.fuses.pmax = some p →
      bits r 79 64 % 100 = 0 → thr + 5 ≤ shut →
      ∃ u, exec (.setLimits 0) s = .next (finish u 0 r (okReply 0)) ∧ u.gov.fcap = cap ∧ u.gov.tthrot = thr ∧ u.gov.tshut = shut
        ∧ u.gov.plimit = p ∧ (600 ≤ cap → u.gov.clMhz ≤ cap) ∧ u.fuses = s.fuses ∧ u.chip.mems = s.chip.mems)
    ∧ ((limitField (bits r 79 64) 600 s.fuses.fmax = none ∨ limitField (bits r 87 80) 85 s.fuses.tthrot = none
        ∨ limitField (bits r 95 88) 95 s.fuses.tshut = none ∨ limitField (bits r 111 96) 150 s.fuses.pmax = none
        ∨ bits r 79 64 % 100 ≠ 0
        ∨ ∃ thr shut, limitField (bits r 87 80) 85 s.fuses.tthrot = some thr ∧ limitField (bits r 95 88) 95 s.fuses.tshut = some shut
            ∧ shut < thr + 5) →
      exec (.setLimits 0) s = .next (answered s 0 r (takeRequest s.chip 0) { st := stRefused, det := 1, res := 0 }))

/-- 14 R435 to R439: FW_ACTIVATE of a slot with a valid image begins to load it; the end of the load begins the gap, in which no core is
eligible, with the handover record in control SRAM (R431); the validation gives the chip to the new image where no condition on the record
fails, and else back to the old one with the REASON of the first that failed. -/
def Obligations.LiveUpdateGoesThrough : Prop :=
  (∀ (s : State) (r : Nat), served s 0 0x51 r = true → isUp s.chip = true → hasFeat (featuresOf (taken s 0).chip 0) featLive = true →
    (slotImage s.flash (bits r 65 64)).isSome = true →
    exec (.fwActivate 0) s
      = .next { taken s 0 with farrier := { s.farrier with update := .loading (bits r 65 64) 0 (rqTag r) } })
  ∧ (∀ (s : State) (slot fn : Nat) (tag : W16), s.farrier.update = .loading slot fn tag →
    ∃ t, exec .fwLoadComplete s = .next t ∧ t.farrier = { s.farrier with update := .gap slot fn tag s.chip.clock }
      ∧ (∀ k, k < 8 → (coreOf t.chip k).eligible = false) ∧ t.flash = s.flash ∧ t.chip.queues = s.chip.queues
      ∧ ∀ i, s.farrier.running = some i → ∃ h, t.chip.record = some h ∧ h.magic = 0x31564F48 ∧ h.reserved = 0)
  ∧ ∀ (s : State) (ev : HandoverEvidence) (slot fn since n : Nat) (tag : W16) (new : FwImage), s.farrier.update = .gap slot fn tag since →
    slotImage s.flash slot = some new → n = handoverReason s.chip new { ev with inTime := ev.inTime && s.chip.clock ≤ since + 8000000 } →
    (n = 0 → ∃ t, exec (.handoverValidation ev) s = .next t
      ∧ t.farrier = { s.farrier with running := some new, slot := slot, pinned := false, recent := [], update := .none }
      ∧ t.flash.pref = if slot < 2 then slot else s.flash.pref)
    ∧ (n ≠ 0 → ∃ t, exec (.handoverValidation ev) s = .next t ∧ t.farrier = { s.farrier with reason := n, update := .none }
      ∧ t.flash = s.flash)

/-- 14 R430, R431: outside a live update the expiry of a core's watchdog restarts it and counts the restart; fewer than four within 60 s
change nothing else of Farrier. The fourth, with no valid standby image, pins Farrier (R433, log 28). -/
def Obligations.WatchdogRestartsCount : Prop :=
  ∀ (s : State) (core : Nat) (hit : Option Stop) (ev : HandoverEvidence) (i : FwImage) (l : List Nat), s.chip.dev ≠ .off → core < 8 →
    s.farrier.running = some i → s.farrier.update = .none →
    l = s.chip.clock :: s.farrier.recent.filter (fun t => decide (s.chip.clock < t + 60000000000)) →
    (l.length < 4 →
      ∃ t, exec (.watchdogExpiry core hit ev) s = .next t
        ∧ t.farrier = { s.farrier with restarts := min (s.farrier.restarts + 1) 0xFFFF, recent := l })
    ∧ (4 ≤ l.length → s.farrier.pinned = false → slotImage s.flash 2 = none →
      ∃ t, exec (.watchdogExpiry core hit ev) s = .next t
        ∧ t.farrier = { s.farrier with restarts := min (s.farrier.restarts + 1) 0xFFFF, recent := [], pinned := true })

/-- 06 R210, R211: SET_BEAT_DOMAIN that passes its checks gives the domain its period, EXTERNAL and BEAT_OUT, zeroes its count, and with a
START puts its next boundary at the first START + n × P that lies at least 1 µs ahead; the other domains stay. GET_BEAT_DOMAIN answers
the fields as they stood, and with bit 67 clears the four that R211 names. -/
def Obligations.BeatDomainRequests : Prop :=
  (∀ (s : State) (r : Nat), served s 0 0x70 r = true → 1000000 ≤ bits r 127 96 → bits r 127 96 ≤ 1000000000 →
    (bit r 67 = true → hasFeat (featuresOf (taken s 0).chip 0) featBeatExt = true) →
    (∀ p ∈ s.beats, p.1 ≠ bits r 66 64 → (bit r 67 = true → p.2.ext = false) ∧ (bit r 68 = true → p.2.out = false)) →
    ∃ u b, exec (.setBeatDomain 0) s = .next (finish u 0 r (okReply 0)) ∧ u.chip = takeRequest s.chip 0
      ∧ tget u.beats (bits r 66 64) = some b ∧ b.period = bits r 127 96 ∧ b.ext = bit r 67 ∧ b.out = bit r 68 ∧ b.beats = 0
      ∧ (∀ d, d ≠ bits r 66 64 → tget u.beats d = tget s.beats d)
      ∧ (bits r 191 128 ≠ 0 → s.chip.gait + 1000 ≤ b.next ∧ bits r 191 128 ≤ b.next ∧ (b.next - bits r 191 128) % bits r 127 96 = 0
          ∧ (b.next = bits r 191 128 ∨ b.next < s.chip.gait + 1000 + bits r 127 96)))
  ∧ ∀ (s : State) (r : Nat), served s 0 0x71 r = true →
    exec (.getBeatDomain 0) s = .next (finish
      (if bit r 67 then setBeatState (taken s 0) (bits r 66 64) { beatOf (envOf s) (bits r 66 64) with
        freerunSeen := false, extra := 0, oob := 0, relocks := 0 } else taken s 0) 0 r (okReply (beatStatus (beatOf (envOf s) (bits r 66 64)))))

/-- 11 R343, 17 R494: SET_CABLING_PLAN of a legal record makes it the current plan and answers OK; an illegal one is REFUSED with DETAIL
0x0001. 11 R338, R344, R345: GET_PORT_REPORT answers the last payload received and the port's state; SET_ROUTE with DROP makes the entry
DROP, reason 3, and without it ends that; REDISCOVER returns a live port to TRAINING. -/
def Obligations.CablingAndPortRequests : Prop :=
  (∀ (s : State) (r m : Nat) (o : MemObj) (c d : Chip) (h rest : List Byte), served s 0 0x78 r = true → bits r 191 128 % 64 = 0 →
    deviceObj (taken s 0).chip 0 (fieldHandle r 95) = some (m, o) → bits r 191 128 + 64 ≤ o.size →
    requestRead (taken s 0).chip (o.at o.pub (bits r 191 128)) 64 = (c, some h) → badPlanHeader h = false →
    bits r 191 128 + planLen h ≤ o.size → requestRead c (o.at o.pub (bits r 191 128 + 64)) (planLen h - 64) = (d, some rest) →
    (planLegal (h ++ rest) = true →
      ∃ u, exec (.setCablingPlan 0) s = .next (ended s u 0 r (okReply 0)) ∧ u.fabric.plan = h ++ rest
        ∧ (u.flash.plan0 = h ++ rest ∨ u.flash.plan1 = h ++ rest) ∧ u.gov = s.gov ∧ u.beats = s.beats ∧ u.farrier = s.farrier)
    ∧ (planLegal (h ++ rest) = false → exec (.setCablingPlan 0) s = .next (answered s 0 r d { st := stRefused, det := 1, res := 0 })))
  ∧ ((∀ (s : State) (r : Nat), served s 0 0x79 r = true →
    exec (.getPortReport 0) s = .next (answered s 0 r (takeRequest s.chip 0)
      (okReply (field (match (portOf s.fabric (bits r 65 64)).hello with | some h => h.toNat | none => 0) 64 256
        + field (portOf s.fabric (bits r 65 64)).state 320 4))))
  ∧ (∀ (s : State) (r : Nat), served s 0 0x7A r = true →
    ∃ u, exec (.setRoute 0) s = .next (finish u 0 r (okReply 0)) ∧ u.chip = takeRequest s.chip 0 ∧ u.fabric.ports = s.fabric.ports
      ∧ (bit r 72 = true → ∀ p, route u.fabric p (bits r 71 64) = (7, 3))
      ∧ (bit r 72 = false → u.fabric.forced.contains (bits r 71 64) = false)
      ∧ ∀ d, d ≠ bits r 71 64 → u.fabric.forced.contains d = s.fabric.forced.contains d)
  ∧ ∀ (s : State) (r : Nat), served s 0 0x7B r = true → s.halter.zrefclk = true →
    ∃ u, exec (.rediscover 0) s = .next (finish u 0 r (okReply 0)) ∧ (portOf u.fabric (bits r 65 64)).state = 1
      ∧ (portOf u.fabric (bits r 65 64)).trained = false
      ∧ ∀ q, q ≠ bits r 65 64 → portOf u.fabric q = portOf s.fabric q)

/-! ### Link, resets, power -/

/-- 03 R96, R98, R99, R101, 13 R403: LINK_UP takes the trained link and lets out, in order, what waited; LINK_DOWN takes the link away, and
a transfer whose host read is lost completes with TIMEOUT; VF Enable makes the first NumVFs functions present; clearing it leaves no VF
present; an FLR of a VF leaves it present with nothing agreed, no descriptor, and its request channel and MSI-X as after reset; a BAR2
size is taken while MSE is 0 and within its range. -/
def Obligations.LinkAndFunctionEvents : Prop :=
  (∀ (s : State) (speed width : Nat) (flit : Bool), s.chip.dev ≠ .off → s.chip.linkUp = false → s.halter.hclk = true →
    s.halter.sysclk = true → s.halter.refclk = true → 1 ≤ speed → speed ≤ 6 → width ∈ [1, 2, 4, 8, 16] →
    ∃ t, exec (.linkUp speed width flit) s = .next t ∧ t.chip.linkUp = true ∧ t.link.speed = speed ∧ t.link.width = width
      ∧ t.link.flit = flit ∧ t.chip.out = s.chip.out ++ s.chip.heldOut ∧ t.chip.heldOut = [] ∧ t.chip.memory = s.chip.memory)
  ∧ (∀ s : State, s.chip.linkUp = true → exec (.linkDown []) s = .next (arbitrated s { s.chip with linkUp := false }))
  ∧ (∀ (s : State) (stop : Stop) (x : Queue) (k : Cmd) (sm sh dm dh : Nat) (m : MemObj), s.chip.linkUp = true →
    attemptAt s.chip stop.q stop.seq x k → k.job = .outride sm sh dm dh → tget s.chip.mems sm = some m → m.kind = .host →
    ∃ c, exec (.linkDown [stop]) s = .next (arbitrated s c) ∧ cmdSat c stop.q stop.seq (completedWith stTimeout) ∧ freed c stop.q stop.seq)
  ∧ (∀ (s : State) (n : Nat), configured s = true → s.link.vfEnable = false → n ≤ 31 →
    ∃ t, exec (.vfEnableSet n) s = .next t ∧ t.link = { s.link with vfEnable := true, numVfs := n }
      ∧ (∀ fn, 1 ≤ fn → fn ≤ n → (tenantOf t.chip fn).present = true)
      ∧ (∀ fn, (fn = 0 ∨ n < fn) → tenantOf t.chip fn = tenantOf s.chip fn) ∧ t.chip.memory = s.chip.memory)
  ∧ (∀ (s : State) (stops : List Stop), configured s = true → s.link.vfEnable = true →
    ∃ t, exec (.vfEnableClear stops) s = .next t ∧ t.link = { s.link with vfEnable := false }
      ∧ ∀ fn, 1 ≤ fn → fn ≤ 31 → (tenantOf t.chip fn).present = false)
  ∧ (∀ (s : State) (fn : Nat) (stops : List Stop), configured s = true → 1 ≤ fn → fn ≤ 31 → (tenantOf s.chip fn).present = true →
    ∃ c, exec (.vfFlr fn stops) s = .next (arbitrated s c) ∧ (tenantOf c fn).agreed = none ∧ (tenantOf c fn).chan = Channel.reset
      ∧ (tenantOf c fn).msix = [] ∧ (tenantOf c fn).msixEnable = false ∧ (tenantOf c fn).descs.pages = []
      ∧ (∀ p ∈ (tenantOf c fn).descs.slots, p.2.live = none) ∧ (∀ f ∈ c.arrivals, f ≠ fn))
  ∧ ∀ (s : State) (log2 : Nat), configured s = true → (tenantOf s.chip 0).memSpace = false → 28 ≤ log2 → log2 ≤ 38 →
    ∃ t, exec (.bar2SizeWrite 0 log2) s = .next t ∧ tenantOf t.chip 0 = { tenantOf s.chip 0 with bar2Log2 := log2 }
      ∧ (∀ fn, fn ≠ 0 → tenantOf t.chip fn = tenantOf s.chip fn)

/-- 13 R404, 17 R481, R482, R492: PERST_N, hot reset, thermal shutdown and loss of power each leave no object, no memory, no agreement and
no tenant state, with their RESET_CAUSE; a hot reset goes on into bring-up, the others into OFF. -/
def Obligations.WholeDeviceResetsClear : Prop :=
  (∀ s : State, s.chip.dev ≠ .off →
    ∃ t, exec .perstNAssert s = .next t ∧ blank t.chip ∧ t.chip.dev = .off ∧ t.halter.resetCause = 1
      ∧ t.halter.perstN = false ∧ t.halter.shutdownHold = false)
  ∧ (∀ s : State, s.chip.dev ≠ .off → s.chip.linkUp = true →
    ∃ t, exec .linkHotReset s = .next t ∧ t.chip.dev = .bringup ∧ t.halter.resetCause = 2 ∧ t.halter.bootAt = some s.chip.clock
      ∧ blank t.chip)
  ∧ (∀ s : State, s.chip.dev ≠ .off → s.gov.shutdownPending = true →
    ∃ t, exec .thermalShutdown s = .next t ∧ blank t.chip ∧ t.chip.dev = .off ∧ t.halter.resetCause = 3
      ∧ t.halter.shutdownHold = true)
  ∧ (∀ s : State, s.halter.pwrGood = true → s.halter.perstN = true →
    ∃ t, exec .pwrGoodFall s = .next t ∧ blank t.chip ∧ t.chip.dev = .off ∧ t.halter.pwrGood = false ∧ t.halter.resetCause = 4)
  ∧ ∀ (s : State) (cause : Nat), (wholeReset s cause).gov.fcap = s.fuses.fmax ∧ (wholeReset s cause).gov.plimit = s.fuses.pmax
      ∧ (wholeReset s cause).gov.tthrot = s.fuses.tthrot ∧ (wholeReset s cause).gov.tshut = s.fuses.tshut
      ∧ (wholeReset s cause).fuses = s.fuses ∧ (wholeReset s cause).flash = s.flash

/-- 14 R417, R418, 17 R476, R484: the rise of VDD_AON powers the island with RESET_CAUSE 0; the rise of PWR_GOOD samples the straps, and with
PERST_N deasserted bring-up begins, as it does when PERST_N is deasserted with power good; the fall of VDD_AON after PWR_GOOD takes the
island's power. -/
def Obligations.PowerUpBegins : Prop :=
  (∀ s : State, s.halter.vddAon = false →
    ∃ t, exec .vddAonRise s = .next t ∧ t.halter = { s.halter with vddAon := true, resetCause := 0, goodAt := none } ∧ t.chip = s.chip)
  ∧ (∀ s : State, s.halter.pwrGood = false →
    ∃ t, exec .vddAonFall s = .next t ∧ t.halter = { s.halter with vddAon := false, goodAt := none } ∧ t.chip = s.chip)
  ∧ (∀ (s : State) (straps : Nat), s.halter.vddAon = true → s.halter.pwrGood = false →
    ∃ t, exec (.pwrGoodRise straps) s = .next t ∧ t.halter.pwrGood = true ∧ t.halter.smbAddr = straps % 4
      ∧ t.halter.goodAt = some s.chip.clock
      ∧ (s.chip.dev = .off → s.halter.perstN = true → t.chip.dev = .bringup ∧ t.halter.bootAt = some s.chip.clock))
  ∧ ∀ s : State, s.halter.perstN = false →
    ∃ t, exec .perstNDeassert s = .next t ∧ t.halter.perstN = true
      ∧ (s.chip.dev = .off → s.halter.vddAon = true → s.halter.pwrGood = true → s.halter.shutdownHold = false →
          t.chip.dev = .bringup ∧ t.halter.bootAt = some s.chip.clock)

/-- 14 R419, R422, 13 R410, 04 R148: bring-up with every clock ends in WALK with its causes when one was found, else in HOLD when the image's
major is not the one asked for, else in READY; GEN rises, and latched doorbells are dropped. -/
def Obligations.BringupEndsInItsState : Prop :=
  ∀ (s : State) (test : BringupTest) (i : FwImage), s.chip.dev = .bringup → s.farrier.running = some i → s.halter.hclk = true →
    s.halter.sysclk = true → s.halter.refclk = true →
    ∃ t causes, exec (.bringupEnd test) s = .next t
      ∧ t.chip.dev = (if causes ≠ 0 then .walk else if s.farrier.ifaceReq ≠ 0 ∧ s.farrier.ifaceReq ≠ i.major then .hold else .ready)
      ∧ t.chip.ctt.gen = s.chip.ctt.gen + 1 ∧ t.chip.ctt.clmapValid = true ∧ (causes ≠ 0 → t.chip.walk = causes)
      ∧ (test.sramExhausted = true → bit causes.toNat 4 = true)
      ∧ (∀ p ∈ t.chip.tenants, p.2.dbLatch = []) ∧ t.fuses = s.fuses

/-- 17 R486 to R489: the entries to IDLE, DOZE and HALT in their conditions, and a wake by a host access from each, which leaves the
device ACTIVE. DOZE puts HBM into self-refresh; HALT saves every written scratch line, and a wake from it restores them (log 18). -/
def Obligations.PowerStatesGoAndCome : Prop :=
  (∀ s : State, isUp s.chip = true → s.halter.power = .active → quiet s = true → since s.halter.idleSince s.chip.clock 10000 = true →
    exec .idleEntry s = .next { s with halter := { s.halter with power := .idle } })
  ∧ (∀ s : State, isUp s.chip = true → s.halter.power = .idle → quiet s = true → s.halter.dozeEn = true →
    since s.halter.idleSince s.chip.clock (1000000 * s.halter.dozeDelayMs) = true →
    exec .dozeEntry s = .next { s with halter := { s.halter with power := .doze, dozeSince := some s.chip.clock, selfRefresh := true } })
  ∧ (∀ s : State, isUp s.chip = true → s.halter.power = .doze → s.halter.haltEn = true → haltBlock s = 0 →
    since s.halter.dozeSince s.chip.clock (1000000000 * s.halter.haltDelayS) = true →
    ∃ t, exec .haltEntry s = .next t ∧ t.halter.power = .halt ∧ t.halter.haltSave = haltLines s.chip ∧ t.halter.haltSince = s.chip.clock
      ∧ t.halter.watchCopy = s.chip.rein.watch ∧ t.chip.memory = { s.chip.memory with scratch := [], written := [] })
  ∧ (∀ (s : State) (levels : List Nat), isUp s.chip = true →
    ∃ t, exec (.wakeEvent .hostTlp levels) s = .next t ∧ t.halter.power = .active
      ∧ (s.halter.power ≠ .active → t.halter.selfRefresh = false)
      ∧ (s.halter.power = .halt → t.halter.haltSave = [] ∧ t.halter.wakeSrc = 0x1E)
      ∧ t.chip.memory.hbm = s.chip.memory.hbm ∧ t.chip.mems = s.chip.mems)
  ∧ (∀ (s : State) (levels : List Nat), s.halter.power = .halt →
    ∃ t, exec (.halterWake { line := .clkreq, levels := levels }) s = .next t ∧ t.halter.power = .active ∧ t.halter.wakeSrc = 0x1E ∧ t.halter.haltSave = [])
  ∧ ∀ (s : State) (src time : Nat), s.halter.power = .doze → isPin src = true → 2 ≤ (srcCfg s.chip src).sense →
    ((srcCfg s.chip src).coreEn || (srcCfg s.chip src).hostEn) = true → (∀ p ∈ s.chip.rein.latches, p.1 ≠ src) →
    ∃ t, exec (.asyncEdgeLatch src time) s = .next t ∧ t.chip.rein = { s.chip.rein with latches := s.chip.rein.latches ++ [(src, time)] }
      ∧ t.halter = s.halter

/-- 17 R19, R476: in every state with VDD_AON, from 2 ms after PWR_GOOD, the SMBus target answers its commands and rejects the others;
in OFF and HALT it reads 0xFF °C and 0 W. -/
def Obligations.SmbusAnswers : Prop :=
  ∀ s : State, smbusAnswers s = true →
    exec .smbusDevState s = .next { s with chip := emit s.chip (.smbus (some (devCode s.chip.dev))) }
    ∧ exec .smbusTjC s = .next { s with chip := emit s.chip (.smbus (some (if s.chip.dev = .off ∨ s.halter.power = .halt then 0xFF else s.gov.tj % 256))) }
    ∧ exec .smbusPowerW s = .next { s with chip := emit s.chip (.smbus (some (if s.chip.dev = .off ∨ s.halter.power = .halt then 0 else s.gov.power % 65536))) }
    ∧ exec .smbusResetCause s = .next { s with chip := emit s.chip (.smbus (some s.halter.resetCause)) }
    ∧ exec .smbusBoard s = .next { s with chip := emit s.chip (.smbus (some (boardOf s))) }
    ∧ ∀ code, 5 ≤ code → exec (.smbusOtherCommand code) s = .next { s with chip := emit s.chip (.smbus none) }

/-- 14 R425 to R428, 13 R409, 17 R482, R483: a sample that reaches a limit lowers the clock by 100 MHz, not below 600, unless it did so
less than 100 µs before; a step up raises it by 100 MHz, not beyond the cap; a failed hold and a regulator fault enter WALK with cause
GOVERNOR; ten good seconds clear that cause; the pin's level is taken as the throttle limit. That a value equal to its limit reaches it and that a
regulator fault is a cause at once are the model's readings (log 52). -/
def Obligations.GovernorActs : Prop :=
  (∀ (s : State) (tj power : Nat), governs s = true → (s.gov.tthrot ≤ tj ∨ s.gov.plimit ≤ power) →
    (∀ t, s.gov.lastDown = some t → t + 100000 ≤ s.chip.clock) →
    ∃ t, exec (.governorSample tj power) s = .next t ∧ t.gov.clMhz = max 600 (s.gov.clMhz - 100) ∧ t.gov.tj = tj ∧ t.gov.power = power
      ∧ t.gov.lastDown = some s.chip.clock ∧ t.gov.fcap = s.gov.fcap
      ∧ (s.gov.tshut ≤ tj → t.gov.shutdownPending = true) ∧ t.chip.queues = s.chip.queues)
  ∧ (∀ s : State, governs s = true → s.chip.dev ≠ .bringup → cool s.gov = true → light s.gov = true → throttling s.gov = false →
    s.gov.regFault = false → s.gov.clMhz < s.gov.fcap → since s.gov.lastUp s.chip.clock 10000000 = true →
    ∃ t, exec .governorStepUp s = .next t ∧ t.gov = { s.gov with clMhz := min s.gov.fcap (s.gov.clMhz + 100), lastUp := some s.chip.clock })
  ∧ (∀ s : State, governs s = true → since s.gov.stuckSince s.chip.clock 1000000000 = true →
    exec .governorHoldFail s = .next (arbitrated { s with gov := { s.gov with holdFail := true } } (walkEntry s.chip (envOf s) 0)))
  ∧ (∀ s : State, governs s = true → bit s.chip.walk.toNat 0 = true → since s.gov.heldSince s.chip.clock 10000000000 = true →
    ∃ t, exec .governorCauseClear s = .next t ∧ t.chip = { s.chip with walkCleared := s.chip.walkCleared ||| 1 } ∧ t.gov = s.gov)
  ∧ (∀ (s : State) (low : Bool), governs s = true → s.gov.extAlert ≠ low →
    ∃ t, exec (.thermAlertN low) s = .next t ∧ t.gov.extAlert = low ∧ (low = true → t.gov.thermalLimiting = true)
      ∧ t.gov.tj = s.gov.tj ∧ t.gov.power = s.gov.power)
  ∧ ∀ s : State, governs s = true → s.gov.regFault = false →
    ∃ t, exec .regulatorFault s = .next t ∧ t.gov = { s.gov with regFault := true, clMhz := 600, holdFail := true, heldSince := none }

/-! ### Beats, interrupts, freezes -/

/-- 06 R205 to R209: a boundary passes at its time: the count rises by 1 and the next boundary lies one period later, changed by the
correction, which ends; BEAT_OUT goes high with it. An accepted edge of BEAT_SYNC_IN with none associated before sets its phase error; four
periods without one put the domain into FREE_RUN; 10 µs after its rise BEAT_OUT goes low, and not before. -/
def Obligations.BeatEvents : Prop :=
  (∀ (s : State) (d : Nat) (b : Beat), isUp s.chip = true → d < 8 → tget s.beats d = some b → b.next ≤ s.chip.gait →
    ∃ t, exec (.beatBoundary d) s = .next t
      ∧ tget t.beats d = some { b with last := b.next, next := ((b.next + b.period : Nat) + b.corr.getD 0).toNat, corr := none,
                                       edgeLast := b.edgeNext, edgeNext := false, beats := b.beats + 1 }
      ∧ (∀ i, i ≠ d → tget t.beats i = tget s.beats i) ∧ (b.out = true → t.halter.beatOut = true ∧ t.halter.beatRise = s.chip.clock)
      ∧ (b.out = false → t.halter = s.halter))
  ∧ (∀ s : State, s.halter.beatOut = true →
    (s.halter.beatRise + 10000 ≤ s.chip.clock →
      ∃ t, exec .beatOutPulseEnd s = .next t ∧ t.halter = { s.halter with beatOut := false } ∧ t.chip.out = s.chip.out ++ [.pin 0 false]
        ∧ t.beats = s.beats)
    ∧ (s.chip.clock < s.halter.beatRise + 10000 → exec .beatOutPulseEnd s = .next s))
  ∧ (∀ (s : State) (d time : Nat) (b : Beat) (r : List Nat), isUp s.chip = true → time ≤ s.chip.gait → s.chip.rein.edges = time :: r →
    extDomain s = some (d, b) → b.period < 2147483648 →
    (b.last + b.period / 2 ≤ time → time ≤ b.next → b.next - time ≤ b.period / 8 → b.edgeNext = false →
      ∃ t, exec (.beatSyncEdge time) s = .next t ∧ t.chip = { s.chip with rein := { s.chip.rein with edges := r } }
        ∧ tget t.beats d = some { b with lastEdge := time, phaseErr := (time : Int) - b.next, edgeNext := true, oobRun := [], state := 2,
                                         corr := some ((time : Int) - b.next) })
    ∧ (b.last + b.period / 2 ≤ time → b.edgeNext = true →
      ∃ t, exec (.beatSyncEdge time) s = .next t ∧ t.chip = { s.chip with rein := { s.chip.rein with edges := r } }
        ∧ tget t.beats d = some { b with lastEdge := time, extra := min (b.extra + 1) 0xFFFF }))
  ∧ ∀ (s : State) (d : Nat) (b : Beat), isUp s.chip = true → d < 8 → tget s.beats d = some b → b.ext = true → b.state ≠ 3 →
    b.lastEdge + 4 * b.period ≤ s.chip.gait →
    ∃ t, exec (.freeRun d) s = .next t ∧ tget t.beats d = some { b with state := 3, freerunSeen := true, corr := none }
      ∧ t.chip = raiseSource s.chip (16 + d)

/-- 12 R364 to R370: a change of a pin that has held for its filter takes the level; an occurrence on an owned event source whose paths are
enabled makes it pending on each; the core path delivers a pending source to its core, which has the source active and its priority on
the stack; that core's completion ends both. -/
def Obligations.CorePathDelivers : Prop :=
  (∀ (s : State) (src t : Nat) (level : Bool), sensing s = true → isPin src = true → s.chip.rein.levels.contains src ≠ level →
    held s.chip src t = true → ∃ u, exec (.filterAccept src level t) s = .next u ∧ u.chip.rein.levels.contains src = level
      ∧ u.chip.memory = s.chip.memory ∧ u.halter = s.halter)
  ∧ (∀ (s : State) (src : Nat), s.chip.dev ≠ .off → isPin src = false → src < 2048 → (srcOwner s.chip src).isSome = true →
    ∃ u, exec (.sourceEvent src) s = .next u
      ∧ ((srcCfg s.chip src).coreEn = true → u.chip.rein.pendingCore.contains src = true)
      ∧ ((srcCfg s.chip src).hostEn = true → u.chip.rein.pendingHost.contains src = true)
      ∧ u.chip.memory = s.chip.memory ∧ u.chip.queues = s.chip.queues)
  ∧ (∀ (s : State) (src k : Nat) (tie : Bool), inGap s.farrier = false → s.chip.dev ≠ .off → s.chip.rein.pendingCore = [src] →
    coreReady s.chip src = true → chooseCore s.chip (srcCfg s.chip src) = some (k, tie) →
    ∃ u, exec (.coreDelivery src) s = .next u ∧ u.chip.rein.pendingCore = [] ∧ tget u.chip.rein.activeCore src = some k
      ∧ (coreOf u.chip k).stack = (srcCfg s.chip src).priority :: (coreOf s.chip k).stack
      ∧ u.chip.out = s.chip.out ++ [.coreVector k ((coreOf s.chip k).vbase + BitVec.ofNat 32 (32 * (srcCfg s.chip src).coreVector))])
  ∧ ∀ (s : State) (k src : Nat), s.chip.dev ≠ .off → k < 8 →
    (tget s.chip.rein.activeCore src = some k →
      ∃ u, exec (.coreEoi k src) s = .next u ∧ tget u.chip.rein.activeCore src = none
        ∧ (coreOf u.chip k).stack = (coreOf s.chip k).stack.drop 1 ∧ u.chip.rein.spurious = s.chip.rein.spurious)
    ∧ (tget s.chip.rein.activeCore src ≠ some k →
      ∃ u, exec (.coreEoi k src) s = .next u
        ∧ u.chip = { s.chip with rein := { s.chip.rein with spurious := BitVec.ofNat 32 (min (s.chip.rein.spurious.toNat + 1) 0xFFFFFFFF) } })

/-- 15 R455 to R458: a pending freeze latches every counter, as it stood when the gait counter reached its time, and FREEZE_OUT goes high,
until the end of its pulse; a broadcast frame of this slice makes a freeze pending, forwarded once by its FREEZE_ID, and while a bank is
held it is missed and counted. In DOZE the frame first wakes the device (log 58). -/
def Obligations.FreezesLatchOnce : Prop :=
  (∀ (s : State) (p : Freeze), s.chip.counters.pendingFreeze = some p → p.tf ≤ s.chip.gait →
    ∃ t, exec .freezeLatch s = .next t ∧ t.chip.counters.pendingFreeze = none
      ∧ t.chip.counters.heldBank = some (p, s.chip.counters.atTf.getD s.chip.counters.value) ∧ (isUp s.chip = true → t.halter.freezeOut = true))
  ∧ (∀ s : State, s.halter.freezeOut = true →
    ∃ t, exec .freezeOutPulseEnd s = .next t ∧ t.halter.freezeOut = false ∧ t.chip.counters = s.chip.counters)
  ∧ ∀ (s u : State) (port tf : Nat) (id slice : W16), u = ungated s → (upPorts s.fabric).contains port = true →
    freezeAgreed u.chip = true → slice.toNat = (placeNow u).slice → isUp u.chip = true →
    ∃ t, exec (.freezeBroadcastFrame port tf id slice) s = .next t ∧ t.chip.counters.forwarded.contains id = true
      ∧ (u.chip.counters.heldBank = none → u.chip.counters.pendingFreeze = none →
          t.chip.counters.pendingFreeze = some { tf := tf, id := id, source := 2, broadcast := true })
      ∧ (u.chip.counters.heldBank.isSome = true → t.chip.counters.missed = satAdd u.chip.counters.missed 1 0xFFFF)
      ∧ (u.chip.counters.forwarded.contains id = true → t.chip.out = u.chip.out)

/-! ### The fabric -/

/-- 11 R334 to R340: a trained port with a credit sends its HELLO; a legal HELLO is kept and classifies a trained port, and one with
reserved bits set changes nothing; training, half a second of silence, and loss of signal move the port's state; a port's first lane
failure takes the spare, the second halves it, and it retrains; a frame error resends the frame that is not acknowledged, the eighth of
one frame in a row is a burst, and the port retrains; the 1,025th of a lane in a second fails the lane; discovery completes. -/
def Obligations.PortEvents : Prop :=
  (∀ (s : State) (q : Nat), portsLive s q = true → (portOf s.fabric q).trained = true → roomFor s.fabric s.chip q 2 →
    ∃ c, exec (.helloSend q) s = .next { s with chip := c } ∧ sends s.chip c q 2 (.hello q (helloOut s q)))
  ∧ (∀ (s : State) (q : Nat) (h : W256), portsLive s q = true →
    (hLegal h = true → (portOf s.fabric q).trained = true →
      ∃ t, exec (.helloReceive q h) s = .next t ∧ (portOf t.fabric q).hello = some h ∧ (portOf t.fabric q).state = classify (placeNow s) q h
        ∧ ∀ p, p ≠ q → portOf t.fabric p = portOf s.fabric p)
    ∧ (hLegal h = false → exec (.helloReceive q h) s = .next (ungated s)))
  ∧ (∀ (s : State) (q : Nat), portsLive s q = true →
    ∃ t, exec (.portTrained q) s = .next t ∧ (portOf t.fabric q).trained = true ∧ (portOf t.fabric q).retraining = none
      ∧ (portOf t.fabric q).state = (if (portOf s.fabric q).heard then classify (placeNow s) q ((portOf s.fabric q).hello.getD 0) else 1))
  ∧ (∀ (s : State) (q : Nat), portsLive s q = true → (portOf s.fabric q).state = 1 → (portOf s.fabric q).heard = false →
    (portOf s.fabric q).trained = false → (portOf s.fabric q).trainAt + 500000000 ≤ s.chip.clock →
    ∃ t, exec (.portMissing q) s = .next t
      ∧ (portOf t.fabric q).state = (if (partner (placeNow s) q).isSome then 3 else 0))
  ∧ (∀ (s : State) (q : Nat), exec (.trainingRetry q) s = .next s)
  ∧ (∀ (s : State) (q : Nat), portsLive s q = true → (portOf s.fabric q).trained = true →
    ∃ t, exec (.signalLoss q) s = .next t ∧ (portOf t.fabric q).state = 1 ∧ (portOf t.fabric q).trained = false)
  ∧ (∀ s : State, s.chip.dev ≠ .off → (∀ q, q < 4 → (portOf s.fabric q).state = 2) → s.chip.ctt.topoValid = false →
    ∃ t, exec .discoveryComplete s = .next t ∧ t.chip.ctt = { s.chip.ctt with topoValid := true } ∧ t.fabric = s.fabric)
  ∧ (∀ (s : State) (q : Nat), portsLive s q = true → (portOf s.fabric q).trained = true →
    ((portOf s.fabric q).spareInUse = false →
      ∃ t, exec (.laneFailure q) s = .next t ∧ (portOf t.fabric q).spareInUse = true ∧ (portOf t.fabric q).half = (portOf s.fabric q).half
        ∧ (portOf t.fabric q).laneSwaps.toNat = min ((portOf s.fabric q).laneSwaps.toNat + 1) 0xFFFFFFFF)
    ∧ ((portOf s.fabric q).spareInUse = true →
      ∃ t, exec (.laneFailure q) s = .next t ∧ (portOf t.fabric q).half = true ∧ (portOf t.fabric q).retraining = some s.chip.clock))
  ∧ ∀ (s u : State) (q n lane : Nat) (f : TxFrame), u = ungated s → portsLive s q = true → (portOf s.fabric q).trained = true →
    (portOf s.fabric q).retraining = none → (linkTxOf u.chip q).sent.find? (fun g => g.seqNo == n) = some f →
    ∃ t, exec (.frameCrcError q { seqNo := n, lane := lane }) s = .next t
      ∧ (portOf t.fabric q).retries.toNat = min ((portOf s.fabric q).retries.toNat + 1) 0xFFFFFFFFFFFFFFFF
      ∧ (portOf t.fabric q).state = (portOf s.fabric q).state
      ∧ (laneErrors (portOf s.fabric q) lane < 1024 → t.chip.out = u.chip.out ++ [f.body])
      ∧ ((portOf s.fabric q).streak = 7 → (portOf s.fabric q).seqNo = n →
          (portOf t.fabric q).bursts.toNat = min ((portOf s.fabric q).bursts.toNat + 1) 0xFFFFFFFF ∧ (portOf t.fabric q).streak = 0
            ∧ (portOf t.fabric q).retraining = some s.chip.clock)
      ∧ (1024 ≤ (portOf s.fabric q).errs.countP (fun p => p.1 == lane && s.chip.clock < p.2 + 1000000000) →
          (portOf t.fabric q).spareInUse = true)

/-- 11 R345, R350, R351, R356, R357: a routed frame of this slice on an UP port goes out on the port its route names, and another slice's
frame, or one without a route, is dropped and counted; a remote request whose checks fail is refused and counted, a write of another
chip stores its bytes, a read is answered with the object's; time frames carry the gait count, HOPS and ALIGNED, and a child's request is
answered; the parent's frame gives the offset, and the round trip delay and offset. -/
def Obligations.FabricFrames : Prop :=
  (∀ (s : State) (q : Nat) (f : Frame), portsLive s q = true → (portOf s.fabric q).state = 2 →
    (f.slice.toNat ≠ (placeNow s).slice →
      exec (.frameHop q f) s = .next { s with chip :=
        { s.chip with dropSlice := BitVec.ofNat 64 (min (s.chip.dropSlice.toNat + 1) 0xFFFFFFFFFFFFFFFF) } })
    ∧ (f.slice.toNat = (placeNow s).slice → 4 < (route s.fabric (placeNow s) (f.dest % 256)).1 →
      exec (.frameHop q f) s = .next { s with chip :=
        { s.chip with dropRoute := BitVec.ofNat 64 (min (s.chip.dropRoute.toNat + 1) 0xFFFFFFFFFFFFFFFF) } })
    ∧ ∀ p, f.slice.toNat = (placeNow s).slice → (route s.fabric (placeNow s) (f.dest % 256)).1 = p → p < 4 →
      roomFor s.fabric s.chip p (if f.rsp then 1 else 0) →
      ∃ c, exec (.frameHop q f) s = .next { s with chip := c } ∧ sends s.chip c p (if f.rsp then 1 else 0) (.forwarded p f))
  ∧ (∀ (s : State) (r : RemoteReq) (p : Nat), s.chip.dev = .ready → s.halter.power = .active → inGap s.farrier = false →
    r.slice.toNat = (placeNow s).slice → (route s.fabric (placeNow s) (placeNow s).num).1 = 4 →
    (route s.fabric (placeNow s) (r.srcChip % 256)).1 = p → p < 4 → roomFor s.fabric s.chip p 1 →
    (∀ w, targetCheck s.chip r.token r.tenant r.isWrite r.off r.length = some (stHandle, w) →
      ∃ c, exec (.remoteRequest r) s = .next { s with chip := c } ∧ replies s c p (r.srcChip % 256) r.tenant .faultHandle
        ∧ c.remoteRefused = BitVec.ofNat 64 (min (s.chip.remoteRefused.toNat + 1) 0xFFFFFFFFFFFFFFFF))
    ∧ (∀ w, targetCheck s.chip r.token r.tenant r.isWrite r.off r.length = some (stWindow, w) →
      ∃ c, exec (.remoteRequest r) s = .next { s with chip := c } ∧ replies s c p (r.srcChip % 256) r.tenant (.faultWindow w)
        ∧ c.remoteRefused = BitVec.ofNat 64 (min (s.chip.remoteRefused.toNat + 1) 0xFFFFFFFFFFFFFFFF))
    ∧ ∀ (i : Nat) (k : Token) (m : MemObj), targetCheck s.chip r.token r.tenant r.isWrite r.off r.length = none →
      tokenOf s.chip r.token = some (i, k) → tget s.chip.mems k.mem = some m →
      (r.isWrite = true → (∀ o ∈ s.chip.mems, o.2.lazy = false) →
        ∃ c, exec (.remoteRequest r) s = .next { s with chip := c }
          ∧ c.out = s.chip.out ++ [.reply p (r.srcChip % 256) (BitVec.ofNat 16 (placeNow s).slice) r.tenant (.done [])]
          ∧ tget c.mems k.mem = some { m with stamp := m.stamp + 1 }
          ∧ (∀ j, j < r.length → readByte c.memory.hbm (m.at m.pub r.off + j) = r.data.getD j 0)
          ∧ ∀ a, (a < m.at m.pub r.off ∨ m.at m.pub r.off + r.length ≤ a) → readByte c.memory.hbm a = readByte s.chip.memory.hbm a)
      ∧ (r.isWrite = false → readPoison s.chip (m.at m.pub r.off) r.length = none →
        ∃ c, exec (.remoteRequest r) s = .next { s with chip := c }
          ∧ replies s c p (r.srcChip % 256) r.tenant (.done (loadDev s.chip (m.at m.pub r.off) r.length))))
  ∧ (∀ (s : State) (q : Nat), portsLive s q = true → (portOf s.fabric q).trained = true → roomFor s.fabric s.chip q 2 →
    (∃ c, exec (.timeFrameSend q) s = .next { s with chip := c }
      ∧ sends s.chip c q 2 (.timeFrame q s.chip.gait s.fabric.hops (alignedNow s.chip.dev s.fabric (placeNow s))))
    ∧ ∀ (carried hops : Nat) (aligned : Bool), ∃ c, exec (.timeFrameReceive q true carried hops aligned) s = .next { s with chip := c }
      ∧ sends s.chip c q 2 (.timeReply q s.chip.gait s.chip.gait))
  ∧ (∀ (s : State) (q carried hops : Nat) (aligned : Bool), portsLive s q = true → (portOf s.fabric q).trained = true →
    ∃ t, exec (.timeFrameReceive q false carried hops aligned) s = .next t ∧ (portOf t.fabric q).hops = some (min hops 255)
      ∧ (portOf t.fabric q).aligned = aligned ∧ t.chip.queues = s.chip.queues
      ∧ (s.fabric.parent = some q → s.fabric.measured = true →
          parentOf (setPort s q { portOf s.fabric q with hops := some (min hops 255), aligned := aligned }).fabric (placeNow s) = some q →
          t.fabric.offset = (carried : Int) + s.fabric.delay - s.chip.gait))
  ∧ ∀ (s : State) (q t1 t2 t3 : Nat), portsLive s q = true → (portOf s.fabric q).trained = true → s.fabric.parent = some q →
    s.fabric.asked = some t1 →
    ∃ t, exec (.roundTrip q t1 t2 t3 s.chip.gait) s = .next t ∧ t.fabric.measured = true ∧ t.fabric.asked = none
      ∧ t.fabric.offset = (((t2 : Int) - t1) + ((t3 : Int) - s.chip.gait)) / 2
      ∧ t.fabric.delay = (((s.chip.gait : Int) - t1) - ((t3 : Int) - t2)) / 2

/-! ### Packets -/

/-- 04 R124, R125, 05 R176, 06 R187, R188, 13 R391: PACKET_FETCH of the queue that ranks highest among those with fetchable packets takes
the next whole packet of the ring, as the queue's last command, or of the body of the list that runs, and one logbook unit. Every object
has room for two references. A body packet stands before the ring packets that were fetched behind its list (log 75). -/
def Obligations.FetchTakesOnePacket : Prop :=
  (∀ (s : State) (q len : Nat) (x : Queue) (y : Context), tget s.chip.queues q = some x → tget s.chip.contexts x.ctx = some y →
    isUp s.chip = true → s.halter.power = .active → y.runnable = true → x.cmds.length < 64 → x.owed = [] → s.chip.logFree ≠ 0 →
    x.lists = [] → x.refs.host ≠ 0 → listPending x = false → refsFit s.chip = true → fetchOutranked s.chip (envOf s) q = false →
    len = lenOf (sqCell s.chip x x.head.toNat).toNat → 1 ≤ len → len ≤ pow2 x.sqLog2 → len ≤ (x.tail - x.head).toNat →
    sqPoison s.chip x x.head.toNat 1 = none → sqPoison s.chip x x.head.toNat len = none →
    ∃ t y' k, exec (.packetFetch q) s = .next t ∧ tget t.chip.queues q = some y' ∧ y'.cmds = x.cmds ++ [k] ∧ y'.head = x.head + BitVec.ofNat 32 len
      ∧ y'.nextSeq = x.nextSeq + 1 ∧ k.seq = x.nextSeq ∧ k.phase = .fetched ∧ k.list = none
      ∧ k.cells = (List.range len).map (fun i => sqCell s.chip x (x.head.toNat + i))
      ∧ t.chip.logFree = s.chip.logFree - 1 ∧ t.chip.memory = s.chip.memory)
  ∧ ∀ (s : State) (q : Nat) (x : Queue) (y : Context) (l : ListExec) (m : MemObj) (h : W128), tget s.chip.queues q = some x →
    tget s.chip.contexts x.ctx = some y → isUp s.chip = true → s.halter.power = .active → y.runnable = true →
    x.cmds.length + x.lists.length < 64 → x.owed = [] → s.chip.logFree ≠ 0 → x.lists.getLast? = some l → l.ended = false → l.ctl = false →
    refsFit s.chip = true → fetchOutranked s.chip (envOf s) q = false → tget s.chip.mems l.mem = some m →
    listCells s.chip l.mem l.half l.off (1 + l.params.length + l.pos) 1 = [h] →
    1 ≤ lenOf h.toNat → l.pos + lenOf h.toNat ≤ l.body →
    readPoison s.chip (m.at l.half (l.off + 16 * (1 + l.params.length + l.pos))) (16 * lenOf h.toNat) = none →
    ∃ t y' k, exec (.packetFetch q) s = .next t ∧ tget t.chip.queues q = some y' ∧ k ∈ y'.cmds ∧ y'.head = x.head
      ∧ ((∀ j ∈ x.cmds, j.list.isSome = true ∨ j.seq ≤ l.cmd.seq) → y'.cmds = x.cmds ++ [k])
      ∧ k.seq = x.nextSeq ∧ k.phase = .fetched ∧ k.list = some l.cmd.seq ∧ k.pos = l.pos
      ∧ k.cells = listCells s.chip l.mem l.half l.off (1 + l.params.length + l.pos) (lenOf h.toNat)
      ∧ t.chip.logFree = s.chip.logFree - 1 ∧ t.chip.memory = s.chip.memory

/-- 05 R162, R167, R186, 15 R455: NOP and TAG complete with OK and change no object; FREEZE completes with OK and, with no bank held and none
pending, makes a freeze 50 µs ahead pending; an undefined opcode fails with PROGRAM_FAULT, DETAIL 0x01 (R153). -/
def Obligations.PlainPacketsComplete : Prop :=
  (∀ (s : State) (q : Nat) (x : Queue) (k : Cmd), startsAs s q (only opNop) x k →
    ∃ c, exec (.nop q) s = .next (arbitrated s c) ∧ cmdSat c q k.seq (completedWith stOk) ∧ sameObjects s.chip c)
  ∧ (∀ (s : State) (q : Nat) (x : Queue) (k : Cmd), startsAs s q (only opTag) x k →
    ∃ c, exec (.tag q) s = .next (arbitrated s c) ∧ cmdSat c q k.seq (completedWith stOk) ∧ sameObjects s.chip c)
  ∧ (∀ (s : State) (q : Nat) (x : Queue) (k : Cmd), startsAs s q (only opFreeze) x k →
    ∃ c, exec (.freeze q) s = .next (arbitrated s c) ∧ cmdSat c q k.seq (completedWith stOk)
      ∧ (s.chip.counters.heldBank = none → s.chip.counters.pendingFreeze = none →
          ∃ i, c.counters.pendingFreeze = some { tf := s.chip.gait + 50000, id := i, source := 3, broadcast := bit k.bits 64 }
            ∧ i.toNat = (256 * (placeNow s).num + (s.chip.counters.seq + 1) % 256) % 65536))
  ∧ ∀ (s : State) (q : Nat) (x : Queue) (k : Cmd) (f : FaultInfo), tget s.chip.queues q = some x → letRun x k → x.refs.host ≠ 0 →
    startOf s.chip (envOf s) q (fun o => !opDefined o) = .fail k stProgram 1 f →
    ∃ c, exec (.undefinedOpcode q) s = .next (arbitrated s c) ∧ cmdSat c q k.seq (fun j => completedWith stProgram j ∧ j.detail = 1)

/-- 05 R170, R171: SCALAR_OP completes with OK and holds, for its retirement, the result of its operation on its two operands for its
destination slot. Operation 0x01 wraps modulo 2^64, and 0x0E by 0 gives all ones. -/
def Obligations.ScalarOpComputes : Prop :=
  (∀ (s : State) (q : Nat) (x : Queue) (k : Cmd), startsAs s q (only opScalar) x k →
    ∃ c, exec (.scalarOp q) s = .next (arbitrated s c) ∧ sameObjects s.chip c ∧ cmdSat c q k.seq (fun j => completedWith stOk j
      ∧ j.scalarW = [(bits k.bits 79 72, (scalarResult (bits k.bits 71 64) (slotVal s.chip x k (bits k.bits 87 80))
          (if bit k.bits 96 then BitVec.ofNat 64 (bits k.bits 191 128) else slotVal s.chip x k (bits k.bits 95 88))).1)]))
  ∧ (∀ a b : W64, (scalarResult 1 a b).1.toNat = (a.toNat + b.toNat) % 18446744073709551616)
  ∧ ∀ a : W64, (scalarResult 14 a 0).1 = 0xFFFFFFFFFFFFFFFF

/-- 02 R70, R72, R74, 05 R168: WAIT_HITCH on a broken hitch fails with BROKEN_INPUT; on one that has reached its target it completes with OK; else,
with a slot free, it registers and waits. A wait held for a slot registers once one is free, and a wait whose TIMEOUT_US is over
fails with TIMEOUT. -/
def Obligations.WaitsRegisterAndEnd : Prop :=
  (∀ (s : State) (q : Nat) (x : Queue) (k : Cmd) (y : Hitch), startsAs s q (only opWait) x k →
    tget s.chip.hitches (hIndex (fieldHandle k.bits 95)) = some y →
    (y.broken ≠ 0 → x.refs.host ≠ 0 →
      ∃ c, exec (.waitHitch q) s = .next (arbitrated s c) ∧ cmdSat c q k.seq (completedWith stBroken))
    ∧ (y.broken = 0 → (targetOf k).toNat ≤ y.value.toNat →
      ∃ c, exec (.waitHitch q) s = .next (arbitrated s c) ∧ cmdSat c q k.seq (completedWith stOk) ∧ sameObjects s.chip c)
    ∧ (y.broken = 0 → y.value.toNat < (targetOf k).toNat → slotRoom s.chip x.owner = true →
      ∃ c y' w, exec (.waitHitch q) s = .next (arbitrated s c) ∧ cmdSat c q k.seq (fun j => j.phase = .waiting)
        ∧ tget c.hitches (hIndex (fieldHandle k.bits 95)) = some y' ∧ y'.value = y.value
        ∧ y'.waiters = y.waiters ++ [.cmd q k.seq (targetOf k) w] ∧ c.memory = s.chip.memory)
    ∧ (y.broken = 0 → y.value.toNat < (targetOf k).toNat → slotRoom s.chip x.owner = false →
      ∃ c, exec (.waitHitch q) s = .next (arbitrated s c) ∧ cmdSat c q k.seq (fun j => j.phase = .wantSlot ∧ j.slotWait = true)))
  ∧ (∀ (s : State) (q : Nat) (x : Queue) (k : Cmd) (y : Hitch), tget s.chip.queues q = some x →
    x.cmds.find? (fun k => k.phase == .wantSlot) = some k → tget s.chip.hitches (hIndex (fieldHandle k.bits 95)) = some y →
    slotRoom s.chip x.owner = true → refRoom s.chip (fieldHandle k.bits 95) = true → y.broken = 0 → y.value.toNat < (targetOf k).toNat →
    ∃ c, exec (.waitSlotObtained q) s = .next (arbitrated s c) ∧ cmdSat c q k.seq (fun j => j.phase = .waiting))
  ∧ ∀ (s : State) (q : Nat) (x : Queue) (k : Cmd), tget s.chip.queues q = some x →
    x.cmds.find? (fun k => k.phase == .waiting || k.phase == .wantSlot) = some k → staysKnown x k → timeoutUs k ≠ 0 →
    k.startClock + 1000 * timeoutUs k ≤ s.chip.clock →
    ∃ c, exec (.waitTimeout q) s = .next (arbitrated s c) ∧ cmdSat c q k.seq (completedWith stTimeout)

/-- 02 R69, R73 to R75: SIGNAL_HITCH on a hitch that is not broken sets the value to the greater of the value and its target, and completes
with OK; where that releases nobody, the hitch is else unchanged, as are the other hitches and memory. On a broken hitch it leaves value
and broken record as they were, completes with BROKEN_INPUT and, outside a window, puts its queue into error. The host holds queue and hitch. -/
def Obligations.SignalRaisesItsHitch : Prop :=
  ∀ (s : State) (q : Nat) (x : Queue) (k : Cmd) (y : Hitch), startsAs s q (only opSignal) x k → tget s.chip.queues q = some x →
    tget s.chip.hitches (hIndex (fieldHandle k.bits 95)) = some y → x.refs.host ≠ 0 → y.refs.host ≠ 0 →
    (y.broken = 0 →
      ∃ c y', exec (.signalHitch q) s = .next (arbitrated s c) ∧ cmdSat c q k.seq (completedWith stOk)
        ∧ tget c.hitches (hIndex (fieldHandle k.bits 95)) = some y' ∧ y'.value.toNat = max y.value.toNat (targetOf k).toNat
        ∧ ((∀ w ∈ y.waiters, max y.value.toNat (targetOf k).toNat < w.goal) →
            y' = { y with value := BitVec.ofNat 64 (max y.value.toNat (targetOf k).toNat) }
            ∧ (∀ h, h ≠ hIndex (fieldHandle k.bits 95) → tget c.hitches h = tget s.chip.hitches h) ∧ c.memory = s.chip.memory))
    ∧ (y.broken ≠ 0 →
      ∃ c y' j, exec (.signalHitch q) s = .next (arbitrated s c) ∧ cmdSat c q k.seq (completedWith stBroken)
        ∧ tget c.hitches (hIndex (fieldHandle k.bits 95)) = some y' ∧ y'.value = y.value ∧ y'.broken = y.broken
        ∧ tget c.queues q = some j ∧ (x.segs = [] → j.err.isSome = true))

/-- 02 R87 to R90: QUERY outside a window, of a device destination whose window check passes, completes with OK and stores its record
there. -/
def Obligations.QueryStoresItsRecord : Prop :=
  ∀ (s : State) (q m : Nat) (x : Queue) (k : Cmd) (o : MemObj), startsAs s q (only opQuery) x k → inWindow x = false →
    memNamed s.chip x.owner k (fieldHandle k.bits 159) = some (m, o) → o.kind = .device →
    windowReason s.chip x.owner o (writeHalf x o) (bits k.bits 255 192)
      (queryRecord s.chip (bits k.bits 71 64) (hIndex (fieldHandle k.bits 127))).length = none →
    ∃ c, exec (.query q) s = .next (arbitrated s c) ∧ cmdSat c q k.seq (completedWith stOk)
      ∧ ∀ i, i < (queryRecord s.chip (bits k.bits 71 64) (hIndex (fieldHandle k.bits 127))).length →
          readByte c.memory.hbm (o.at (writeHalf x o) (bits k.bits 255 192) + i)
            = (queryRecord s.chip (bits k.bits 71 64) (hIndex (fieldHandle k.bits 127))).getD i 0

/-- 05 R175 to R178, R181, 06 R213: a list with a sound header starts at position 0 with its patched parameters, unless a bisect of count 0
waits for it (R185); BRANCH with its slots known goes where its comparison says, and one whose slots are still to be written opens a
segment on its predicted side; LOOP_BEGIN enters its body or skips it; LOOP_END goes round or on. -/
def Obligations.ListsRunTheirControl : Prop :=
  (∀ (s : State) (q mem half off body : Nat) (x : Queue) (k : Cmd) (ps : List Param), readList s.chip x k = .go mem half off body ps →
    k.list = none → bisectFor s.chip x.ctx ≠ some 0 →
    (startsAs s q (only opList) x k →
      ∃ c y l, exec (.launchList q) s = .next (arbitrated s c) ∧ tget c.queues q = some y ∧ y.lists = x.lists ++ [l] ∧ l.cmd.seq = k.seq
        ∧ l.pos = 0 ∧ l.body = body ∧ l.params = ps ∧ l.ended = false ∧ l.stack = [])
    ∧ (startsAs s q (only opReplayList) x k →
      ∃ c y l, exec (.replayList q) s = .next (arbitrated s c) ∧ tget c.queues q = some y ∧ y.lists = x.lists ++ [l] ∧ l.cmd.seq = k.seq
        ∧ l.pos = 0 ∧ l.body = body ∧ l.params = ps ∧ l.ended = false ∧ l.stack = []))
  ∧ (∀ (s : State) (q : Nat) (x : Queue) (k : Cmd) (l : ListExec) (t : Nat × List LoopEntry), startsAs s q (only opBranch) x k →
    k.list.bind (listOf x) = some l → branchTaken l k = some t → l.ended = false →
    (slotBlocked s.chip x k = false →
      ∃ c y g, exec (.branch q) s = .next (arbitrated s c) ∧ cmdSat c q k.seq (completedWith stOk) ∧ tget c.queues q = some y
        ∧ listOf y l.cmd.seq = some g ∧ (g.pos, g.stack) = (if branchOutcome s.chip x k then t else (k.pos + 2, l.stack)) ∧ g.ctl = false)
    ∧ (slotBlocked s.chip x k = true →
      ∃ c y g w, exec (.branch q) s = .next (arbitrated s c) ∧ cmdSat c q k.seq (fun j => j.phase = .branching) ∧ tget c.queues q = some y
        ∧ y.segs = x.segs ++ [w] ∧ w.branch = k.seq ∧ w.predict = bit k.bits 84 ∧ w.confirmed = false
        ∧ listOf y l.cmd.seq = some g ∧ (g.pos, g.stack) = (if bit k.bits 84 then t else (k.pos + 2, l.stack))))
  ∧ (∀ (s : State) (q n count : Nat) (x : Queue) (k : Cmd) (l : ListExec), startsAs s q (only opLoopBegin) x k →
    k.list.bind (listOf x) = some l → n = bits k.bits 127 96 → 2 ≤ n → k.pos + n < l.body → l.ended = false → l.stack.length < 4 →
    count = (if bit k.bits 72 then bits k.bits 191 128 else (slotVal s.chip x k (bits k.bits 71 64)).toNat) →
    ∃ c y g, exec (.loopBegin q) s = .next (arbitrated s c) ∧ cmdSat c q k.seq (completedWith stOk) ∧ tget c.queues q = some y
      ∧ listOf y l.cmd.seq = some g
      ∧ (g.pos, g.stack) = (if count = 0 then (k.pos + n + 1, l.stack)
          else (k.pos + 2, { b := k.pos, e := k.pos + n, count := count } :: l.stack)))
  ∧ ∀ (s : State) (q : Nat) (x : Queue) (k : Cmd) (l : ListExec) (i : LoopEntry) (r : List LoopEntry), startsAs s q (only opLoopEnd) x k →
    k.list.bind (listOf x) = some l → l.stack = i :: r → l.ended = false → i.b + bits k.bits 127 96 = k.pos → k.pos = i.e →
    ∃ c y g, exec (.loopEnd q) s = .next (arbitrated s c) ∧ cmdSat c q k.seq (completedWith stOk) ∧ tget c.queues q = some y
      ∧ listOf y l.cmd.seq = some g
      ∧ (g.pos, g.stack) = (if i.count = 1 then (i.e + 1, r) else (i.b + 2, { i with count := i.count - 1 } :: r))

/-- 02 R80, R83, R86, 05 R169, R184, R185: RETAIN adds 1 to an object's host half and RELEASE takes 1 away; the last release of a queue
leaves nothing committed in its ring; the debug packets arm and disarm their context; BEAT_MARK holds the queue for its count of
boundaries. -/
def Obligations.CountsMarksAndBreakpoints : Prop :=
  (∀ (s : State) (q o : Nat) (x : Queue) (k : Cmd) (r : Refs), startsAs s q (only opRetain) x k →
    named s.chip x.owner { k with refs := [] } [1, 2, 3, 4, 5, 6] (fieldHandle k.bits 95) = true →
    objOf s.chip (fieldHandle k.bits 95) = some (o, r) → r.host ≠ 0xFFFFFFFF →
    ∃ c, exec (.retain q) s = .next (arbitrated s c) ∧ cmdSat c q k.seq (completedWith stOk)
      ∧ objOf c (fieldHandle k.bits 95) = some (o, { r with host := r.host + 1 }))
  ∧ (∀ (s : State) (q o : Nat) (x : Queue) (k : Cmd) (r : Refs), startsAs s q (only opRelease) x k →
    named s.chip x.owner { k with refs := [] } [1, 2, 3, 4, 5, 6] (fieldHandle k.bits 95) = true →
    objOf s.chip (fieldHandle k.bits 95) = some (o, r) →
    (hType (fieldHandle k.bits 95) ≠ 2 ∨ 2 ≤ r.host ∨ (r.dev ≠ 0 ∧ ∃ z, tget s.chip.queues (hIndex (fieldHandle k.bits 95)) = some z ∧ z.tail = z.head) →
      ∃ c, exec (.release q) s = .next (arbitrated s c) ∧ cmdSat c q k.seq (completedWith stOk)
        ∧ objOf c (fieldHandle k.bits 95) = some (o, { r with host := r.host - 1 }))
    ∧ (hType (fieldHandle k.bits 95) = 2 → r.host = 1 →
      ∃ c, exec (.release q) s = .next (arbitrated s c)
        ∧ ∀ z, tget c.queues (hIndex (fieldHandle k.bits 95)) = some z → z.head = z.tail ∧ z.refs.host = 0))
  ∧ (∀ (s : State) (q : Nat) (x : Queue) (k : Cmd) (y : Context), tget s.chip.contexts x.ctx = some y →
    (startsAs s q (only opBreakOn) x k →
      ∃ c b, exec (.debugBreakOn q) s = .next (arbitrated s c) ∧ cmdSat c q k.seq (completedWith stOk)
        ∧ tget c.contexts x.ctx = some { y with brk := b }
        ∧ (bits k.bits 65 64 = 1 → b = some (.count (bits k.bits 191 128) 0 q k.seq))
        ∧ (bits k.bits 65 64 = 2 → b = some (.tag (BitVec.ofNat 16 (bits k.bits 95 80))))
        ∧ (bits k.bits 65 64 = 0 → b = none))
    ∧ (startsAs s q (only opBisect) x k →
      ∃ c, exec (.debugBisect q) s = .next (arbitrated s c) ∧ cmdSat c q k.seq (completedWith stOk)
        ∧ tget c.contexts x.ctx = some { y with bisect := if bit k.bits 96 then none else some (bits k.bits 95 64) }))
  ∧ ∀ (s : State) (q : Nat) (x : Queue) (k : Cmd), startsAs s q (only opBeatMark) x k →
    ∃ c, exec (.beatMark q) s = .next (arbitrated s c) ∧ cmdSat c q k.seq (fun j => j.phase = .beat (bits k.bits 71 64)) ∧ sameObjects s.chip c

/-- 06 R190, R192: an engine packet whose own checks pass waits for its engines (a collective for its partners, 11 R352), and REDUCE_TO_SCALAR
FLAGS completes at once (05 R173). A command that is granted its engines runs with the job that its checks fixed, from this moment on,
and takes its logbook units (13 R391). -/
def Obligations.EnginePacketsStart : Prop :=
  ((∀ (s : State) (q : Nat) (x : Queue) (k : Cmd) (p : Prep), s.chip.dev ≠ .walk → prepare s.chip (envOf s) x k = .go p →
    (startsAs s q (only opLaunch) x k →
      ∃ c, exec (.launchProgram q) s = .next (arbitrated s c) ∧ cmdSat c q k.seq (fun j => j.phase = .wantResource s.chip.clock false))
    ∧ (startsAs s q (only opGroom) x k →
      ∃ c, exec (.groom q) s = .next (arbitrated s c) ∧ cmdSat c q k.seq (fun j => j.phase = .wantResource s.chip.clock false))
    ∧ (startsAs s q (only opReduce) x k → bits k.bits 66 64 ≠ 6 →
      ∃ c, exec (.reduceToScalar q) s = .next (arbitrated s c) ∧ cmdSat c q k.seq (fun j => j.phase = .wantResource s.chip.clock false))
    ∧ (startsAs s q (only opOutride) x k → isCollective (outrideArgs k) = false →
      ∃ c, exec (.outride q) s = .next (arbitrated s c) ∧ cmdSat c q k.seq (fun j => j.phase = .wantResource s.chip.clock false))
    ∧ (startsAs s q (only opOutride) x k → isCollective (outrideArgs k) = true → p.units ≤ s.chip.logFree →
      ∃ c, exec (.outride q) s = .next (arbitrated s c) ∧ cmdSat c q k.seq (fun j => j.phase = .collective ∧ j.job = p.job)))
  ∧ ∀ (s : State) (q : Nat) (x : Queue) (k : Cmd), startsAs s q (only opReduce) x k → bits k.bits 66 64 = 6 →
    ∃ c, exec (.reduceToScalar q) s = .next (arbitrated s c)
      ∧ cmdSat c q k.seq (fun j => completedWith stOk j ∧ j.scalarW = [(bits k.bits 79 72, BitVec.ofNat 64 x.flags.toNat)]))
  ∧ (∀ (c : Chip) (e : Env) (q seq : Nat) (x : Queue) (k : Cmd) (p : Prep), tget c.queues q = some x → cmdOf c q seq = some k →
    letRun x k → prepare c e x k = .go p →
    cmdSat (grant c e q seq) q seq (fun j => j.phase = .running ∧ j.job = p.job ∧ j.startClock = c.clock)
    ∧ (grant c e q seq).logFree = c.logFree - p.units)

/-! ### Engines and retirement -/

/-- 05 R155, R159, R172, 07 R236, 09 R301, 11 R355: a launch whose words all completed and raised no trapped flag, a clean GROOM, a clean
REDUCE_TO_SCALAR and an OUTRIDE on this chip complete with OK and give up their engines, and so does a remote write that the target has
acknowledged; one that it refuses completes with the status of 11 R350. A launch carries its slot values to retirement, a reduction its
result; GROOM writes its elements, a COPY the bytes of its source that it had not written yet. -/
def Obligations.EngineWorkCompletes : Prop :=
  (∀ (s : State) (q seq prog teams carried scratch seed : Nat) (x : Queue) (k j : Cmd) (run : BodyRun) (args : List ArgVal) (si : Tab W64)
      (so : List Nat) (mask : BitVec 5) (safe : Bool) (d : Chip), attemptAt s.chip q seq x k →
    k.job = .launch prog teams carried scratch args si so seed mask safe → runBody s.chip q k run = (d, j, .ok) → trapped j = false →
    ∃ c, exec (.launchComplete q seq run) s = .next (arbitrated s c) ∧ freed c q seq
      ∧ cmdSat c q seq (fun i => completedWith stOk i ∧ i.scalarW = slotResults d j so si))
  ∧ (∀ (s : State) (q seq : Nat) (x : Queue) (k : Cmd) (src dst : DescRef) (idx : Option DescRef), attemptAt s.chip q seq x k →
    k.job = .groom src dst idx → groomClean s.chip x k src dst idx →
    ∃ c, exec (.groomComplete q seq) s = .next (arbitrated s c) ∧ freed c q seq ∧ cmdSat c q seq (completedWith stOk)
      ∧ c.memory = (groomWork s.chip q k src dst idx (groomMoves s.chip (groomArgs k.bits) src dst idx).length).1.memory)
  ∧ (∀ (s : State) (q seq : Nat) (x : Queue) (k : Cmd) (src : DescRef), attemptAt s.chip q seq x k → k.job = .reduce src →
    windowHit s.chip x.owner 3 (descAccess src) = none →
    poisonAmong s.chip 3 src ((((indices src.img).take (elemCount src.img)).drop k.progress).flatMap (elemBytesAt src)).eraseDups = none →
    ∃ c, exec (.reduceComplete q seq) s = .next (arbitrated s c) ∧ freed c q seq ∧ c.memory = s.chip.memory
      ∧ cmdSat c q seq (fun j => completedWith stOk j
        ∧ j.scalarW = [(bits k.bits 79 72, (reduceFrom s.chip (bits k.bits 66 64) src k.fold k.progress).1)]))
  ∧ (∀ (s : State) (q seq sm sh dm dh : Nat) (x : Queue) (k : Cmd) (o p : MemObj) (host : List Byte) (reply : RemoteReply)
      (parts : List Contribution), attemptAt s.chip q seq x k → k.job = .outride sm sh dm dh → sm ≠ remoteMem → dm ≠ remoteMem →
    (outrideArgs k).oop = 0 → (outrideArgs k).srcRemote = false → (outrideArgs k).dstRemote = false →
    tget s.chip.mems sm = some o → tget s.chip.mems dm = some p → p.kind = .device → (s.chip.linkUp = true ∨ o.kind = .device) →
    readHit s.chip k.owner 3 (Access.slice { mem := sm, half := sh, off := (outrideArgs k).srcOff, len := (outrideArgs k).len } k.progress
      (outrideArgs k).len) = none →
    writeHit s.chip k.owner 3 (Access.slice { mem := dm, half := dh, off := (outrideArgs k).dstOff, len := (outrideArgs k).len } k.progress
      (outrideArgs k).len) = none →
    ∃ c, exec (.outrideComplete q seq host reply parts) s = .next (arbitrated s c) ∧ freed c q seq ∧ cmdSat c q seq (completedWith stOk)
      ∧ (∀ i, k.progress ≤ i → i < (outrideArgs k).len → readByte c.memory.hbm (p.at dh (outrideArgs k).dstOff + i)
          = (sideBytes s.chip sm sh (outrideArgs k).srcOff (outrideArgs k).len host).getD i 0))
  ∧ ∀ (s : State) (q seq since st : Nat) (x : Queue) (k : Cmd) (host : List Byte) (reply : RemoteReply) (parts : List Contribution),
    attemptAt s.chip q seq x k → remoteWrite k = true → remoteRead k = false → k.remote = some (false, since) →
    (reply = .done [] ∧ st = stOk) ∨ (reply = .faultHandle ∧ st = stHandle) ∨ (∃ l, reply = .poisoned l ∧ st = stBroken)
      ∨ (reply = .degraded ∧ st = stDegraded) →
    ∃ c, exec (.outrideComplete q seq host reply parts) s = .next (arbitrated s c) ∧ freed c q seq ∧ cmdSat c q seq (completedWith st)

/-- 05 R155, R170, 04 R131 to R134, 06 R219 to R221: the completed command at the head retires, with its slot written; a confirmed segment
whose commands have completed commits, with its BRANCH completed; discarded engine work ends at its stop and gives up its engines; a held
record is written into its ring entry once its ring has room. A full completion ring has its CONS read again; a held notice is posted once
its ring has room, with PROD and the sequence number one higher. The host holds the queue and the context. -/
def Obligations.RetirementCommitAndRecords : Prop :=
  ((∀ (s : State) (q : Nat) (x : Queue) (k : Cmd), tget s.chip.queues q = some x → x.owed = [] → headOf x = some (.inl k) →
    k.phase = .completed → k.spec = none → k.seq < x.nextSeq →
    ∃ c, exec (.commandRetire q) s = .next (arbitrated s c) ∧ cmdOf c q k.seq = none
      ∧ ∀ i v y, k.scalarW = [(i, v)] → tget s.chip.contexts x.ctx = some y → y.refs.host ≠ 0 →
          ∃ z, tget c.contexts x.ctx = some z ∧ tget z.slots i = some v)
  ∧ (∀ (s : State) (q : Nat) (x : Queue) (g : Segment) (r : List Segment), tget s.chip.queues q = some x → x.segs = g :: r → mayCommit x = true →
    x.refs.host ≠ 0 →
    ∃ c y, exec (.commitPoint q) s = .next (arbitrated s c) ∧ tget c.queues q = some y
      ∧ (∀ t ∈ y.segs, t.branch ∈ r.map (fun u => u.branch))
      ∧ (r = [] → ∀ b, x.cmds.find? (fun k => k.seq == g.branch) = some b → cmdSat c q g.branch (fun j => j.phase = .completed)))
  ∧ (∀ (s : State) (stop : Stop) (g : Ghost), s.chip.ghosts.find? (fun h => h.q == stop.q && h.cmd.seq == stop.seq) = some g →
    g.cmd.onEngine = true →
    ∃ c, exec (.discardedWorkStop stop) s = .next (arbitrated s c) ∧ (∀ h ∈ c.ghosts, h ≠ g) ∧ freed c stop.q stop.seq)
  ∧ ∀ (s : State) (q : Nat) (x : Queue) (o : OwedRec) (r : List OwedRec), tget s.chip.queues q = some x → x.owed = o :: r → cqRoom x = true →
    x.refs.host ≠ 0 →
    ∃ t y, exec (.recordHeldWrite q) s = .next t ∧ tget t.chip.queues q = some y
      ∧ y.owed.map (fun w => (w.bits, w.drops)) = r.map (fun w => (w.bits, w.drops)) ∧ y.prod = x.prod + 1
      ∧ ((∀ p ∈ s.chip.mems, p.2.lazy = false) → ∀ i, i < 16 →
          readByte t.chip.memory.hbm (cqBase s.chip x + 64 + 16 * (x.prod.toNat % pow2 x.cqLog2) + i) = (toLe 16 o.bits.toNat).getD i 0))
  ∧ ((∀ (s : State) (q : Nat) (x : Queue), tget s.chip.queues q = some x → cqRoom x = false →
    ∃ t, exec (.consReread (.completion q)) s = .next t
      ∧ tget t.chip.queues q = some { x with cons := rereadCons s.chip (cqBase s.chip x) x.prod x.cons (pow2 x.cqLog2) }
      ∧ t.chip.memory = s.chip.memory)
  ∧ ∀ (s : State) (fn : Nat) (r : RecRing) (n : Notice), (tenantOf s.chip fn).noticeRing = some r → (tenantOf s.chip fn).held = [n] →
    (r.refresh s.chip).hasRoom = true →
    ∃ t g, exec (.noticePost fn) s = .next t ∧ (tenantOf t.chip fn).held = [] ∧ (tenantOf t.chip fn).noticeRing = some g
      ∧ g.prod = r.prod + 1 ∧ g.seq = r.seq + 1)

/-- 06 R195 to R198: a waiting command of class BATCH or BACKGROUND is aged after 250 ms; a command told to stop gives its engines up at its
preemption point, a launch with its scratch and cores saved (10 R320, 07 R240), and one that had no more done leaves memory as it was; it
runs again when it is the highest-ranked and its engines are free. -/
def Obligations.PreemptionAndAging : Prop :=
  (∀ (s : State) (q seq since : Nat) (aged : Bool) (x : Queue) (k : Cmd), tget s.chip.queues q = some x → cmdOf s.chip q seq = some k →
    k.phase = .wantResource since aged → 2 ≤ clsRank (queueCls s.chip x) → since + 250000000 ≤ s.chip.clock →
    ∃ c, exec (.commandAged q seq) s = .next (arbitrated s c) ∧ cmdSat c q seq (fun j => j.phase = .wantResource since true))
  ∧ (∀ (s : State) (stop : Stop) (x : Queue) (k : Cmd), attemptAt s.chip stop.q stop.seq x k → k.phase = .stopping .preempt → isMoveJob k →
    ∃ c, exec (.preemptionPoint stop) s = .next (arbitrated s c) ∧ freed c stop.q stop.seq
      ∧ (stop.done = 0 → c.memory = s.chip.memory)
      ∧ cmdSat c stop.q stop.seq (fun j => j.phase = .preempted s.chip.clock false ∧ j.job = k.job ∧ k.progress ≤ j.progress))
  ∧ (∀ (s : State) (stop : Stop) (prog teams carried scratch seed : Nat) (x : Queue) (k j : Cmd) (args : List ArgVal) (si : Tab W64)
      (so : List Nat) (mask : BitVec 5) (safe : Bool) (d : Chip), attemptAt s.chip stop.q stop.seq x k → k.phase = .stopping .preempt →
    k.job = .launch prog teams carried scratch args si so seed mask safe → runBody s.chip stop.q k stop.run = (d, j, .ok) →
    trapped j = false →
    ∃ c, exec (.preemptionPoint stop) s = .next (arbitrated s c) ∧ freed c stop.q stop.seq
      ∧ cmdSat c stop.q stop.seq (fun i => i.phase = .preempted s.chip.clock false ∧ i.job = k.job
        ∧ i.saved = saveScratch d scratch j.teams ∧ i.cores = saveCores d j.teams))
  ∧ ∀ (s : State) (q seq since : Nat) (aged : Bool) (x : Queue) (k : Cmd), tget s.chip.queues q = some x → cmdOf s.chip q seq = some k →
    k.phase = .preempted since aged → mayResume s.chip (envOf s) q seq = true → remoteDown (envOf s) k = false →
    ∃ c, exec (.preemptedResume q seq) s = .next (arbitrated s c) ∧ cmdSat c q seq (fun j => j.phase = .running ∧ j.job = k.job)

/-- 07 R241, R244 to R248: control cores that halt on words which may not run end their launch with PROGRAM_FAULT and the cause of the first
as DETAIL, or with DOUBLE_FAULT where a stack pointer among them is not valid; so does a yield spacing of 131,072 cycles, with cause 0x43;
a trapped numeric flag ends it with NUMERIC_TRAP. The other words of the launch had completed. -/
def Obligations.LaunchesEndByException : Prop :=
  ∀ (s : State) (q seq : Nat) (x : Queue) (k j : Cmd) (run : BodyRun) (l : Launch) (d : Chip), attemptAt s.chip q seq x k →
    launchOf s.chip k = some l → runBody s.chip q k run = (d, j, .ok) →
    (∀ (halts : List CoreHalt) (w : Shadow) (r : List Shadow), (halts.foldr (insertHalt k) []).filterMap (haltShadow d j l) = w :: r →
      ((∀ v ∈ w :: r, spValid l.image v.sp.toNat = true) →
        ∃ c, exec (.controlCoreException q seq halts run) s = .next (arbitrated s c) ∧ freed c q seq
          ∧ cmdSat c q seq (fun i => completedWith stProgram i ∧ i.detail = w.cause))
      ∧ ((∃ v ∈ w :: r, spValid l.image v.sp.toNat = false) →
        ∃ c, exec (.controlCoreException q seq halts run) s = .next (arbitrated s c) ∧ freed c q seq
          ∧ cmdSat c q seq (completedWith stDouble)))
    ∧ (∀ (i : Nat) (off : W32) (p : Nat × Nat), (launchClusters d k.teams).find? (fun y => y.1 == i) = some p →
      (clusterCore d p.2).yieldAt + 131072 ≤ cycleNow d →
      ∃ c, exec (.yieldSpacingExceeded q seq { cluster := i, bodyOff := off } run) s = .next (arbitrated s c) ∧ freed c q seq
        ∧ cmdSat c q seq (fun i => if spValid l.image (clusterCore d p.2).sp.toNat then completedWith stProgram i ∧ i.detail = 0x43
            else completedWith stDouble i))
    ∧ (trapped j = true →
      ∃ c, exec (.trapRaised q seq run) s = .next (arbitrated s c) ∧ freed c q seq ∧ cmdSat c q seq (completedWith stTrap))

/-! ### Faults and memory errors -/

/-- 13 R393 to R397, 11 R351, R352: a recoverable fault, or a remote request without its answer, frees the engines of the attempt, which then
waits for its replay, or has failed with BROKEN_INPUT and the DETAIL of its class where the replay boundary is broken; a replay that may
start runs, counted; a collective whose members have all started may take its engines; a retry that is due leaves again, or gives its
engines up where its entry is DOWN. -/
def Obligations.RecoverableFaultsAreReplayed : Prop :=
  (∀ (s : State) (stop : Stop) (cls : RecClass) (info : W64) (lost published : Bool) (x : Queue) (k : Cmd),
    attemptAt s.chip stop.q stop.seq x k → inGap s.farrier = false → cls ≠ .cluster →
    (cls = .link → bit info.toNat 16 = false ∧ s.chip.linkHit.contains (stop.q, stop.seq) = true) →
    (∃ c, exec (.recoverableFault stop cls info lost published) s = .next (arbitrated s c) ∧ freed c stop.q stop.seq
      ∧ cmdSat c stop.q stop.seq (fun j => j.phase = .wantReplay ∨ (completedWith stBroken j ∧ j.detail = 0x90 + (recNum cls - 0x10))))
    ∧ (isMoveJob k → stop.done = 0 →
      ∃ c, exec (.recoverableFault stop cls info lost published) s = .next (arbitrated s c)
        ∧ cmdSat c stop.q stop.seq (fun j =>
            if replayWhy s.chip { k with carriedLost := k.carriedLost || lost, published := k.published || published } = none
            then j.phase = .wantReplay else completedWith stBroken j)))
  ∧ (∀ (s : State) (stop : Stop) (since : Nat) (x : Queue) (k : Cmd), attemptAt s.chip stop.q stop.seq x k → inGap s.farrier = false →
    k.remote = some (false, since) → (if remoteRead k then (outrideArgs k).dest.toList else dataDests (envOf s) k) ≠ [] →
    since + 10000000 ≤ s.chip.clock → isMoveJob k → stop.done = 0 → stop.parts = [] →
    ∃ c, exec (.remoteNoAnswer stop) s = .next (arbitrated s c) ∧ freed c stop.q stop.seq
      ∧ cmdSat c stop.q stop.seq (fun j => if replayWhy s.chip k = none then j.phase = .wantReplay
          else completedWith stBroken j ∧ j.detail = 0x93))
  ∧ (∀ (s : State) (q seq : Nat) (x : Queue) (k : Cmd), tget s.chip.queues q = some x → cmdOf s.chip q seq = some k → k.phase = .wantReplay →
    mayResume s.chip (envOf s) q seq = true → replayWhy s.chip k = none →
    ∃ c, exec (.replayStart q seq) s = .next (arbitrated s c) ∧ cmdSat c q seq (fun j => j.phase = .running ∧ j.replays = k.replays + 1))
  ∧ (∀ (s : State) (q seq : Nat) (k : Cmd) (starts : List MemberStart), cmdOf s.chip q seq = some k → k.phase = .collective →
    allStarted (envOf s) k starts = true →
    ∃ c, exec (.collectiveMatch q { seq := seq, starts := starts }) s = .next (arbitrated s c) ∧ cmdSat c q seq (fun j => j.phase = .preempted s.chip.clock false))
  ∧ ∀ (s : State) (q seq since : Nat) (x : Queue) (k : Cmd), k.remote = some (true, since) → since ≤ s.chip.clock →
    (attemptAt s.chip q seq x k → remoteDown (envOf s) k = false →
      (remoteRead k = true ∨ (dataDests (envOf s) k ≠ [] ∧ k.progress = (outrideArgs k).len)) →
      ∃ c, exec (.remoteRetry q seq) s = .next (arbitrated s c) ∧ cmdSat c q seq (fun j => j.phase = k.phase ∧ j.remote = some (false, s.chip.clock)))
    ∧ (attemptAt s.chip q seq x k → remoteDown (envOf s) k = true →
      ∃ c, exec (.remoteRetry q seq) s = .next (arbitrated s c) ∧ freed c q seq
        ∧ cmdSat c q seq (fun j => j.phase = .preempted s.chip.clock false ∧ j.remote = none))
    ∧ (cmdOf s.chip q seq = some k → k.phase = .collective →
      ∃ c, exec (.remoteRetry q seq) s = .next (arbitrated s c) ∧ cmdSat c q seq (fun j => j.phase = .collective ∧ j.remote = some (false, s.chip.clock)))

/-- 14 R440 to R442, 10 R307, R308: a failed cluster drains while a spare is left, and one whose team is free touches no queue while its
scratch can be read; the nearest spare that passes takes its number; a channel that stops answering migrates to a spare, and its
migration's end retires it. -/
def Obligations.SparesTakeOver : Prop :=
  (∀ (s : State) (l p : Nat) (readable : Bool) (run : BodyRun), physOf s.chip l = some p → s.chip.compute.draining.contains l = false →
    spareLeft s.chip = true →
    ∃ c, exec (.clusterFault l readable run) s = .next (arbitrated s c) ∧ c.compute.draining.contains l = true
      ∧ c.compute.phys = s.chip.compute.phys
      ∧ (readable = true → tget s.chip.compute.holders (l / 8) = none → c.queues = s.chip.queues))
  ∧ (∀ (s : State) (l p sp : Nat) (bad : List Nat), inGap s.farrier = false → s.chip.compute.draining.contains l = true →
    tget s.chip.compute.holders (l / 8) = none → physOf s.chip l = some p → nearestSpare s.chip p = some sp → bad.contains sp = false →
    ∃ c, exec (.mapInComplete l bad) s = .next (arbitrated s c) ∧ tget c.compute.phys sp = some (.enabled, some l)
      ∧ c.compute.draining.contains l = false ∧ c.ctt.gen = s.chip.ctt.gen + 1)
  ∧ (∀ (s : State) (st ch i : Nat) (r : List Nat), s.chip.dev ≠ .off → st < 8 → ch < 32 → (stackState s.chip st).dead.contains ch = false →
    tget (stackState s.chip st).migrating ch = none → (stackState s.chip st).spareFree = i :: r →
    ∃ c, exec (.channelStopsAnswering st ch) s = .next (arbitrated s c) ∧ tget (stackState c st).migrating ch = some i
      ∧ (stackState c st).spareFree = r ∧ (tget (stackState c st).lost ch).isSome = true ∧ c.memory.hbm = s.chip.memory.hbm)
  ∧ ∀ (s : State) (st ch i : Nat), tget (stackState s.chip st).migrating ch = some i →
    ∃ t, exec (.channelMigrationDone st ch) s = .next t ∧ tget (stackState t.chip st).migrating ch = none
      ∧ tget (stackState t.chip st).retired ch = some i ∧ t.chip.ctt.gen = s.chip.ctt.gen + 1

/-- 10 R323 to R326: an uncorrectable error of HBM poisons and detects its line, and stops no other command; a correctable error of an SRAM
word is counted and logged for its row and column, and the third in one of them within a day is repaired, with a record; a patrol finds
nothing, or what a reader would find. No error ring is set, and the channel is not near its retirement. -/
def Obligations.MemoryErrorsAreNoted : Prop :=
  (∀ (s : State) (a : Nat), s.chip.dev ≠ .off → a < hbmBytes s.chip → linePoisoned s.chip (a / 64) = false →
    (s.chip.memory.ueLog.filter (fun p => s.chip.clock < p.2 + day)).countP
      (fun p => p.1 == 32 * stackOf (a / 64 * 64) + channelOf (a / 64 * 64)) < 3 →
    s.chip.tenants.all (fun p => p.2.errorRing.isNone) = true →
    ∃ c, exec (.uncorrectableError (.hbmObject a) none) s = .next (arbitrated s c) ∧ c.memory.poison.contains (a / 64) = true
      ∧ c.memory.detected.contains (a / 64) = true ∧ c.memory.hbm = s.chip.memory.hbm ∧ c.queues = s.chip.queues)
  ∧ (∀ (s : State) (b row col : Nat) (noSpare : Bool), s.chip.dev ≠ .off → s.chip.memory.ceLog = [] →
    ∃ t, exec (.correctableError (.control b row col) noSpare) s = .next t
      ∧ (tget t.chip.counters.value 96).getD 0 = (tget s.chip.counters.value 96).getD 0 + 1
      ∧ t.chip.memory = { s.chip.memory with ceLog := (ceKeys s.chip (.control b row col)).map (fun n => (n, s.chip.clock)) })
  ∧ (∀ (s : State) (b row col n : Nat), s.chip.dev ≠ .off → n ∈ ceKeys s.chip (.control b row col) →
    2 ≤ (s.chip.memory.ceLog.filter (fun p => s.chip.clock < p.2 + day)).countP (fun p => p.1 == n) →
    ∃ c, exec (.correctableError (.control b row col) false) s = .next (arbitrated s c) ∧ c.errq.seq = s.chip.errq.seq + 1
      ∧ ∀ p ∈ c.memory.ceLog, p.1 ≠ n)
  ∧ ∀ s : State, exec (.patrolScrub .clean) s = .next s
    ∧ (∀ loc n, exec (.patrolScrub (.correctable loc n)) s = exec (.correctableError loc n) s)
    ∧ ∀ a stop, exec (.patrolScrub (.uncorrectable (.hbmObject a) stop)) s = exec (.uncorrectableError (.hbmObject a) none) s
end

