-- ==== Sys2Proof/Laws/Ops.lean ====
section
/-! SUPPORT. One lemma for each shared operation under the condition that `Safety.lean` names for it, so that a proof cites the lemma and
never unfolds the operation: host accesses, requests, the start of a packet, the attempt of a command on its engines, frames, sets of numbers and
saturating counts, and what these operations leave alone outside the chip part. -/

namespace Sys2Proof.Machine

/-! ### Host accesses -/

/-- A host access that reaches its function is its effect on the chip part, and ends a spell without work. -/
theorem hostChip_eq (s : State) (fn : Nat) (f : Chip → Env → Chip) (h : hostReaches s fn = true) :
    hostChip s fn f = afterAccess s f := by
  simp only [hostReaches, Bool.and_eq_true, Bool.not_eq_true', beq_iff_eq] at h
  simp [hostChip, onHost, h, afterAccess, hostWake, wokenBy, wake]

@[simp] theorem afterAccess_chip (s : State) (f : Chip → Env → Chip) : (afterAccess s f).chip = f s.chip (envOf s) := rfl
@[simp] theorem afterAccess_pending (s : State) (f : Chip → Env → Chip) : (afterAccess s f).pending = s.pending := rfl

/-- The moment since when the device has no work is nothing that a row of the chip part sees. -/
@[simp] theorem envOf_idleSince (s : State) (a : Option Nat) :
    envOf { s with halter := { s.halter with idleSince := a } } = envOf s := rfl

/-! ### Requests -/

/-- A served request runs its operation on the state in which the request is taken. -/
theorem served_on {s : State} {fn op r : Nat} (h : served s fn op r = true) (ok : Nat → Bool) (hok : ok op = true)
    (f : State → Nat → Answer) :
    onRequest s fn ok f = match f (taken s fn) r with | .wait => s | .later u => u | .now u p => ended s u fn r p := by
  simp only [served, Bool.and_eq_true, bne_iff_ne, ne_eq, Bool.not_eq_true', beq_iff_eq, Option.isNone_iff_eq_none] at h
  obtain ⟨⟨⟨⟨⟨⟨⟨⟨⟨h1, h2⟩, h3⟩, h4⟩, h5⟩, h6⟩, h7⟩, h8⟩, h9⟩, h10⟩ := h
  simp only [onRequest, h2, h3, h4, h5, h6, h7, h8, h9, hok]
  simp only [bne_self_eq_false, Bool.not_true, Bool.or_false, beq_iff_eq, h1, Bool.false_eq_true, if_false, h10, taken, ended, h5]
  all_goals generalize f _ r = a; cases a <;> rfl

@[simp] theorem envOf_chip (s : State) (c : Chip) : envOf { s with chip := c } = envOf s := rfl

/-- A served request of the chip part waits, or leaves the chip part and the response that its operation gives. -/
theorem served_chip {s : State} {fn op r : Nat} (h : served s fn op r = true) (f : Chip → Env → Nat → Option (Chip × Reply)) :
    chipRequest s fn op f
      = match f (taken s fn).chip (envOf s) r with | none => s | some (c, p) => answered s fn r c p := by
  unfold chipRequest
  rw [served_on h _ (by simp)]
  simp only [chipAnswer]
  have he : envOf (taken s fn) = envOf s := envOf_chip _ _
  rw [he]
  generalize f (taken s fn).chip (envOf s) r = a
  cases a with
  | none => rfl
  | some a => simp only [answered, taken]

/-! ### Packets and attempts -/

/-- A packet that may start starts, and what waited for engines then takes them. -/
theorem atStart_startsAs {s : State} {q : Nat} {ok : Nat → Bool} {x : Queue} {k : Cmd} (h : startsAs s q ok x k)
    (f : Queue → Cmd → Chip) : atStart s.chip (envOf s) q ok f = arbitrate (f x k) (envOf s) := by
  simp [atStart, h.1]

/-- An event of a command on its engines is its effect on the chip part, and what waited for engines then takes them. -/
theorem onAttempt_attemptAt {s : State} {q seq : Nat} {x : Queue} {k : Cmd} (h : attemptAt s.chip q seq x k)
    (f : Chip → Env → Queue → Cmd → Chip) : onAttempt s q seq f = arbitrated s (f s.chip (envOf s) x k) := by
  simp [onAttempt, onChip, arbitrated, h.1, h.2.1]

/-! ### Frames -/

theorem linkTxOf_setLink (c : Chip) (q p : Nat) (l : LinkTx) : linkTxOf (setLink c q l) p = if p = q then l else linkTxOf c p := by
  by_cases h : p = q
  · simp [linkTxOf, setLink, tget_tset_same, h]
  · have h' : ¬q = p := fun e => h e.symm
    simp [linkTxOf, setLink, tget_tset_other _ _ _ _ h', h]
@[simp] theorem linkTxOf_emit (c : Chip) (o : Output) (p : Nat) : linkTxOf (emit c o) p = linkTxOf c p := rfl
theorem linkTxOf_free (c : Chip) (n p : Nat) : linkTxOf { c with free := n } p = linkTxOf c p := rfl

/-- A frame for a port with room leaves at once, and nothing else changes on the other ports (11 R333). -/
theorem sendFrame_sends {f : Fabric} {c : Chip} {q chan : Nat} (h : roomFor f c q chan) (o : Output) (w : Option (Nat × Nat)) :
    sends c (sendFrame c f q chan o w) q chan o := by
  obtain ⟨hf, hq⟩ := h
  have e : frameFits (portOf f q) { linkTxOf c q with queue := [] } chan = true := hf
  simp only [sendFrame, pump, linkTxOf_setLink, hq, List.nil_append, if_true]
  unfold pumpFrames
  simp only [linkTxOf_setLink, if_true, List.contains_nil, Bool.not_false, Bool.true_and, e]
  unfold pumpFrames
  refine ⟨rfl, ⟨{ seqNo := (linkTxOf c q).next, chan := chan, body := o, owner := w, acked := c.clock + Config.freeNat c.free }, ?_, rfl, rfl, rfl⟩,
    fun p hp => ?_, rfl, rfl⟩
  · rw [linkTxOf_emit, linkTxOf_setLink, if_pos rfl]
    simp only [hq]
    rfl
  · simp only [linkTxOf_emit, linkTxOf_setLink, if_neg hp, linkTxOf_free]

/-! ### Sets of numbers and saturating counts -/

theorem contains_insertNat (l : List Nat) (k d : Nat) : (insertNat l k).contains d = (l.contains d || d == k) := by
  induction l with
  | nil => rw [Bool.eq_iff_iff]; simp [insertNat]
  | cons i t ih =>
    simp only [insertNat]
    split
    · rw [Bool.eq_iff_iff]; simp only [List.contains_cons, Bool.or_eq_true, beq_iff_eq]; exact Or.comm
    · split
      · rename_i h; simp at h; subst h; rw [Bool.eq_iff_iff]; simp; exact Or.inl
      · simp only [List.contains_cons, ih]; simp [Bool.or_assoc]

theorem contains_removeNat (l : List Nat) (k d : Nat) : (removeNat l k).contains d = (l.contains d && !(d == k)) := by
  rw [Bool.eq_iff_iff]; simp [removeNat]

/-- A 32-bit count that saturates. -/
theorem satAdd_toNat (a : W32) : (BitVec.ofNat 32 (satAdd a.toNat 1 0xFFFFFFFF)).toNat = min (a.toNat + 1) 0xFFFFFFFF := by
  have := a.isLt
  unfold satAdd; split <;> simp <;> omega

/-! ### Tables -/

@[simp] theorem tenantOf_modTenant_same (c : Chip) (t : Nat) (f : Tenant → Tenant) :
    tenantOf (modTenant c t f) t = f (tenantOf c t) := by
  simp [tenantOf, tget_tset_same, modTenant, setTenant]

/-! ### What these operations leave alone outside the chip part -/

theorem sameOutside_chip (s : State) (c : Chip) : sameOutside s { s with chip := c } := by simp [sameOutside]

theorem sameOutside_refl (s : State) : sameOutside s s := sameOutside_chip s s.chip

theorem sameOutside_onChip (s : State) (f : Chip → Env → Chip) : sameOutside s (onChip s f) := sameOutside_chip _ _

theorem sameOutside_later {s t : State} (h : sameOutside s t) (f : Chip → Env → Chip) : sameOutside s (onChip t f) := h

theorem sameOutside_finish (s t : State) (h : sameOutside s t) (fn r : Nat) (p : Reply) : sameOutside s (finish t fn r p) := by
  obtain ⟨a1, a2, a3, a4, a5, a6, a7, a8, a9⟩ := h
  refine ⟨?_, ?_, ?_, ?_, ?_, ?_, ?_, ?_, ?_⟩ <;> simp [*]

theorem sameOutside_onRequest (s : State) (fn : Nat) (ok : Nat → Bool) (f : State → Nat → Answer)
    (h : ∀ u r, sameOutside s u →
      match f u r with | .wait => True | .later w => sameOutside s w | .now w _ => sameOutside s w) :
    sameOutside s (onRequest s fn ok f) := by
  simp only [onRequest]
  split
  · exact sameOutside_refl s
  · have ht : sameOutside s { s with chip := takeRequest s.chip fn } := sameOutside_chip _ _
    split
    · exact sameOutside_finish _ _ ht _ _ _
    · split
      · exact sameOutside_finish _ _ ht _ _ _
      · split
        · exact sameOutside_finish _ _ ht _ _ _
        · split
          · exact sameOutside_refl s
          · have := h { s with chip := (requestHolds s.chip fn (entryOf s.chip fn)).foldl takeRef (takeRequest s.chip fn) }
              (entryOf s.chip fn) (sameOutside_chip _ _)
            split <;> rename_i heq <;> simp only [heq] at this
            · exact sameOutside_refl s
            · exact this
            · exact sameOutside_later (sameOutside_finish _ _ this _ _ _) _

theorem sameOutside_chipRequest (s : State) (fn op : Nat) (f : Chip → Env → Nat → Option (Chip × Reply)) :
    sameOutside s (chipRequest s fn op f) := by
  apply sameOutside_onRequest
  intro u r hu
  simp only [chipAnswer]
  split
  · rename_i heq
    split at heq
    · cases heq
    · trivial
  · rename_i heq
    split at heq <;> cases heq
  · rename_i heq
    split at heq
    · cases heq
      obtain ⟨a1, a2, a3, a4, a5, a6, a7, a8, a9⟩ := hu
      exact ⟨a1, a2, a3, a4, a5, a6, a7, a8, a9⟩
    · cases heq

end Sys2Proof.Machine
end

