-- ==== Sys2Proof/Tests/Slice0.lean ====
section
/-! SUPPORT. Tests on small states: the WellFormed smoke tests, single steps with results written out from the spec, and, for every statement
with hypotheses, witnesses (`wit_…`, named after the statement) that meet them. -/

open Sys2Proof Sys2Proof.Machine

namespace Sys2Proof.Tests

set_option Elab.async false

/-! ### WellFormed: an ill-formed term for each check, refused -/

def noRun : BodyRun := BodyRun.none
def stopAt (q : Nat) : Stop := { q := q, seq := 0, done := 0, run := noRun, data := [], parts := [] }
def wideRun : BodyRun := { words := [(320, 1)] }
def halt0 (cl : Nat) (w : BadWord) : CoreHalt := { cluster := cl, cycle := 0, bodyOff := 0, word := w }
def req0 (n len : Nat) (w : Bool) : RemoteReq :=
  { token := 0, tenant := n, slice := 0, srcChip := 0, isWrite := w, off := 0, length := len, data := [] }
def test0 : BringupTest := { failedClusters := [], failedChannels := [], sramExhausted := false, delay := 0, offset := 0 }
def sig0 : Signature := { row0 := 0, col0 := 0, h := 1, w := 1, rootRow := 0, rootCol := 0, oop := 0, redop := 0, etype := 0, len := 0 }
def evidence0 : HandoverEvidence := { checkOk := true, sectionsOk := true, countsOk := true, consistent := true, inTime := true }

theorem test_wf_refuses_agents : ([.doorbell 32 0 0, .doorbell 0 4096 0, .requestTailWrite 32 0, .nop 16384, .helloSend 4, .sourceEvent 2048,
    .coreEoi 8 0, .windowSetValid 0 64 0, .rnGroupOwnerWrite 64 0, .cntGroupWrite 15 0, .cntGroupWrite 128 0, .pwrGoodRise 4, .vfFlr 0 [],
    .beatBoundary 8, .freeRun 8, .msiXMessage 1 64, .vectorUnmask 0 256, .smbusOtherCommand 256, .linkUp 0 16 true, .linkUp 7 16 true,
    .linkUp 5 3 true, .vfEnableSet 32] : List Instr).all (fun i => !i.wf) = true := by decide

theorem test_wf_refuses_ranges : ([.bar2Read 0 0 0, .bar2Read 0 (2 ^ 38) 1, .bar2Write 0 0 [], .lowHalfRead 0 (.bar0 4 0), .registerWrite 0 (.bar0 (2 ^ 24 - 4) 8 true) 0,
    .registerWrite 0 (.bar0 (2 ^ 24) 4 false) 0, .registerWrite 0 (.coreFields 2048) 0, .registerWrite 0 (.coreControl 8) 0,
    .channelStopsAnswering 8 0, .channelMigrationDone 0 32, .clusterFault 320 true noRun, .mapInComplete 0 [336],
    .bringupEnd { test0 with failedClusters := [336] }, .bringupEnd { test0 with failedChannels := [(8, 0)] },
    .governorSample 256 0, .governorSample 0 65536, .halterWake { line := .watch 16 true 0, levels := [] }, .halterWake { line := .perst, levels := [2048] }, .wakeEvent .hostTlp [2048],
    .timeFrameReceive 0 false 0 256 true, .frameCrcError 0 { seqNo := 0, lane := 17 },
    .collectiveMatch 0 { seq := 0, starts := [{ rank := 256, tenant := 0, sig := sig0, order := 0 }] }] : List Instr).all (fun i => !i.wf) = true := by decide

theorem test_wf_refuses_runs : ([.launchComplete 0 0 wideRun, .resetCluster 0 true true wideRun, .windowClearValid 0 0 { control := 0, stops := [stopAt 16384] },
    .resetQueue 0 [stopAt 16384], .linkDown [stopAt 16384], .preemptionPoint (stopAt 16384), .recoverableFault (stopAt 16384) .link 0 false false,
    .watchdogExpiry 0 (some (stopAt 16384)) evidence0, .controlCoreException 0 0 [] noRun, .controlCoreException 0 0 [halt0 320 .illegal] noRun,
    .yieldSpacingExceeded 0 0 { cluster := 320, bodyOff := 0 } noRun, .outrideComplete 0 0 [] .none [{ rank := 256, data := [] }]] : List Instr).all
    (fun i => !i.wf) = true := by decide

theorem test_wf_refuses_locations : ([.uncorrectableError (.hbmObject (192 * 2 ^ 30)) none, .uncorrectableError (.descriptorPage 32 0) none,
    .uncorrectableError (.scratch 320 0) none, .uncorrectableError (.requestEntry 0 256) none, .uncorrectableError (.requestEntry 1 8) none,
    .uncorrectableError (.contextState 4096) none, .uncorrectableError (.farrierData 8) none, .uncorrectableError (.logbook 16384 0) none,
    .correctableError (.hbm 8 0 0) false, .correctableError (.scratch 320 0 0 0) false, .patrolScrub (.correctable (.hbm 0 32 0) false),
    .consReread (.completion 16384), .consReread (.notice 32), .consReread (.error 32), .consReread (.trace 32),
    .frameHop 0 { rsp := false, slice := 0, tenant := 32, dest := 0 }, .frameHop 0 { rsp := true, slice := 0, tenant := 0, dest := 256 }, .remoteRequest (req0 32 1 false),
    .remoteRequest (req0 0 0 false), .remoteRequest (req0 0 1 true)] : List Instr).all (fun i => !i.wf) = true := by decide

theorem test_wf_accepts : ([.doorbell 31 4095 0, .bar2Read 0 (2 ^ 38 - 1) 1, .nop 16383, .vddAonFall, .msiXMessage 31 63,
    .registerWrite 0 (.bar0 0x708000 4 false) 0, .channelStopsAnswering 7 31] : List Instr).all (fun i => i.wf) = true := by decide

/-! ### A small device: READY, link up, PF0 with everything agreed and one window over the first 256 MiB -/

/-- PF0 has agreed every feature of minor 4. -/
def agreement : Agreement := { major := 1, minor := 4, features := 0x7FF, reqMinor := 4, reqFeatures := 0x7FF, response := 0 }

def win0 : Window := { Window.reset with size := 0x10000000, valid := true, bar2En := true }

def pf0 : Tenant :=
  { Tenant.reset 0 with memSpace := true, msixEnable := true, agreed := some agreement, quota := (List.range 7).map (fun i => (i, 64)),
                        windows := [(0, win0)] }

def util0 : Util :=
  { clusterCycles := 0, specDiscard := 0, computeBusy := 0, groomBusy := 0, outriderBusy := 0, groomBytes := 0, outriderBytes := 0, busyIv := [] }

def ctx0 : Context :=
  { handle := mkHandle 1 0 0, owner := 0, refs := { host := 1, dev := 1 }, cls := .background, beat := none, slots := [], runnable := true,
    stopping := none, brk := none, bisect := none, util := util0 }

def mem0 : MemObj :=
  { handle := mkHandle 3 0 0, owner := 0, refs := { host := 1, dev := 2 }, kind := .device, double := false, size := 0x100000, addr := 0,
    home := some 0, stamp := 0, pub := 0, lazy := false, filled := [], born := 0, charge := 16, image := none }

def hitch0 : Hitch :=
  { handle := mkHandle 5 0 0, owner := 0, refs := { host := 1, dev := 0 }, value := 3, broken := 0, breaker := none, waiters := [] }

def queue0 : Queue :=
  { handle := mkHandle 2 0 0, owner := 0, ctx := 0, slot := 0, refs := { host := 1, dev := 0 }, sq := 0, cq := 0, sqOff := 0, cqOff := 0x10000,
    sqLog2 := 8, cqLog2 := 6, head := 0, tail := 0, err := none, flags := 0, cmds := [], lists := [], segs := [], nextSeq := 0, prod := 0,
    cons := 0, owed := [], owedCount := 0, lastMark := none, bind := none }

def chip0 : Chip :=
  { Chip.reset with dev := .ready, linkUp := true, gait := 10000, tenants := [(0, pf0)], contexts := [(0, ctx0)], mems := [(0, mem0)],
                    hitches := [(0, hitch0)], queues := [(0, queue0)],
                    ctt := { gen := 1, staticValid := true, clmapValid := true, topoValid := false } }

def dev0 : State :=
  { State.reset with halter := { Halter.reset with perstN := true }, chip := chip0,
                     farrier := { Farrier.reset with running := some FwImage.shipping } }

def withChip (f : Chip → Chip) : State := { dev0 with chip := f chip0 }
def withPf0 (f : Tenant → Tenant) : State := withChip (fun c => { c with tenants := [(0, f pf0)] })
def withQueue (f : Queue → Queue) : State := withChip (fun c => { c with queues := [(0, f queue0)] })
def withHalter (f : Halter → Halter) : State := { dev0 with halter := f dev0.halter }

/-- The device with one management request of PF0 committed. -/
def withRq (r : Nat) : State :=
  let s := withPf0 (fun t => { t with chan := { Channel.reset with reqTail := 1, reqBytes := writeBytes [] 0 (toLe 64 r) } })
  { s with chip := { s.chip with arrivals := [0] } }

/-- A fetched packet of queue 0, of the given bits and number of cells. -/
def packet (p n : Nat) : Cmd := freshCmd 0 0 0 none [] 0 ((List.range n).map (fun i => BitVec.ofNat 128 (p / 2 ^ (128 * i))))

def withCmd (k : Cmd) : State := withQueue (fun x => { x with cmds := [k], nextSeq := 1 })

/-! ### Witnesses: the block and its invariants -/

theorem wit_StepRunsFrontCommand : ({ dev0 with pending := [.nop 0, .tag 0] } : State).pending = .nop 0 :: [.tag 0] := rfl
theorem wit_EmptyQueuePassesOneCycle : dev0.pending = [] ∧ (∀ q, q < 4 → (portOf dev0.fabric q).retraining = none) := ⟨rfl, by decide⟩
theorem wit_OnlyRailFailureStops : exec .vddAonFall dev0 = .fault .railsOutOfRange := rfl
theorem wit_RowsKeepTheirFrame : (isPacketRow (.nop 0) && isEngineRow .backgroundFill && isChipRequest (.getWalk 0) && isHostAccess .freezeRelease) = true
    ∧ (∃ t, exec (.nop 0) dev0 = .next t) ∧ (∃ t, exec .backgroundFill dev0 = .next t) ∧ (∃ t, exec (.getWalk 0) dev0 = .next t)
    ∧ ∃ t, exec .freezeRelease dev0 = .next t := ⟨by decide, ⟨_, rfl⟩, ⟨_, rfl⟩, ⟨_, rfl⟩, ⟨_, rfl⟩⟩
theorem wit_GovernorStaysLegal : GovLegal State.reset ∧ ∃ t, step State.reset = .next t := ⟨by unfold GovLegal; decide, ⟨_, rfl⟩⟩
theorem wit_BeatDomainsStayLegal : BeatsLegal State.reset ∧ ∃ t, step State.reset = .next t := ⟨⟨by decide, by decide, by decide⟩, ⟨_, rfl⟩⟩
theorem wit_FusesAndBoardNeverChange : ∃ t, step dev0 = .next t := ⟨_, rfl⟩

/-! ### Witnesses: host accesses -/

theorem wit_DoorbellAdvancesTail : hostReaches dev0 0 = true ∧ isUp dev0.chip = true ∧ slotQueue dev0.chip 0 0 = some (0, queue0)
    ∧ tget dev0.chip.queues 0 = some queue0 ∧ cqRoom queue0 = true ∧ negotiated dev0.chip 0 = true ∧ (256 : W32) ≠ queue0.tail
    ∧ (queue0.tail - queue0.head).toNat + (256 - queue0.tail : W32).toNat ≤ pow2 queue0.sqLog2 := by decide

theorem wit_Bar2ReadGivesWindowBytes : hostReaches dev0 0 = true ∧ inBar2 dev0.chip 0 0xFFFFFFF 1 = true
    ∧ bar2Addr dev0.chip 0 0xFFFFFFF 1 false = some 0xFFFFFFF ∧ readPoison dev0.chip 0xFFFFFFF 1 = none
    ∧ inBar2 (withPf0 (fun t => { t with windows := [] })).chip 0 0 8 = true
    ∧ hostReaches (withPf0 (fun t => { t with windows := [] })) 0 = true
    ∧ bar2Addr (withPf0 (fun t => { t with windows := [] })).chip 0 0 8 false = none := by decide

theorem wit_Bar2WriteStoresBytes : hostReaches dev0 0 = true ∧ inBar2 dev0.chip 0 64 [1, 2].length = true
    ∧ bar2Addr dev0.chip 0 64 [1, 2].length true = some 64
    ∧ dev0.chip.mems.all (fun p => !(p.2.lazy && overlap 64 2 p.2.addr p.2.span)) = true
    ∧ hostReaches (withPf0 (fun t => { t with windows := [] })) 0 = true
    ∧ inBar2 (withPf0 (fun t => { t with windows := [] })).chip 0 64 2 = true
    ∧ bar2Addr (withPf0 (fun t => { t with windows := [] })).chip 0 64 2 true = none := by decide

def lazyMem : MemObj := { mem0 with lazy := true, filled := [0] }
theorem wit_BackgroundFillZeroesOneGranule : (withChip (fun c => { c with mems := [(0, lazyMem)] })).chip.mems = [(0, lazyMem)]
    ∧ lazyMem.filled.length < lazyMem.span / 65536 ∧ dev0.halter.power = .active
    ∧ (List.range (lazyMem.span / 65536)).find? (fun i => !lazyMem.filled.contains i) = some 1 := by decide

theorem wit_LowHalfReadLatchesHighHalf : hostReaches dev0 0 = true ∧ 0x18 < barSize 0 ∧ 0x18 % 8 = 0
    ∧ reg64 { dev0 with halter := { dev0.halter with idleSince := none } } 0 0x18 = some 10000
    ∧ tget (tenantOf dev0.chip 0).latch 0x1C = none ∧ tget (tenantOf (withPf0 (fun t => { t with latch := [(0x1C, 7)] })).chip 0).latch 0x1C = some 7
    ∧ 0x18 < barSize 0 ∧ (0x18 % 16 ≠ 0 ∧ 0x1A % 4 ≠ 0) := by decide

theorem wit_RegisterWriteTakesFields : hostReaches dev0 0 = true ∧ dev0.chip.dev ≠ .off ∧ dev0.chip.linkUp = true
    ∧ (tenantOf dev0.chip 0).present = true ∧ bit (512 : W64).toNat 9 = true ∧ 0x708002 < barSize 0 ∧ 0x708002 % 4 ≠ 0 := by decide

/-- DEVICE and HOST windows over all that their kind can hold, and one of size 0. -/
def devWin : Window := { Window.reset with size := 0x3000000000 }
def withWin (w : Window) : State := withPf0 (fun t => { t with windows := [(0, w)] })
theorem wit_WindowsTakeForce :
    (hostReaches (withWin devWin) 0 = true ∧ inForce (windowOf (withWin devWin).chip 0 0) = false
      ∧ windowErr (withWin devWin).chip 0 0 (withControl devWin 1) = 0 ∧ (withControl devWin 1).host = false)
    ∧ (windowErr (withWin devWin).chip 0 0 (withControl devWin 3) = 0 ∧ (withControl devWin 3).host = true)
    ∧ (windowErr dev0.chip 0 63 (withControl (windowOf dev0.chip 0 63) 1) ≠ 0 ∧ inForce (windowOf dev0.chip 0 63) = false)
    ∧ (windowOf (withWin { devWin with pending := true }).chip 0 0).pending = true
    ∧ (windowOf (noteWork dev0.chip (envOf dev0) 0 []) 0 0 = win0 ∧ win0.valid = true ∧ win0.pending = false) := by decide

theorem wit_ChannelPointerWrites : hostReaches dev0 0 = true
    ∧ ((256 : W32) - (tenantOf dev0.chip 0).chan.reqHead).toNat ≤ chanCap 0
    ∧ chanCap 0 < ((257 : W32) - (tenantOf dev0.chip 0).chan.reqHead).toNat := by decide

theorem wit_RnHostWrites : hostReaches dev0 0 = true ∧ srcOwner dev0.chip 29 = some 0 ∧ isPin 29 = false ∧ srcOwner dev0.chip 2047 ≠ some 0
    ∧ groupBusy dev0.chip 2 = false ∧ (tget dev0.chip.rein.groups 2).getD 0 ≠ (0x21 : W32).toNat % 64
    ∧ groupBusy (withPf0 (fun t => { t with noticeBind := some 64 })).chip 2 = true := by decide

/-- Source 32, owned by PF0, pending on the host path with vector 0. -/
def rein0 : Rein := { Rein.reset with cfg := [(32, { SrcCfg.reset 32 with hostEn := true })], pendingHost := [32], activeHost := [33] }
def srcWaits : State := withChip (fun c => { c with rein := rein0, tenants := [(0, { pf0 with unmasked := [32] })] })
def openEntry : MsixEntry := { addr := 64, data := 1, masked := false }
def vectorOpen : State :=
  { srcWaits with chip := { srcWaits.chip with tenants := [(0, { pf0 with unmasked := [32], msix := [(0, openEntry)] })] } }
theorem wit_HostPathDelivers : (hostReaches srcWaits 0 = true ∧ waitingOn srcWaits.chip 0 0 ≠ [] ∧ waitingOn srcWaits.chip 0 255 = [])
    ∧ (waitingOn vectorOpen.chip 0 0 ≠ [] ∧ (msixOf (tenantOf vectorOpen.chip 0) 0).masked = false ∧ vectorOpen.chip.dev ≠ .off
      ∧ (tenantOf vectorOpen.chip 0).present = true ∧ vectorOpen.chip.linkUp = true)
    ∧ srcWaits.chip.rein.activeHost.contains 33 = true ∧ srcWaits.chip.rein.activeHost.contains 34 = false := by decide

theorem wit_CounterGroupAndRelease : hostReaches dev0 0 = true ∧ (tget dev0.chip.counters.groups 16).getD 0 ≠ (0x20 : W32).toNat % 64
    ∧ (tget dev0.chip.counters.groups 127).getD 0 = (0x40 : W32).toNat % 64
    ∧ groupOwner dev0.chip.counters.groups (512 / 32) = none := by decide

/-! ### Witnesses: management requests -/

def event0 : Event :=
  { handle := mkHandle 6 0 0, owner := 0, refs := { host := 1, dev := 0 }, state := .idle, hitch := 0, target := 0, source := 0, armGait := 0,
    fireGait := 0 }
def token0 : Token := { owner := 0, mem := 0, reuse := 0, rd := true, wr := true, revoking := false, accepted := 0 }

/-- FP32, rank 1, 16 elements at byte `base` × 64 of object 0. -/
def tensor (base : Nat) : Nat := 0x30000000 + field base 32 30 + field 0 64 4 + field 1 68 4 + field 16 128 20
def descs0 : DescTable :=
  { slots := [(1, { live := some (BitVec.ofNat 512 (tensor 0x1000)), reuse := 0 }), (2, { live := some (BitVec.ofNat 512 (tensor 0x1001)), reuse := 0 })],
    pages := [(0, [3])], poisoned := [] }

/-- The device with an event, a token, two descriptors, owned groups, mapped clusters and one spare; a tensor's image at 0x80000. -/
def rich : Chip :=
  { chip0 with events := [(0, event0)], tokens := [(0, token0)], tenants := [(0, { pf0 with descs := descs0 })],
               rein := { Rein.reset with groups := [(2, 0x20)] }, counters := { Counters.reset with groups := [(16, 0x20)] },
               compute := { Compute.reset with phys := (List.range 8).map (fun i => (i, .enabled, some i)) ++ [(8, .spare, none), (9, .spare, none)] },
               memory := { Memory.reset with hbm := writeBytes [] 0x80000 (toLe 64 (tensor 0x1000)) },
               allocs := [(1, { next := 1, freed := [], reuse := [] }), (2, { next := 1, freed := [], reuse := [] }),
                          (3, { next := 1, freed := [], reuse := [] }), (5, { next := 1, freed := [], reuse := [] }),
                          (6, { next := 1, freed := [], reuse := [] }), (10, { next := 1, freed := [], reuse := [] })] }

def richRq (f : Chip → Chip) (r : Nat) : State :=
  let c := f rich
  { dev0 with chip := { c with arrivals := [0], tenants := tset c.tenants 0 { tenantOf c 0 with chan :=
      { Channel.reset with reqTail := 1, reqBytes := writeBytes [] 0 (toLe 64 r) } } } }

/-- The chip once `r` is taken. -/
def tk (f : Chip → Chip) (r : Nat) : Chip := (taken (richRq f r) 0).chip
def sv (f : Chip → Chip) (op r : Nat) : Bool := served (richRq f r) 0 op r
def next? (f : Chip → Chip) (r sp : Nat) : Option Nat := (takeIndex (tk f r) sp).map (fun p => p.1)

/-- The object while a request that names it is executed (02 R81). -/
def mem1 : MemObj := { mem0 with refs := { host := 1, dev := 3 } }

def hCtx : Nat := 0x10000000
def hQueue : Nat := 0x20000000
def hMem : Nat := 0x30000000
def hHitch : Nat := 0x50000000
def hEvent : Nat := 0x60000000

/-- A second window, over host memory from 0 on. -/
def hostWin (c : Chip) : Chip :=
  { c with tenants := [(0, { tenantOf c 0 with windows := (tenantOf c 0).windows ++ [(1, { Window.reset with valid := true, host := true, size := 0x100000 })] })] }

theorem wit_ObjectsAreCreated_new :
    (let r := 0x10 + field 0xF 68 4
     sv id 0x10 r = true ∧ charged (tk id r) (rqOwner 0 r) 0 < 256 ∧ quotaRoom (tk id r) (rqOwner 0 r) 0 1 = true ∧ next? id r 1 = some 1)
    ∧ (let r := 0x13 + field 5 64 64
       sv id 0x13 r = true ∧ quotaRoom (tk id r) (rqOwner 0 r) 3 1 = true ∧ next? id r 5 = some 1)
    ∧ (sv id 0x14 0x14 = true ∧ quotaRoom (tk id 0x14) (rqOwner 0 0x14) 4 1 = true ∧ next? id 0x14 6 = some 1)
    ∧ (let r := 0x12 + field 1 64 1 + field 1 72 6 + field 4096 128 64 + field 0xFF000 192 64
       sv hostWin 0x12 r = true ∧ homeOk (tk hostWin r) (rqOwner 0 r) (fieldHandle r 127) = true ∧ quotaRoom (tk hostWin r) (rqOwner 0 r) 2 1 = true
         ∧ next? hostWin r 3 = some 1 ∧ memoryForm (bit r 64) (bit r 65) (bits r 191 128) = true ∧ bit r 64 = true
         ∧ winCovers (windowOf (tk hostWin r) (rqOwner 0 r) (bits r 77 72)) true (bits r 255 192) (bits r 191 128) = true)
    ∧ (let r := 0x12 + field 1 65 1 + field 65536 128 64 + field hCtx 96 32
       sv id 0x12 r = true ∧ homeOk (tk id r) (rqOwner 0 r) (fieldHandle r 127) = true ∧ quotaRoom (tk id r) (rqOwner 0 r) 2 1 = true
         ∧ next? id r 3 = some 1 ∧ memoryForm (bit r 64) (bit r 65) (bits r 191 128) = true ∧ bit r 64 = false ∧ bit r 65 = true
         ∧ quotaRoom (tk id r) (rqOwner 0 r) 6 (2 * bits r 191 128 / 65536) = true
         ∧ placements (tk id r) (windowOf (tk id r) (rqOwner 0 r) (bits r 77 72)) (2 * bits r 191 128) ≠ []) := by decide +kernel

theorem wit_ObjectsAreCreated_queue :
    let r := 0x11 + field hCtx 64 32 + field hMem 96 32 + field hMem 128 32 + field 0x20000 192 64 + field 0x30000 256 64 + field 8 320 5 + field 6 328 5
    let c := tk id r
    let t := actor c 0 (fieldHandle r 95)
    (sv id 0x11 r = true ∧ 8 ≤ bits r 324 320 ∧ bits r 324 320 ≤ 20 ∧ 6 ≤ bits r 332 328 ∧ bits r 332 328 ≤ 16
      ∧ handleOk c t [1] (fieldHandle r 95) = true ∧ deviceObj c t (fieldHandle r 127) = some (0, mem0) ∧ deviceObj c t (fieldHandle r 159) = some (0, mem0))
    ∧ ringPlaced c mem0 (bits r 255 192) (16 * pow2 (bits r 324 320)) none = true
    ∧ ringPlaced c mem0 (bits r 319 256) (64 + 16 * pow2 (bits r 332 328)) none = true
    ∧ overlap (mem0.addr + bits r 255 192) (16 * pow2 (bits r 324 320)) (mem0.addr + bits r 319 256) (64 + 16 * pow2 (bits r 332 328)) = false
    ∧ (queuesOf c (hIndex (fieldHandle r 95)) < 16 ∧ quotaRoom c t 1 1 = true ∧ refRoom c (fieldHandle r 95) = true
      ∧ refRoom c (fieldHandle r 127) = true ∧ refRoom c (fieldHandle r 159) = true ∧ freeSlots c t ≠ [] ∧ next? id r 2 = some 1) := by decide +kernel

def armed (src : Nat) : Nat := 0x15 + field hEvent 64 32 + field hHitch 96 32 + field 3 128 64 + field src 192 11
theorem wit_ObjectsAreCreated_events :
    (let r := armed 64
     let c := tk id r
     let t := actor c 0 (fieldHandle r 95)
     sv id 0x15 r = true ∧ handleOk c t [6] (fieldHandle r 95) = true ∧ handleOk c t [5] (fieldHandle r 127) = true
       ∧ Machine.sourceOk c t (bits r 202 192) = true ∧ tget rich.events (hIndex (fieldHandle r 95)) = some event0
       ∧ (tget rich.hitches (hIndex (fieldHandle r 127))).isSome = true ∧ event0.state ≠ .armed ∧ slotRoom c t = true
       ∧ refRoom c (fieldHandle r 127) = true)
    ∧ (let r := 0x1C + field hMem 64 32 + field 3 96 2
       sv id 0x1C r = true ∧ deviceObj (tk id r) (rqOwner 0 r) (fieldHandle r 95) = some (0, mem0)
         ∧ rich.tokens.countP (fun p => p.2.owner == rqOwner 0 r && !p.2.revoking) < 1024 ∧ refRoom (tk id r) (fieldHandle r 95) = true
         ∧ next? id r 10 = some 1)
    ∧ (let r := 0x1D + field 0xA0000000 64 32
       sv id 0x1D r = true ∧ tokenOf rich (fieldHandle r 95) = some (0, token0) ∧ token0.revoking = false ∧ token0.owner = rqOwner 0 r) := by
  decide +kernel

theorem wit_SettingsAreTaken_rings :
    (let r := 0x17 + field hCtx 64 32 + field 15 96 4
     sv id 0x17 r = true ∧ handleOk (tk id r) (actor (tk id r) 0 (fieldHandle r 95)) [1] (fieldHandle r 95) = true
       ∧ ctxWorks rich (hIndex (fieldHandle r 95)) = false ∧ tget rich.contexts (hIndex (fieldHandle r 95)) = some ctx0)
    ∧ served (withRq (0x20 + field 31 64 5 + field 6 72 3 + field 9 96 32)) 0 0x20 (0x20 + field 31 64 5 + field 6 72 3 + field 9 96 32) = true
    ∧ (sv id 0x18 0x18 = true ∧ fieldHandle 0x18 95 = 0 ∧ sv id 0x19 0x19 = true ∧ sv id 0x24 0x24 = true)
    ∧ ([(0, 0x18), (1, 0x19), (2, 0x24)].all (fun p =>
        let r := p.2 + field hMem 64 32 + field 0x40000 128 64 + field (4 + 4 * p.1) 192 5
        let c := tk id r
        let t := actor c 0 (fieldHandle r 95)
        sv id p.2 r && fieldHandle r 95 != 0 && decide (4 ≤ bits r 196 192) && decide (bits r 196 192 ≤ 16)
          && deviceObj c t (fieldHandle r 95) == some (0, mem0)
          && ringPlaced c mem0 (bits r 191 128) (64 + (if p.1 = 0 then 32 else 64) * pow2 (bits r 196 192)) (some (t, p.1))
          && refRoom c (fieldHandle r 95)) = true) := by decide +kernel

theorem wit_SettingsAreTaken_sources :
    (let r := 0x1E + field 64 72 11 + field hQueue 96 32
     sv id 0x1E r = true ∧ bit r 71 = false ∧ Machine.sourceOk (tk id r) (rqOwner 0 r) (bits r 82 72) = true ∧ bits r 65 64 = 0
       ∧ handleOk (tk id r) (rqOwner 0 r) [2] (fieldHandle r 127) = true ∧ (tget rich.queues (hIndex (fieldHandle r 127))).isSome = true)
    ∧ ([1, 2].all (fun k => let r := 0x1E + field k 64 2 + field 1 71 1; sv id 0x1E r && bit r 71 && bits r 65 64 == k && fieldHandle r 127 == 0) = true)
    ∧ (let r := 0x1F + field 64 64 11 + field 1 75 1 + field 255 80 8
       sv id 0x1F r = true ∧ Machine.sourceOk (tk id r) (rqOwner 0 r) (bits r 74 64) = true ∧ bits r 87 80 < vectorCount (rqOwner 0 r))
    ∧ (let r := 0x21 + field 512 64 12 + field 15 80 8 + field 1 89 1 + field hCtx 96 32 + field 319 144 9
       sv id 0x21 r = true ∧ groupOwner rich.counters.groups (bits r 75 64 / 32) = some 0 ∧ bits r 87 80 < 16 ∧ bits r 136 128 ≤ bits r 152 144
         ∧ bits r 152 144 < 320 ∧ bit r 89 = true ∧ fieldHandle r 127 ≠ 0 ∧ handleOk (tk id r) 0 [1] (fieldHandle r 127) = true) := by decide +kernel

/-- A held bank; one freeze pending. -/
def frozen0 : Freeze := { tf := 9, id := 1, source := 0, broadcast := false }
def holdBank (c : Chip) : Chip := { c with counters := { c.counters with heldBank := some (frozen0, [(4095, 7)]) } }
def pendFreeze (c : Chip) : Chip := { c with counters := { c.counters with pendingFreeze := some frozen0 } }
theorem wit_SettingsAreTaken_counters :
    ([(id, 0), (holdBank, 1)].all (fun p =>
      let r := 0x22 + field hMem 64 32 + field 0x50000 128 64 + field 4095 192 12 + field 1 208 13 + field p.2 224 1
      let c := tk p.1 r
      sv p.1 0x22 r && bits r 191 128 % 8 == 0 && bits r 220 208 == 1 && decide (bits r 203 192 + bits r 220 208 ≤ 4096)
        && deviceObj c 0 (fieldHandle r 95) == some (0, mem1) && counterReadable c 0 4095
        && windowReason c 0 mem1 mem1.pub (bits r 191 128) (8 * bits r 220 208) == none
        && !c.mems.any (fun q => q.2.lazy) && c.counters.heldBank.isSome == bit r 224) = true)
    ∧ (sv id 0x23 0x23 = true ∧ rich.counters.heldBank = none ∧ rich.counters.pendingFreeze = none)
    ∧ (sv pendFreeze 0x23 0x23 = true ∧ (pendFreeze rich).counters.heldBank = none) := by decide +kernel

theorem wit_SettingsAreTaken_descriptors :
    (let r := 0x1A + field hMem 64 32 + field 1 96 4 + field 0x80000 128 64
     let c := cntHbm (tk id r) 64 (mem0.at mem0.pub 0x80000) 64
     let imgs : List W512 := [BitVec.ofNat 512 (leAt (loadDev (tk id r) (mem0.at mem0.pub 0x80000) 64) 0 64)]
     sv id 0x1A r = true ∧ bits r 99 96 = 1 ∧ bits r 191 128 = 0x80000 ∧ deviceObj (tk id r) (rqOwner 0 r) (fieldHandle r 95) = some (0, mem1)
       ∧ bits r 191 128 + 64 * bits r 99 96 ≤ mem0.size ∧ readPoison (tk id r) (mem0.at mem0.pub 0x80000) 64 = none
       ∧ imgs.all (fun g => descCheck c (rqOwner 0 r) g == none) = true ∧ (createDescsN (rqOwner 0 r) c imgs).isSome = true)
    ∧ (let r := 0x1B + field 2 64 4 + field 1 96 32 + field 2 128 32
       sv id 0x1B r = true ∧ bits r 67 64 = 2 ∧ (List.range 2).map (fun i => bits r (127 + 32 * i) (96 + 32 * i)) = [1, 2]
         ∧ [1, 2].all (fun d => (descOf rich (rqOwner 0 r) d).isSome) = true) := by decide +kernel

theorem wit_ResetsAndRepairs :
    (let r := 0x40 + field hQueue 64 32
     sv id 0x40 r = true ∧ handleOk (tk id r) (actor (tk id r) 0 (fieldHandle r 95)) [2] (fieldHandle r 95) = true)
    ∧ (let r := 0x41 + field hCtx 64 32
       sv id 0x41 r = true ∧ handleOk (tk id r) (actor (tk id r) 0 (fieldHandle r 95)) [1] (fieldHandle r 95) = true)
    ∧ (let f := fun c : Chip => { c with contexts := [(0, { ctx0 with runnable := false })] }
       let r := 0x42 + field hCtx 64 32
       sv f 0x42 r = true ∧ handleOk (tk f r) (actor (tk f r) 0 (fieldHandle r 95)) [1] (fieldHandle r 95) = true
         ∧ tget (f rich).contexts (hIndex (fieldHandle r 95)) = some { ctx0 with runnable := false })
    ∧ (let r := 0x43 + field 7 64 9
       sv id 0x43 r = true ∧ bits r 72 64 = 7 ∧ rich.compute.draining.contains 7 = false ∧ physOf rich 7 = some 7 ∧ spareLeft rich = true
         ∧ (holderOf (tk id r) 0).isNone = true)
    ∧ (let r := 0x44 + field 1 64 1 + field 7 68 3
       sv id 0x44 r = true ∧ tget rich.compute.outrider (bits r 70 68) = none)
    ∧ (sv id 0x45 0x45 = true ∧ (tenantOf rich (bits 0x45 68 64)).present = true)
    ∧ (let r := 0x60 + field 7 64 9; sv id 0x60 r = true ∧ bits r 72 64 = 7)
    ∧ (let r := 0x61 + field 7 64 3 + field 31 72 5
       sv id 0x61 r = true ∧ tget (stackState rich (bits r 66 64)).migrating (bits r 76 72) = none
         ∧ (stackState rich (bits r 66 64)).spareFree ≠ [] ∧ (stackState rich (bits r 66 64)).dead.contains (bits r 76 72) = false) := by
  decide +kernel

theorem wit_RequestsAreTakenAndAnswered : (dev0.chip.dev ≠ .off ∧ busyFarrier dev0.farrier = false ∧ nextFn (withRq 0xFF).chip = some 0
      ∧ entryOf (withRq 0xFF).chip 0 = 0xFF ∧ rqDefined (rqOp 0xFF) = false ∧ stateAnswer (withRq 0xFF).chip 0 (rqOp 0xFF) = none)
    ∧ rqDefined (rqOp 0x26) = false ∧ rqDefined (rqOp 0x25) = true ∧ served (withRq (0x25 + field 8 64 8)) 0 0x25 (0x25 + field 8 64 8) = true := by
  decide +kernel

/-- A load of no bytes, whose container is refused with code 0x101, and one of the last 64 bytes of the object. -/
theorem wit_LoadProgramFollowsVerdict :
    let r := 0x16 + field hMem 64 32 + field 0xFFFC0 128 64 + field 64 192 64
    served (withRq r) 0 0x16 r = true ∧ bits r 191 128 % 64 = 0 ∧ deviceObj (taken (withRq r) 0).chip (rqOwner 0 r) (fieldHandle r 95) = some (0, mem1)
      ∧ homeOk (taken (withRq r) 0).chip (rqOwner 0 r) (fieldHandle r 127) = true ∧ bits r 191 128 + bits r 255 192 ≤ mem0.size
      ∧ readPoison (taken (withRq r) 0).chip (mem0.at mem0.pub (bits r 191 128)) (bits r 255 192) = none
      ∧ containerVerdict [0x00070001] 0x7FF (List.replicate 64 0) 64 = some 0x101 := by decide +kernel

/-- NEGOTIATE of 1.4 by a PF0 that agreed nothing; in HOLD; and of major 2. -/
def negRq (major : Nat) : Nat := 0x01 + field 4 64 16 + field major 80 16 + field 0x7FF 128 128
def asking (d : DevState) (major : Nat) : State :=
  { withRq (negRq major) with chip := { (withRq (negRq major)).chip with dev := d, tenants := [(0, { tenantOf (withRq (negRq major)).chip 0 with agreed := none })] } }
theorem wit_NegotiateAgrees : (served (asking .ready 1) 0 0x01 (negRq 1) = true ∧ (tenantOf (asking .ready 1).chip 0).agreed = none
      ∧ bits (negRq 1) 95 80 = FwImage.shipping.major.toNat ∧ (asking .ready 1).chip.dev ≠ .hold
      ∧ (asking .ready 1).farrier.running = some FwImage.shipping)
    ∧ (served (asking .hold 1) 0 0x01 (negRq 1) = true ∧ (asking .hold 1).chip.dev = .hold)
    ∧ (served (asking .ready 2) 0 0x01 (negRq 2) = true ∧ bits (negRq 2) 95 80 ≠ FwImage.shipping.major.toNat) := by decide +kernel

def walkRq (w w' : BitVec 5) (r : Nat) : State := { withRq r with chip := { (withRq r).chip with dev := .walk, walk := w, walkCleared := w' } }
theorem wit_WalkRequests : served (walkRq 1 0 0x46) 0 0x46 0x46 = true ∧ served (walkRq 1 1 0x47) 0 0x47 0x47 = true
    ∧ (walkRq 1 1 0x47).chip.walk &&& ~~~(walkRq 1 1 0x47).chip.walkCleared = 0
    ∧ (walkRq 3 1 0x47).chip.walk &&& ~~~(walkRq 3 1 0x47).chip.walkCleared ≠ 0 := by decide +kernel

/-! ### Witnesses: Farrier's and the domains' requests -/

def stageRq : Nat := 0x50 + field 1 64 2 + field 0x1000 128 64 + field 256 192 64
theorem wit_FirmwareStagingAndBoot : served (withRq stageRq) 0 0x50 stageRq = true
    ∧ (tenantOf (taken (withRq stageRq) 0).chip 0).windows.any (fun p => winCovers p.2 false (bits stageRq 191 128) (bits stageRq 255 192)) = true
    ∧ (withRq stageRq).farrier.slot ≠ bits stageRq 65 64
    ∧ (requestRead (taken (withRq stageRq) 0).chip (bits stageRq 191 128) (bits stageRq 255 192)).2 = some (List.replicate 256 0)
    ∧ fwParse (List.replicate 256 0) = none ∧ served (withRq 0x52) 0 0x52 0x52 = true
    ∧ served (withRq (0x53 + field 1 64 1)) 0 0x53 (0x53 + field 1 64 1) = true := by decide +kernel

def limitsRq (cap : Nat) : Nat := 0x58 + field cap 64 16 + field 110 88 8 + field 150 96 16
theorem wit_SetLimitsTakesOrRefuses : served (withRq (limitsRq 600)) 0 0x58 (limitsRq 600) = true
    ∧ limitField (bits (limitsRq 600) 79 64) 600 1500 = some 600 ∧ limitField (bits (limitsRq 600) 87 80) 85 105 = some 105
    ∧ limitField (bits (limitsRq 600) 95 88) 95 115 = some 110 ∧ limitField (bits (limitsRq 600) 111 96) 150 520 = some 150
    ∧ bits (limitsRq 600) 79 64 % 100 = 0 ∧ 105 + 5 ≤ 110
    ∧ served (withRq (limitsRq 500)) 0 0x58 (limitsRq 500) = true ∧ limitField (bits (limitsRq 500) 79 64) 600 1500 = none
    ∧ bits (limitsRq 650) 79 64 % 100 ≠ 0 := by decide +kernel

def updating (u : UpdatePhase) : State := { dev0 with farrier := { dev0.farrier with update := u } }
theorem wit_LiveUpdateGoesThrough : (served (withRq 0x51) 0 0x51 0x51 = true ∧ isUp (withRq 0x51).chip = true
      ∧ hasFeat (featuresOf (taken (withRq 0x51) 0).chip 0) featLive = true ∧ (slotImage (withRq 0x51).flash (bits 0x51 65 64)).isSome = true)
    ∧ (updating (.loading 0 0 7)).farrier.update = .loading 0 0 7
    ∧ ((updating (.gap 0 0 7 0)).farrier.running = some FwImage.shipping ∧ slotImage dev0.flash 0 = some FwImage.shipping)
    ∧ handoverReason (checkpoint dev0.chip (envOf dev0)) FwImage.shipping evidence0 = 0
    ∧ handoverReason (checkpoint dev0.chip (envOf dev0)) FwImage.shipping { evidence0 with checkOk := false } ≠ 0 := by decide +kernel

theorem wit_WatchdogRestartsCount : dev0.chip.dev ≠ .off ∧ dev0.farrier.running = some FwImage.shipping ∧ dev0.farrier.update = .none
    ∧ (dev0.chip.clock :: dev0.farrier.recent.filter (fun t => decide (dev0.chip.clock < t + 60000000000))).length = 1
    ∧ (dev0.chip.clock :: [3, 2, 1].filter (fun t => decide (dev0.chip.clock < t + 60000000000))).length = 4
    ∧ dev0.farrier.pinned = false ∧ slotImage dev0.flash 2 = none := by decide +kernel

def domainRq (p : Nat) : Nat := 0x70 + field 7 64 3 + field 3 67 2 + field p 96 32 + field 5 128 64
theorem wit_BeatDomainRequests : served (withRq (domainRq 1000000)) 0 0x70 (domainRq 1000000) = true ∧ 1000000 ≤ bits (domainRq 1000000) 127 96
    ∧ served (withRq (domainRq 1000000000)) 0 0x70 (domainRq 1000000000) = true ∧ bits (domainRq 1000000000) 127 96 ≤ 1000000000
    ∧ bit (domainRq 1000000) 67 = true ∧ hasFeat (featuresOf (taken (withRq (domainRq 1000000)) 0).chip 0) featBeatExt = true
    ∧ (∀ p ∈ dev0.beats, p.1 ≠ 7 → p.2.ext = false ∧ p.2.out = false) ∧ bits (domainRq 1000000) 191 128 ≠ 0
    ∧ served (withRq (0x71 + field 15 64 4)) 0 0x71 (0x71 + field 15 64 4) = true := by decide +kernel

/-- A plan of one chip (serial 0 at 0, 0, slice 0), with its check value, at offset 0 of object 0. -/
def planBytes : List Byte :=
  let b := toLe 80 (0x3150435A + field 1 32 32 + field 1 64 16 + field 1 96 8 + field 1 104 8)
  b.take 0x10 ++ toLe 4 (crc32c b) ++ b.drop 0x14
def planRq : Nat := 0x78 + field hMem 64 32
def planState (b : List Byte) : State :=
  { withRq planRq with chip := { (withRq planRq).chip with memory := { Memory.reset with hbm := writeBytes [] 0 b } } }
theorem wit_CablingAndPortRequests : served (planState planBytes) 0 0x78 planRq = true
    ∧ deviceObj (taken (planState planBytes) 0).chip 0 (fieldHandle planRq 95) = some (0, mem1)
    ∧ (requestRead (taken (planState planBytes) 0).chip 0 64).2 = some (planBytes.take 64) ∧ badPlanHeader (planBytes.take 64) = false
    ∧ (requestRead (taken (planState planBytes) 0).chip 64 16).2 = some (planBytes.drop 64) ∧ planLen (planBytes.take 64) = 80
    ∧ planLegal planBytes = true ∧ planLegal (planBytes.set 79 1) = false
    ∧ served (withRq (0x79 + field 3 64 2)) 0 0x79 (0x79 + field 3 64 2) = true
    ∧ served (withRq (0x7A + field 255 64 8 + field 1 72 1)) 0 0x7A (0x7A + field 255 64 8 + field 1 72 1) = true
    ∧ served (withRq 0x7B) 0 0x7B 0x7B = true ∧ (withRq 0x7B).halter.zrefclk = true := by decide +kernel

/-! ### Witnesses: link, resets, power, Governor -/

def linkDown0 : State := withChip (fun c => { c with linkUp := false })
def withVfs : State := { withChip (fun c => { c with tenants := [(0, pf0), (31, { Tenant.reset 31 with present := true })] }) with
  link := { Link.reset with vfEnable := true, numVfs := 31 } }
theorem wit_LinkAndFunctionEvents : (linkDown0.chip.dev ≠ .off ∧ linkDown0.chip.linkUp = false ∧ linkDown0.halter.hclk = true
      ∧ linkDown0.halter.sysclk = true ∧ linkDown0.halter.refclk = true ∧ 1 ∈ [1, 2, 4, 8, 16])
    ∧ dev0.chip.linkUp = true ∧ (configured dev0 = true ∧ dev0.link.vfEnable = false) ∧ (configured withVfs = true ∧ withVfs.link.vfEnable = true)
    ∧ (tenantOf withVfs.chip 31).present = true ∧ (configured (withPf0 (fun t => { t with memSpace := false })) = true
      ∧ (tenantOf (withPf0 (fun t => { t with memSpace := false })).chip 0).memSpace = false) := by decide

theorem wit_WholeDeviceResetsClear : dev0.chip.dev ≠ .off ∧ dev0.chip.linkUp = true ∧ dev0.halter.pwrGood = true ∧ dev0.halter.perstN = true
    ∧ ({ dev0 with gov := { dev0.gov with shutdownPending := true } } : State).gov.shutdownPending = true := by decide

theorem wit_PowerUpBegins : (withHalter (fun h => { h with vddAon := false })).halter.vddAon = false
    ∧ (withHalter (fun h => { h with pwrGood := false })).halter.pwrGood = false ∧ State.reset.halter.vddAon = true
    ∧ State.reset.halter.perstN = false ∧ State.reset.chip.dev = .off ∧ State.reset.halter.pwrGood = true ∧ State.reset.halter.shutdownHold = false
    ∧ ({ State.reset with halter := { Halter.reset with pwrGood := false, perstN := true } } : State).halter.perstN = true := by decide

def booting (major : W16) : State :=
  { withChip (fun c => { c with dev := .bringup }) with farrier := { Farrier.reset with running := some FwImage.shipping, ifaceReq := major } }
theorem wit_BringupEndsInItsState : (booting 0).chip.dev = .bringup ∧ (booting 0).farrier.running = some FwImage.shipping
    ∧ (booting 0).halter.hclk = true ∧ (booting 0).halter.sysclk = true ∧ (booting 0).halter.refclk = true
    ∧ (booting 2).farrier.ifaceReq ≠ 0 ∧ (booting 2).farrier.ifaceReq ≠ FwImage.shipping.major ∧ (booting 1).farrier.ifaceReq = FwImage.shipping.major
    ∧ ({ test0 with sramExhausted := true }).sramExhausted = true := by decide

def atPower (p : PowerState) (clock : Nat) : State :=
  { withChip (fun c => { c with clock := clock }) with
    halter := { Halter.reset with perstN := true, power := p, idleSince := some 0, dozeSince := some 0, haltEn := true, l12 := true } }
def pinSrc : State :=
  { atPower .doze 0 with chip := { chip0 with rein := { Rein.reset with cfg := [(13, { SrcCfg.reset 13 with hostEn := true })] } } }
theorem wit_PowerStatesGoAndCome : (isUp (atPower .active 10000).chip = true ∧ quiet (atPower .active 10000) = true
      ∧ since (atPower .active 10000).halter.idleSince (atPower .active 10000).chip.clock 10000 = true)
    ∧ ((atPower .idle 10000000).halter.dozeEn = true ∧ quiet (atPower .idle 10000000) = true
      ∧ since (atPower .idle 10000000).halter.idleSince 10000000 (1000000 * (atPower .idle 10000000).halter.dozeDelayMs) = true)
    ∧ ((atPower .doze 60000000000).halter.haltEn = true ∧ haltBlock (atPower .doze 60000000000) = 0
      ∧ since (atPower .doze 60000000000).halter.dozeSince 60000000000 (1000000000 * (atPower .doze 60000000000).halter.haltDelayS) = true)
    ∧ isUp (atPower .halt 0).chip = true ∧ (atPower .halt 0).halter.power = .halt
    ∧ isPin 13 = true ∧ 2 ≤ (srcCfg pinSrc.chip 13).sense ∧ ((srcCfg pinSrc.chip 13).coreEn || (srcCfg pinSrc.chip 13).hostEn) = true
    ∧ pinSrc.halter.power = .doze ∧ ∀ p ∈ pinSrc.chip.rein.latches, p.1 ≠ 13 := by decide

theorem wit_SmbusAnswers : smbusAnswers (withChip (fun c => { c with clock := 2000000 })) = true ∧ smbusAnswers (withChip (fun c => { c with clock := 1999996 })) = false := by
  decide

def withGov0 (f : Gov → Gov) : State := { dev0 with gov := f dev0.gov }
def slept (n : Nat) (f : Gov → Gov) : State := { withGov0 f with chip := { chip0 with clock := n } }
theorem wit_GovernorActs : (governs dev0 = true ∧ dev0.gov.tthrot ≤ 105 ∧ dev0.gov.plimit ≤ 520 ∧ dev0.gov.lastDown = none)
    ∧ (cool dev0.gov = true ∧ light dev0.gov = true ∧ throttling dev0.gov = false ∧ dev0.gov.regFault = false ∧ dev0.gov.clMhz < dev0.gov.fcap
      ∧ since (slept 10000000 (fun g => { g with lastUp := some 0 })).gov.lastUp (slept 10000000 id).chip.clock 10000000 = true)
    ∧ since (slept 1000000000 (fun g => { g with stuckSince := some 0 })).gov.stuckSince 1000000000 1000000000 = true
    ∧ (bit (1 : BitVec 5).toNat 0 = true ∧ since (slept 10000000000 (fun g => { g with heldSince := some 0 })).gov.heldSince 10000000000 10000000000 = true)
    ∧ dev0.gov.extAlert ≠ true ∧ (withGov0 (fun g => { g with extAlert := true })).gov.extAlert ≠ false := by decide

/-! ### Witnesses: beats, interrupts, freezes -/

def beat0 : Beat := { Beat.reset with next := 10000, period := 1000000 }
def extBeat : Beat := { Beat.reset with ext := true, state := 1, period := 1000000, last := 0, next := 1000000 }
def withBeat (b : Beat) (gait : Nat) : State := { withChip (fun c => { c with gait := gait }) with beats := [(7, b)] }
/-- An accepted edge of BEAT_SYNC_IN, timed t. -/
def edgeAt (t : Nat) (s : State) : State := { s with chip := { s.chip with rein := { s.chip.rein with edges := [t] } } }
theorem wit_BeatEvents : (isUp (withBeat beat0 10000).chip = true ∧ tget (withBeat beat0 10000).beats 7 = some beat0 ∧ beat0.next ≤ (withBeat beat0 10000).chip.gait)
    ∧ ((withHalter (fun h => { h with beatOut := true })).halter.beatOut = true ∧ 0 + 10000 ≤ 10000 ∧ 9999 < 0 + 10000)
    ∧ (extDomain (edgeAt 875000 (withBeat extBeat 1000000)) = some (7, extBeat) ∧ 875000 ≤ (edgeAt 875000 (withBeat extBeat 1000000)).chip.gait
      ∧ (edgeAt 875000 (withBeat extBeat 1000000)).chip.rein.edges = [875000] ∧ extBeat.period < 2147483648
      ∧ extBeat.last + extBeat.period / 2 ≤ 875000 ∧ 875000 ≤ extBeat.next ∧ extBeat.next - 875000 ≤ extBeat.period / 8 ∧ extBeat.edgeNext = false)
    ∧ (extDomain (withBeat { extBeat with edgeNext := true } 1000000) = some (7, { extBeat with edgeNext := true })
      ∧ extBeat.last + extBeat.period / 2 ≤ 500000)
    ∧ (extBeat.state ≠ 3 ∧ extBeat.lastEdge + 4 * extBeat.period ≤ (withBeat extBeat 4000000).chip.gait) := by decide

def reinCore0 : Rein :=
  { Rein.reset with cfg := [(64, { SrcCfg.reset 64 with coreEn := true, coreMask := 0x80, priority := 3 })], pendingCore := [64], groups := [(2, 0x20)],
                    cores := [(7, { vbase := 0x100, eligible := true, stack := [] })], activeCore := [(65, 7)] }
def coreWaits : State := withChip (fun c => { c with rein := reinCore0 })
theorem wit_CorePathDelivers : (sensing dev0 = true ∧ isPin 13 = true ∧ dev0.chip.rein.levels.contains 13 ≠ true ∧ held dev0.chip 13 10000 = true)
    ∧ (coreWaits.chip.dev ≠ .off ∧ isPin 64 = false ∧ (srcOwner coreWaits.chip 64).isSome = true ∧ (srcCfg coreWaits.chip 64).coreEn = true)
    ∧ (inGap coreWaits.farrier = false ∧ coreWaits.chip.rein.pendingCore = [64] ∧ coreReady coreWaits.chip 64 = true
      ∧ chooseCore coreWaits.chip (srcCfg coreWaits.chip 64) = some (7, false))
    ∧ tget coreWaits.chip.rein.activeCore 65 = some 7 ∧ tget coreWaits.chip.rein.activeCore 66 ≠ some 7 := by decide

def freeze0 : Freeze := { tf := 10000, id := 1, source := 0, broadcast := false }
def upFabric : Fabric := { Fabric.reset with ports := [(0, { Port.reset with state := 2, trained := true })] }
def withPort : State := { dev0 with fabric := upFabric }
theorem wit_FreezesLatchOnce : ({ Counters.reset with pendingFreeze := some freeze0 }).pendingFreeze = some freeze0 ∧ freeze0.tf ≤ dev0.chip.gait
    ∧ (withHalter (fun h => { h with freezeOut := true })).halter.freezeOut = true
    ∧ (upPorts withPort.fabric).contains 0 = true ∧ freezeAgreed withPort.chip = true ∧ (0xFFFF : W16).toNat = (placeNow withPort).slice
    ∧ ungated withPort = withPort ∧ isUp withPort.chip = true ∧ withPort.chip.counters.heldBank = none ∧ withPort.chip.counters.pendingFreeze = none := by decide

/-! ### Witnesses: the fabric -/

def trainedPort : Port := { Port.reset with state := 1, trained := true }
def onPort (p : Port) : State := { dev0 with fabric := { Fabric.reset with ports := [(0, p)] } }
def planned2 : List Byte :=
  let b := toLe 104 (0x3150435A + field 1 32 32 + field 2 64 16 + field 1 80 16 + field 2 96 8 + field 1 104 8
    + field 1 (8 * 0x50) 64 + field 1 (8 * 0x5A) 8 + field (0x00010000 + field 1 34 2) (8 * 0x60) 64)
  b.take 0x10 ++ toLe 4 (crc32c b) ++ b.drop 0x14
def plannedDev (p : Port) : State :=
  { onPort p with fabric := { (onPort p).fabric with plan := planned2 }, chip := { chip0 with clock := 500000000 } }
/-- Port 0 with one frame in its replay buffer. -/
def sent0 : TxFrame := { seqNo := 5, chan := 2, body := .hello 0 0, owner := none, acked := 0 }
def onLink (p : Port) : State :=
  { onPort p with chip := { chip0 with clock := 500000000, links := [(0, { LinkTx.reset with sent := [sent0], next := 6 })] } }
def noisy : Port := { trainedPort with errs := List.replicate 1024 (16, 1) }
theorem wit_PortEvents : (portsLive (onPort trainedPort) 0 = true ∧ (portOf (onPort trainedPort).fabric 0).trained = true
      ∧ roomFor (onPort trainedPort).fabric (onPort trainedPort).chip 0 2)
    ∧ hLegal 0 = true ∧ hLegal 1 = false ∧ (portOf (onPort trainedPort).fabric 0).heard = false
    ∧ (let x := { trainedPort with trained := false, trainAt := 0 }
       (portOf (plannedDev x).fabric 0).state = 1 ∧ (portOf (plannedDev x).fabric 0).heard = false ∧ (portOf (plannedDev x).fabric 0).trained = false
        ∧ (portOf (plannedDev x).fabric 0).trainAt + 500000000 ≤ (plannedDev x).chip.clock
        ∧ (partner (placeNow (plannedDev x)) 0).isSome = true ∧ portsLive (plannedDev x) 0 = true)
    ∧ (∀ q, q < 4 → (portOf ({ Fabric.reset with ports := (List.range 4).map (fun i => (i, { Port.reset with state := 2 })) }) q).state = 2)
    ∧ dev0.chip.ctt.topoValid = false
    ∧ (portOf (onPort trainedPort).fabric 0).spareInUse = false ∧ (portOf (onPort { trainedPort with spareInUse := true }).fabric 0).spareInUse = true
    ∧ (let s := onLink { trainedPort with streak := 7, seqNo := 5 }
       portsLive s 0 = true ∧ ungated s = s ∧ (portOf s.fabric 0).retraining = none ∧ (portOf s.fabric 0).streak = 7 ∧ laneErrors (portOf s.fabric 0) 16 < 1024
        ∧ (linkTxOf s.chip 0).sent.find? (fun g => g.seqNo == 5) = some sent0)
    ∧ (1024 ≤ noisy.errs.countP (fun p => p.1 == 16 && (onLink noisy).chip.clock < p.2 + 1000000000)) := by
  unfold roomFor; decide +kernel

def frame0 (slice : W16) : Frame := { rsp := false, slice := slice, tenant := 0, dest := 1 }
def upPort : State := plannedDev { trainedPort with state := 2 }
/-- A token of tenant 0 that lets chip 1 read and write object 0. -/
def target0 : State := { upPort with chip := { upPort.chip with tokens := [(0, token0)] } }
def reqOf (tok : W32) (w : Bool) (off : Nat) : RemoteReq :=
  { token := tok, tenant := 0, slice := 0, srcChip := 1, isWrite := w, off := off, length := 2, data := if w then [1, 2] else [] }
def checkOf (r : RemoteReq) : Option (Nat × Nat) := targetCheck target0.chip r.token r.tenant r.isWrite r.off r.length
/-- Chip 1 of `planned2`, whose parent is on port 0. -/
def childDev : State :=
  { withPort with fuses := { dev0.fuses with serial := 1 },
                  fabric := { upFabric with plan := planned2, parent := some 0, asked := some 7, measured := true } }
theorem wit_FabricFrames : (portsLive withPort 0 = true ∧ (portOf withPort.fabric 0).state = 2 ∧ (frame0 7).slice.toNat ≠ (placeNow withPort).slice)
    ∧ ((frame0 0).slice.toNat = (placeNow upPort).slice ∧ (route upPort.fabric (placeNow upPort) ((frame0 0).dest % 256)).1 = 0
      ∧ roomFor upPort.fabric upPort.chip 0 0 ∧ 4 < (route upPort.fabric (placeNow upPort) 2).1)
    ∧ (target0.chip.dev = .ready ∧ target0.halter.power = .active ∧ inGap target0.farrier = false
      ∧ (reqOf 0 true 0).slice.toNat = (placeNow target0).slice ∧ (route target0.fabric (placeNow target0) (placeNow target0).num).1 = 4
      ∧ (route target0.fabric (placeNow target0) 1).1 = 0 ∧ roomFor target0.fabric target0.chip 0 1)
    ∧ ((checkOf (reqOf 1 true 0)).map (fun p => p.1) = some stHandle ∧ (checkOf (reqOf 0xA0000000 true 0xFFFFF)).map (fun p => p.1) = some stWindow
      ∧ checkOf (reqOf 0xA0000000 true 0xFFFFE) = none ∧ checkOf (reqOf 0xA0000000 false 0) = none
      ∧ tokenOf target0.chip 0xA0000000 = some (0, token0) ∧ readPoison target0.chip (mem0.at 0 0) 2 = none
      ∧ (∀ o ∈ target0.chip.mems, o.2.lazy = false))
    ∧ ((portOf withPort.fabric 0).trained = true ∧ roomFor withPort.fabric withPort.chip 0 2)
    ∧ (childDev.fabric.parent = some 0 ∧ childDev.fabric.asked = some 7 ∧ childDev.fabric.measured = true
      ∧ parentOf (setPort childDev 0 { portOf childDev.fabric 0 with hops := some 0, aligned := true }).fabric (placeNow childDev) = some 0) := by
  unfold roomFor; decide +kernel

/-! ### Witnesses: packets -/

def qWith (k : Cmd) : Queue := { queue0 with cmds := [k], nextSeq := 1 }
/-- The rich chip with one command in queue 0. -/
def richCmd (k : Cmd) : State := { dev0 with chip := { rich with queues := [(0, qWith k)] } }
/-- The packet p of n cells, fetched and next to start. -/
abbrev starts (ok : Nat → Bool) (p n : Nat) : Prop := startsAs (richCmd (packet p n)) 0 ok (qWith (packet p n)) (packet p n)

theorem starts_of {s : State} {q : Nat} {ok : Nat → Bool} {x : Queue} {k : Cmd} (h : startOf s.chip (envOf s) q ok = .go x k)
    (hl : (k.list.bind (listOf x)).all (fun l => l.bisect.isNone) = true) : startsAs s q ok x k :=
  ⟨h, fun l n hb hn => by simp [hb, hn] at hl⟩

theorem wit_FetchTakesOnePacket :
    let s := withChip (fun c => { c with queues := [(0, { queue0 with tail := 2 })],
                                         memory := { Memory.reset with hbm := writeBytes [] 0 (toLe 32 (0x240 + field 5 128 64)) } })
    let x : Queue := { queue0 with tail := 2 }
    tget s.chip.queues 0 = some x ∧ tget s.chip.contexts x.ctx = some ctx0 ∧ isUp s.chip = true ∧ x.cmds.length < 64 ∧ s.chip.logFree ≠ 0
      ∧ listPending x = false ∧ inWindow x = false ∧ refsFit s.chip = true
      ∧ fetchOutranked s.chip (envOf s) 0 = false ∧ s.halter.power = .active ∧ x.owed = [] ∧ 2 = lenOf (sqCell s.chip x 0).toNat ∧ 2 ≤ (x.tail - x.head).toNat
      ∧ sqPoison s.chip x 0 1 = none ∧ sqPoison s.chip x 0 2 = none := by decide +kernel

/-- A list of one NOP with no parameter at offset 0x90000, started as command 0. -/
def listExec (pos body : Nat) (st : List LoopEntry) : ListExec :=
  { cmd := { packet 0x211 2 with phase := .running }, mem := 0, half := 0, off := 0x90000, body := body, params := [], pos := pos, ctl := false, stack := st,
    ended := false, bisect := none, fail := none, anyReplayed := false, nflags := 0, engineNs := 0, replays := 0 }
def listImage : Nat := 0x3154534C + field 1 64 32 + field 0x100 128 16
def listMem : Memory := { Memory.reset with hbm := writeBytes [] 0x90000 (toLe 32 listImage) }
def listQueue : Queue := { queue0 with lists := [listExec 0 1 []], nextSeq := 1 }
theorem wit_FetchTakesOnePacket_list :
    let s := withChip (fun c => { c with queues := [(0, listQueue)], memory := listMem })
    tget s.chip.queues 0 = some listQueue ∧ listQueue.cmds.length + listQueue.lists.length < 64 ∧ listQueue.lists.getLast? = some (listExec 0 1 [])
      ∧ refsFit s.chip = true ∧ fetchOutranked s.chip (envOf s) 0 = false ∧ listQueue.owed = [] ∧ tget s.chip.mems 0 = some mem0 ∧ listCells s.chip 0 0 0x90000 1 1 = [0x100] ∧ 0 + lenOf 0x100 ≤ 1
      ∧ readPoison s.chip (mem0.at 0 0x90010) 16 = none := by decide +kernel

theorem wit_PlainPacketsComplete : starts (only opNop) 0x100 1 ∧ starts (only opTag) (0x101 + field 1 16 1) 1
    ∧ starts (only opFreeze) (0x161 + field 1 64 1) 1 ∧ (richCmd (packet 0x100 1)).chip.counters.heldBank = none :=
  ⟨starts_of rfl rfl, starts_of rfl rfl, starts_of rfl rfl, rfl⟩
def badFault : FaultInfo := { cls := 1, engine := 4, object := 0, p0 := 0, p1 := 0, p2 := 0, gait := 0 }
def badPacket : Cmd := { packet 0x105 1 with check := some (stProgram, 1, badFault) }
theorem wit_PlainPacketsComplete_undefined : (qWith badPacket).refs.host ≠ 0 ∧ badPacket.list = none
    ∧ startOf (richCmd badPacket).chip (envOf (richCmd badPacket)) 0 (fun o => !opDefined o) = .fail badPacket stProgram 1 badFault := ⟨by decide, rfl, rfl⟩

theorem wit_ScalarOpComputes : starts (only opScalar) (0x240 + field 1 64 8 + field 255 72 8 + field 1 96 1 + field 7 128 64) 2 := starts_of rfl rfl

def waitPacket (t : Nat) : Nat := 0x220 + field hHitch 64 32 + field 10 96 32 + field t 128 64
def waiting0 (ph : Phase) : Cmd := { packet (waitPacket 4) 2 with phase := ph }
theorem wit_WaitsRegisterAndEnd : starts (only opWait) (waitPacket 3) 2 ∧ starts (only opWait) (waitPacket 4) 2
    ∧ (tget rich.hitches (hIndex (fieldHandle (packet (waitPacket 4) 2).bits 95)) = some hitch0 ∧ hitch0.broken = 0
      ∧ (targetOf (packet (waitPacket 3) 2)).toNat ≤ hitch0.value.toNat ∧ hitch0.value.toNat < (targetOf (packet (waitPacket 4) 2)).toNat
      ∧ refRoom rich (fieldHandle (packet (waitPacket 4) 2).bits 95) = true ∧ slotRoom rich 0 = true)
    ∧ (qWith (waiting0 .wantSlot)).cmds.find? (fun k => k.phase == .wantSlot) = some (waiting0 .wantSlot)
    ∧ ((qWith (waiting0 .waiting)).cmds.find? (fun k => k.phase == .waiting || k.phase == .wantSlot) = some (waiting0 .waiting)
      ∧ timeoutUs (waiting0 .waiting) ≠ 0 ∧ (waiting0 .waiting).startClock + 1000 * timeoutUs (waiting0 .waiting) ≤ 10000
      ∧ staysKnown (qWith (waiting0 .waiting)) (waiting0 .waiting)) :=
  ⟨starts_of rfl rfl, starts_of rfl rfl, by decide +kernel, by decide, by decide, by decide, by decide, by simp [staysKnown, waiting0, packet, freshCmd, qWith, queue0]⟩
/-- All 4,096 wait slots of the tenant are taken, and a broken hitch. -/
def fullHitch : Hitch := { hitch0 with handle := mkHandle 5 0 1, waiters := List.replicate 4096 (.event 0 9) }
def fullChip (k : Cmd) : State := { dev0 with chip := { (richCmd k).chip with hitches := [(0, hitch0), (1, fullHitch)] } }
def brokenWait (k : Cmd) : State := { dev0 with chip := { (richCmd k).chip with hitches := [(0, { hitch0 with broken := 1 })] } }
theorem wit_WaitsRegisterAndEnd_more :
    startsAs (brokenWait (packet (waitPacket 4) 2)) 0 (only opWait) (qWith (packet (waitPacket 4) 2)) (packet (waitPacket 4) 2)
    ∧ (startOf (fullChip (packet (waitPacket 4) 2)).chip (envOf (fullChip (packet (waitPacket 4) 2))) 0 (only opWait)
        = .go (qWith (packet (waitPacket 4) 2)) (packet (waitPacket 4) 2)
      ∧ slotRoom (fullChip (packet (waitPacket 4) 2)).chip 0 = false) := ⟨starts_of rfl rfl, rfl, by decide +kernel⟩

def signalPacket : Nat := 0x221 + field hHitch 64 32 + field 4 128 64
theorem wit_SignalRaisesItsHitch : starts (only opSignal) signalPacket 2 ∧ tget rich.hitches (hIndex (fieldHandle (packet signalPacket 2).bits 95)) = some hitch0
    ∧ hitch0.broken = 0 ∧ hitch0.refs.host ≠ 0 ∧ (∀ w ∈ hitch0.waiters, max hitch0.value.toNat 4 < w.goal) :=
  ⟨starts_of rfl rfl, rfl, rfl, by decide, by decide⟩
def brokenChip : State := brokenWait (packet signalPacket 2)
theorem wit_SignalRaisesItsHitch_broken : startsAs brokenChip 0 (only opSignal) (qWith (packet signalPacket 2)) (packet signalPacket 2)
    ∧ (tget brokenChip.chip.hitches 0).map (fun y => y.broken) = some 1 ∧ queue0.refs.host ≠ 0 := ⟨starts_of rfl rfl, rfl, by decide⟩

/-- QUERY of hitch 0 to the last 16 bytes of object 0. -/
def queryPacket : Nat := 0x202 + field 2 64 8 + field hHitch 96 32 + field hMem 128 32 + field 0xFFFF0 192 64
theorem wit_QueryStoresItsRecord : starts (only opQuery) queryPacket 2 ∧ inWindow (qWith (packet queryPacket 2)) = false
    ∧ memNamed rich 0 (packet queryPacket 2) (fieldHandle (packet queryPacket 2).bits 159) = some (0, mem0)
    ∧ (queryRecord rich 2 0).length = 16 ∧ windowReason rich 0 mem0 0 0xFFFF0 16 = none := ⟨starts_of rfl rfl, by decide, by decide +kernel, by decide, by decide⟩

def launchListPacket (o : Nat) : Nat := o + 0x200 + field hMem 64 32 + field 0x90000 128 64
def listChip (o : Nat) : State := { dev0 with chip := { (richCmd (packet (launchListPacket o) 2)).chip with memory := listMem } }
theorem wit_ListsRunTheirControl : readList (listChip 0x11).chip (qWith (packet (launchListPacket 0x11) 2)) (packet (launchListPacket 0x11) 2) = .go 0 0 0x90000 1 []
    ∧ startsAs (listChip 0x11) 0 (only opList) (qWith (packet (launchListPacket 0x11) 2)) (packet (launchListPacket 0x11) 2)
    ∧ readList (listChip 0x12).chip (qWith (packet (launchListPacket 0x12) 2)) (packet (launchListPacket 0x12) 2) = .go 0 0 0x90000 1 []
    ∧ startsAs (listChip 0x12) 0 (only opReplayList) (qWith (packet (launchListPacket 0x12) 2)) (packet (launchListPacket 0x12) 2)
    ∧ bisectFor (listChip 0x11).chip 0 ≠ some 0 := ⟨rfl, starts_of rfl rfl, rfl, starts_of rfl rfl, by decide⟩

/-- A control packet at position `pos` of a list of 16 cells. -/
def control (p pos : Nat) : Cmd := { packet p 2 with seq := 1, list := some 0, pos := pos }
def controlQueue (p pos : Nat) (st : List LoopEntry) : Queue := { queue0 with cmds := [control p pos], lists := [listExec pos 16 st], nextSeq := 2 }
abbrev controls (ok : Nat → Bool) (p pos : Nat) (st : List LoopEntry) : Prop :=
  startsAs { dev0 with chip := { rich with queues := [(0, controlQueue p pos st)] } } 0 ok (controlQueue p pos st) (control p pos)
def branchPacket (d : Nat) : Nat := 0x250 + field 1 80 1 + field d 96 32
def loop0 (n : Nat) : LoopEntry := { b := 0, e := 2, count := n }
theorem wit_ListsRunTheirControl_control : (controls (only opBranch) (branchPacket 14) 2 []
      ∧ branchTaken (listExec 2 16 []) (control (branchPacket 14) 2) = some (16, [])
      ∧ slotBlocked rich (controlQueue (branchPacket 14) 2 []) (control (branchPacket 14) 2) = false)
    ∧ (controls (only opLoopBegin) (0x251 + field 1 72 1 + field 2 96 32 + field 0 128 64) 0 [] ∧ 0 + 2 < 16)
    ∧ (controls (only opLoopEnd) (0x252 + field 2 96 32) 2 [loop0 1] ∧ (loop0 1).b + bits (control (0x252 + field 2 96 32) 2).bits 127 96 = 2
      ∧ (loop0 1).e = 2) ∧ controls (only opLoopEnd) (0x252 + field 2 96 32) 2 [loop0 2] :=
  ⟨⟨starts_of rfl rfl, by decide, by decide⟩, ⟨starts_of rfl rfl, by decide⟩, ⟨starts_of rfl rfl, by decide, rfl⟩, starts_of rfl rfl⟩

def retainPacket (o h : Nat) : Nat := o + 0x100 + field h 64 32
theorem wit_CountsMarksAndBreakpoints : (starts (only opRetain) (retainPacket 0x70 hHitch) 1
      ∧ named rich 0 { packet (retainPacket 0x70 hHitch) 1 with refs := [] } [1, 2, 3, 4, 5, 6] (fieldHandle (packet (retainPacket 0x70 hHitch) 1).bits 95) = true
      ∧ objOf rich (fieldHandle (packet (retainPacket 0x70 hHitch) 1).bits 95) = some (0, { host := 1, dev := 0 }))
    ∧ (starts (only opRelease) (retainPacket 0x71 hHitch) 1 ∧ hType (fieldHandle (packet (retainPacket 0x71 hHitch) 1).bits 95) ≠ 2)
    ∧ (starts (only opRelease) (retainPacket 0x71 hQueue) 1 ∧ hType (fieldHandle (packet (retainPacket 0x71 hQueue) 1).bits 95) = 2)
    ∧ (starts (only opBreakOn) (0x27E + field 1 64 2 + field 9 128 64) 2 ∧ tget rich.contexts 0 = some ctx0)
    ∧ starts (only opBisect) (0x17F + field 9 64 32) 1 ∧ starts (only opBeatMark) (0x160 + field 255 64 8) 1 :=
  ⟨⟨starts_of rfl rfl, by decide +kernel, by decide +kernel⟩, ⟨starts_of rfl rfl, by decide⟩, ⟨starts_of rfl rfl, by decide⟩, ⟨starts_of rfl rfl, rfl⟩,
    starts_of rfl rfl, starts_of rfl rfl⟩

/-! ### Witnesses: engines -/

/-- A program object of one team with 64 KiB of scratch, its stack in [0x8000, 0x10000), index 1. -/
def image0 : List Byte :=
  toLe 256 (0x54534C43 + field 1 (8 * 0x14) 8 + field 0x10000 (8 * 0x20) 32 + field 0x8000 (8 * 0x28) 32 + field 0x10000 (8 * 0x2C) 32)
def prog0 : MemObj :=
  { handle := mkHandle 4 0 1, owner := 0, refs := { host := 1, dev := 1 }, kind := .program, double := false, size := 256, addr := 0, home := none,
    stamp := 1, pub := 0, lazy := false, filled := [], born := 0, charge := 1, image := some { bytes := image0, poisoned := [] } }
def engChip : Chip := { rich with mems := [(0, mem0), (1, prog0)] }
def engCmd (k : Cmd) : State := { dev0 with chip := { engChip with queues := [(0, qWith k)] } }
def unitsOf : Ready → Option Nat
  | .go p => some p.units
  | _ => none
theorem goes_of {r : Ready} {n : Nat} (h : unitsOf r = some n) : ∃ p, r = .go p := by
  cases r <;> simp_all [unitsOf]
/-- The packet p starts, and its own checks pass. -/
abbrev prepares (ok : Nat → Bool) (p n : Nat) : Prop :=
  startsAs (engCmd (packet p n)) 0 ok (qWith (packet p n)) (packet p n)
    ∧ ∃ r, prepare (engCmd (packet p n)).chip (envOf (engCmd (packet p n))) (qWith (packet p n)) (packet p n) = .go r

def launchPacket : Nat := 0x110 + field 0x40000001 64 32
def groomPacket : Nat := 0x330 + field 1 128 32 + field 2 160 32
def reducePacket (rop : Nat) : Nat := 0x241 + field rop 64 3 + field 3 72 8 + field 1 128 32
/-- COPY of 64 bytes from 0 to the last 64 bytes of object 0. -/
def copyPacket : Nat := 0x431 + field hMem 128 32 + field hMem 160 32 + field 64 192 64 + field 0xFFFC0 320 64
/-- A collective of the two chips of `planned2`, rooted here. -/
def collPacket : Nat := copyPacket + field 1 64 3 + field 1 424 8 + field 2 416 8
def planDev (k : Cmd) : State := { engCmd k with fabric := { Fabric.reset with plan := planned2 } }
theorem wit_EnginePacketsStart_launch : prepares (only opLaunch) launchPacket 1 := ⟨starts_of rfl rfl, goes_of (n := 2) (by decide +kernel)⟩
theorem wit_EnginePacketsStart_groom : prepares (only opGroom) groomPacket 3 := ⟨starts_of rfl rfl, goes_of (n := 3) (by decide +kernel)⟩
theorem wit_EnginePacketsStart_reduce : prepares (only opReduce) (reducePacket 0) 2 := ⟨starts_of rfl rfl, goes_of (n := 2) (by decide +kernel)⟩
theorem wit_EnginePacketsStart_copy : prepares (only opOutride) copyPacket 4 ∧ engChip.dev ≠ .walk
    ∧ isCollective (outrideArgs (packet copyPacket 4)) = false :=
  ⟨⟨starts_of rfl rfl, goes_of (n := 2) (by decide +kernel)⟩, by decide, by decide +kernel⟩
theorem wit_EnginePacketsStart_collective :
    startsAs (planDev (packet collPacket 4)) 0 (only opOutride) (qWith (packet collPacket 4)) (packet collPacket 4)
    ∧ isCollective (outrideArgs (packet collPacket 4)) = true
    ∧ unitsOf (prepare (planDev (packet collPacket 4)).chip (envOf (planDev (packet collPacket 4))) (qWith (packet collPacket 4)) (packet collPacket 4)) = some 2
    ∧ 2 ≤ (planDev (packet collPacket 4)).chip.logFree := ⟨starts_of rfl rfl, by decide +kernel, by decide +kernel, by decide⟩
theorem wit_EnginePacketsStart_flags : starts (only opReduce) (reducePacket 6) 2 ∧ bits (packet (reducePacket 6) 2).bits 66 64 = 6 :=
  ⟨starts_of rfl rfl, by decide⟩
theorem wit_EnginePacketsStart_grant : tget (engCmd (packet copyPacket 4)).chip.queues 0 = some (qWith (packet copyPacket 4))
    ∧ cmdOf (engCmd (packet copyPacket 4)).chip 0 0 = some (packet copyPacket 4) ∧ (packet copyPacket 4).list = none := by decide +kernel

/-- Command 0 of queue 0 with a job, in a phase. -/
def job (p n : Nat) (j : Job) (ph : Phase) : Cmd := { packet p n with job := j, phase := ph }
def ref1 : DescRef := { img := BitVec.ofNat 512 (tensor 0x1000), mem := 0, half := 0 }
def ref2 : DescRef := { img := BitVec.ofNat 512 (tensor 0x1001), mem := 0, half := 0 }
def launchJob (mask : BitVec 5) (ph : Phase) : Cmd :=
  { job launchPacket 1 (.launch 1 1 0 0x10000 [] [(3, 9)] [3] 0 mask false) ph with teams := [0] }
def groomAt (ph : Phase) : Cmd := job groomPacket 3 (.groom ref1 ref2 none) ph
def reduceAt (ph : Phase) : Cmd := job (reducePacket 0) 2 (.reduce ref1) ph
def copyAt (ph : Phase) : Cmd := job copyPacket 4 (.outride 0 0 0 0) ph
/-- The command k is the attempt (0, 0) of its queue. -/
theorem attempts_of {s : State} {k : Cmd} (h : attemptOf s.chip 0 0 = some k) (hq : tget s.chip.queues 0 = some (qWith k))
    (hs : k.seq = 0) : attemptAt s.chip 0 0 (qWith k) k :=
  ⟨hq, h, by simp [qWith, queue0], by simp [qWith, hs], fun _ g hg => by simp [qWith, queue0] at hg⟩

/-- The clusters of team 0 with a stack pointer and flags; the cluster clock has counted 131,072 cycles. -/
def cores (sp : W32) (f : BitVec 5) (k : Cmd) : State :=
  let c := (engCmd k).chip
  { dev0 with chip := { c with cycles := 131072000, compute := { c.compute with cores := (List.range 8).map (fun i => (i, { Core.reset with sp := sp, sticky := f })) } } }
def ranOk (s : State) (k : Cmd) : Bool := (runBody s.chip 0 k noRun).2.2 == .ok
def trappedIn (s : State) (k : Cmd) : Bool := trapped (runBody s.chip 0 k noRun).2.1
def copySide : Access := { mem := 0, half := 0, off := 0, len := 64 }
theorem wit_EngineWorkCompletes :
    (attemptAt (engCmd (launchJob 0 .running)).chip 0 0 (qWith (launchJob 0 .running)) (launchJob 0 .running)
      ∧ ranOk (engCmd (launchJob 0 .running)) (launchJob 0 .running) = true ∧ trappedIn (engCmd (launchJob 0 .running)) (launchJob 0 .running) = false)
    ∧ (attemptAt (engCmd (groomAt .running)).chip 0 0 (qWith (groomAt .running)) (groomAt .running)
      ∧ groomClean (engCmd (groomAt .running)).chip (qWith (groomAt .running)) (groomAt .running) ref1 ref2 none)
    ∧ (attemptAt (engCmd (reduceAt .running)).chip 0 0 (qWith (reduceAt .running)) (reduceAt .running)
      ∧ windowHit (engCmd (reduceAt .running)).chip 0 3 (descAccess ref1) = none
      ∧ poisonAmong (engCmd (reduceAt .running)).chip 3 ref1 ((((indices ref1.img).take (elemCount ref1.img)).drop 0).flatMap (elemBytesAt ref1)).eraseDups = none)
    ∧ (attemptAt (engCmd (copyAt .running)).chip 0 0 (qWith (copyAt .running)) (copyAt .running)
      ∧ (outrideArgs (copyAt .running)).oop = 0 ∧ (outrideArgs (copyAt .running)).srcRemote = false ∧ (outrideArgs (copyAt .running)).dstRemote = false
      ∧ readHit engChip 0 3 (copySide.slice 0 64) = none
      ∧ writeHit engChip 0 3 (({ copySide with off := 0xFFFC0 } : Access).slice 0 64) = none) :=
  ⟨⟨attempts_of (by decide +kernel) rfl rfl, by decide +kernel, by decide +kernel⟩,
    ⟨attempts_of (by decide +kernel) rfl rfl, by unfold groomClean; decide +kernel⟩,
    ⟨attempts_of (by decide +kernel) rfl rfl, by decide +kernel, by decide +kernel⟩,
    attempts_of (by decide +kernel) rfl rfl, by decide +kernel, by decide +kernel, by decide +kernel, by decide +kernel, by decide +kernel⟩

/-- A remote COPY to chip (0, 1), with what it waits for. -/
def farPacket : Nat := copyPacket + field 1 75 1 + field 1 384 8
def farCmd (r : Option (Bool × Nat)) : Cmd := { job farPacket 4 (.outride 0 0 remoteMem 0) .running with remote := r, progress := 64 }
theorem wit_EngineWorkCompletes_remote : attemptAt (engCmd (farCmd (some (false, 0)))).chip 0 0 (qWith (farCmd (some (false, 0)))) (farCmd (some (false, 0)))
    ∧ remoteWrite (farCmd (some (false, 0))) = true ∧ remoteRead (farCmd (some (false, 0))) = false :=
  ⟨attempts_of (by decide +kernel) rfl rfl, by decide +kernel, by decide +kernel⟩

def doneCmd : Cmd := { packet 0x100 1 with phase := .completed, scalarW := [(255, 7)] }
def seg0 (confirmed : Bool) : Segment := { branch := 0, predict := true, confirmed := confirmed, other := 0, stack := [], otherStack := [] }
def specDone : Cmd := { packet 0x100 1 with seq := 1, phase := .completed, spec := some 0 }
def owed0 : OwedRec := { bits := 1, drops := [], ref := true }
def ring0 : RecRing := { mem := 0, off := 0x40000, log2 := 4, prod := 0, cons := 0, dropped := 0, seq := 0, raised := 0 }
def ghost0 : Ghost := { q := 0, cmd := { copyAt .running with outriders := [1], progress := 64 } }
theorem wit_RetirementCommitAndRecords : ((qWith doneCmd).owed = [] ∧ headOf (qWith doneCmd) = some (.inl doneCmd) ∧ doneCmd.spec = none
      ∧ doneCmd.seq < (qWith doneCmd).nextSeq)
    ∧ mayCommit { qWith specDone with segs := [seg0 true] } = true
    ∧ ([ghost0].find? (fun h => h.q == 0 && h.cmd.seq == 0) = some ghost0 ∧ ghost0.cmd.onEngine = true)
    ∧ cqRoom { queue0 with owed := [owed0], prod := 63 } = true ∧ cqRoom { queue0 with prod := 64 } = false
    ∧ (tenantOf (withPf0 (fun t => { t with noticeRing := some ring0, held := [{ handle := 0, stamp := 0, gait := 0 }] })).chip 0).noticeRing = some ring0
    ∧ (ring0.refresh (withPf0 (fun t => { t with noticeRing := some ring0 })).chip).hasRoom = true := by
  refine ⟨⟨rfl, rfl, rfl, by decide⟩, ?_⟩
  decide +kernel

def agedChip : Chip := { (engCmd (copyAt (.wantResource 0 false))).chip with clock := 250000000 }
theorem wit_PreemptionAndAging : (cmdOf agedChip 0 0 = some (copyAt (.wantResource 0 false)) ∧ 2 ≤ clsRank (queueCls agedChip queue0)
      ∧ 0 + 250000000 ≤ agedChip.clock)
    ∧ (attemptAt (engCmd (groomAt (.stopping .preempt))).chip 0 0 (qWith (groomAt (.stopping .preempt))) (groomAt (.stopping .preempt))
      ∧ isMoveJob (groomAt (.stopping .preempt)))
    ∧ (attemptAt (engCmd (launchJob 0 (.stopping .preempt))).chip 0 0 (qWith (launchJob 0 (.stopping .preempt))) (launchJob 0 (.stopping .preempt))
      ∧ ranOk (engCmd (launchJob 0 (.stopping .preempt))) (launchJob 0 (.stopping .preempt)) = true
      ∧ trappedIn (engCmd (launchJob 0 (.stopping .preempt))) (launchJob 0 (.stopping .preempt)) = false)
    ∧ (mayResume (engCmd (copyAt (.preempted 0 false))).chip (envOf dev0) 0 0 = true ∧ remoteDown (envOf dev0) (copyAt (.preempted 0 false)) = false) :=
  ⟨by decide +kernel, ⟨attempts_of (by decide +kernel) rfl rfl, .inl ⟨_, _, _, rfl⟩⟩,
    ⟨attempts_of (by decide +kernel) rfl rfl, by decide +kernel, by decide +kernel⟩, by decide +kernel, by decide +kernel⟩

/-- Cores that halt: with a stack pointer in the stack, and with one below it; a word that fits nowhere in the scratch. -/
def haltsOn (sp : W32) (hs : List CoreHalt) : List Nat :=
  let s := cores sp 0 (launchJob 0 .running)
  match launchOf s.chip (launchJob 0 .running) with
  | some l => ((hs.foldr (insertHalt (launchJob 0 .running)) []).filterMap (haltShadow s.chip (launchJob 0 .running) l)).map (fun w => w.cause)
  | none => []
def bothHalts : List CoreHalt := [{ halt0 1 .illegal with cycle := 9 }, { halt0 0 (.scratch 0xFFC0 65) with cycle := 8 }]
theorem wit_LaunchesEndByException :
    attemptAt (cores 0x10000 16 (launchJob 16 .running)).chip 0 0 (qWith (launchJob 16 .running)) (launchJob 16 .running)
    ∧ ranOk (cores 0x10000 16 (launchJob 16 .running)) (launchJob 16 .running) = true
    ∧ haltsOn 0x10000 bothHalts = [0x41, 0x40] ∧ haltsOn 0x10000 [halt0 0 (.scratch 0xFFC0 64), halt0 8 .illegal] = []
    ∧ spValid image0 0x10000 = true ∧ spValid image0 0x8040 = true ∧ spValid image0 0x8030 = false
    ∧ ((launchClusters engChip [0]).find? (fun y => y.1 == 7) = some (7, 7)
      ∧ (clusterCore (cores 0x10000 0 (launchJob 0 .running)).chip 7).yieldAt + 131072 ≤ cycleNow (cores 0x10000 0 (launchJob 0 .running)).chip)
    ∧ trappedIn (cores 0x10000 16 (launchJob 16 .running)) (launchJob 16 .running) = true :=
  ⟨attempts_of (by decide +kernel) rfl rfl, by decide +kernel, by decide +kernel, by decide +kernel, by decide +kernel, by decide +kernel,
    by decide +kernel, by decide +kernel, by decide +kernel⟩

/-- Engine 1 of Outrider runs command 0; a context without queues. -/
def busyEngine (c : Chip) : Chip :=
  { c with queues := [(0, qWith { copyAt .running with outriders := [1] })], compute := { c.compute with outrider := [(1, (0, 0))] } }
def noQueues (c : Chip) : Chip := { c with queues := [] }
theorem wit_ResetsAndRepairs_more : restingQueue rich 0 queue0
    ∧ (let r := 0x41 + field hCtx 64 32
       sv noQueues 0x41 r = true ∧ handleOk (tk noQueues r) (actor (tk noQueues r) 0 (fieldHandle r 95)) [1] (fieldHandle r 95) = true
        ∧ tget (noQueues rich).contexts 0 = some ctx0 ∧ (∀ p ∈ (noQueues rich).queues, p.2.ctx ≠ 0))
    ∧ (let r := 0x44 + field 1 64 1 + field 1 68 3
       sv busyEngine 0x44 r = true ∧ tget (busyEngine rich).compute.outrider (bits r 70 68) = some (0, 0)
        ∧ attemptOf (busyEngine rich) 0 0 = some { copyAt .running with outriders := [1] } ∧ (busyEngine rich).ghosts = []) := by
  refine ⟨⟨rfl, rfl, rfl, rfl, rfl, by decide, by decide, ?_⟩, by decide +kernel, by decide +kernel⟩
  intro y h; cases h; rfl

/-- A transfer from a HOST object whose link fails. -/
def hostMem : MemObj := { mem0 with kind := .host }
def lostRead : State := { dev0 with chip := { (engCmd (copyAt .running)).chip with mems := [(0, hostMem)] } }
theorem wit_LinkAndFunctionEvents_lost : lostRead.chip.linkUp = true ∧ attemptAt lostRead.chip 0 0 (qWith (copyAt .running)) (copyAt .running)
    ∧ tget lostRead.chip.mems 0 = some hostMem ∧ hostMem.kind = .host := ⟨rfl, attempts_of (by decide +kernel) rfl rfl, rfl, rfl⟩

/-- A BRANCH of a list on slot 3, which an earlier SCALAR_OP of the list is still to write. -/
def writer : Cmd := { packet (0x240 + field 1 64 8 + field 3 72 8) 2 with seq := 1, list := some 0, pos := 0, phase := .completed }
def blockedBranch : Cmd := { control (branchPacket 14 + field 3 64 8 + field 1 84 1 + field 1 17 1) 2 with seq := 2 }
def blockedQueue : Queue := { queue0 with cmds := [writer, blockedBranch], lists := [listExec 2 16 []], nextSeq := 3 }
def blockedDev : State := { dev0 with chip := { rich with queues := [(0, blockedQueue)] } }
theorem wit_ListsRunTheirControl_blocked : startsAs blockedDev 0 (only opBranch) blockedQueue blockedBranch
    ∧ slotBlocked blockedDev.chip blockedQueue blockedBranch = true ∧ branchTaken (listExec 2 16 []) blockedBranch = some (16, []) :=
  ⟨starts_of rfl rfl, by decide +kernel, by decide +kernel⟩

/-! ### Witnesses: faults and memory errors -/

def late (k : Cmd) (f : Chip → Chip) : State := { planDev k with chip := { f (planDev k).chip with clock := 10000000 } }
def hitLink (c : Chip) : Chip := { c with linkHit := [(0, 0)] }
theorem wit_RecoverableFaultsAreReplayed :
    (attemptAt (late (copyAt .running) hitLink).chip 0 0 (qWith (copyAt .running)) (copyAt .running) ∧ inGap dev0.farrier = false
      ∧ bit (0 : W64).toNat 16 = false ∧ (late (copyAt .running) hitLink).chip.linkHit.contains (0, 0) = true ∧ isMoveJob (copyAt .running)
      ∧ replayWhy (engCmd (copyAt .running)).chip (copyAt .running) = none
      ∧ replayWhy (engCmd (copyAt .running)).chip { copyAt .running with carriedLost := true } = some 3)
    ∧ (attemptAt (late (farCmd (some (false, 0))) id).chip 0 0 (qWith (farCmd (some (false, 0)))) (farCmd (some (false, 0)))
      ∧ remoteRead (farCmd (some (false, 0))) = false ∧ dataDests (envOf (late (farCmd (some (false, 0))) id)) (farCmd (some (false, 0))) = [1]
      ∧ 0 + 10000000 ≤ (late (farCmd (some (false, 0))) id).chip.clock ∧ isMoveJob (farCmd (some (false, 0))))
    ∧ (mayResume (engCmd (copyAt .wantReplay)).chip (envOf dev0) 0 0 = true ∧ replayWhy (engCmd (copyAt .wantReplay)).chip (copyAt .wantReplay) = none) :=
  ⟨⟨attempts_of (by decide +kernel) rfl rfl, by decide, by decide, by decide, .inr (.inl ⟨_, _, _, _, rfl⟩), by decide +kernel, by decide +kernel⟩,
    ⟨attempts_of (by decide +kernel) rfl rfl, by decide +kernel, by decide +kernel, by decide, .inr (.inl ⟨_, _, _, _, rfl⟩)⟩, by decide +kernel, by decide +kernel⟩

/-- The entry of chip 1 is DOWN: its port is MISSING. -/
def collCmd : Cmd := { job collPacket 4 (.outride 0 0 0 0) .collective with remote := some (true, 0) }
def linked (st : Nat) (k : Cmd) : State :=
  { late k id with fabric := { Fabric.reset with plan := planned2, ports := [(0, { Port.reset with state := st, trained := st == 2 })] } }
theorem wit_RecoverableFaultsAreReplayed_remote :
    (allStarted (envOf (planDev collCmd)) collCmd [{ memberStart (envOf (planDev collCmd)) collCmd with rank := 1 }] = true
      ∧ allStarted (envOf (planDev collCmd)) collCmd [] = false ∧ cmdOf (planDev collCmd).chip 0 0 = some collCmd)
    ∧ (attemptAt (linked 2 (farCmd (some (true, 0)))).chip 0 0 (qWith (farCmd (some (true, 0)))) (farCmd (some (true, 0)))
      ∧ remoteDown (envOf (linked 2 (farCmd (some (true, 0))))) (farCmd (some (true, 0))) = false
      ∧ dataDests (envOf (linked 2 (farCmd (some (true, 0))))) (farCmd (some (true, 0))) ≠ []
      ∧ (farCmd (some (true, 0))).progress = (outrideArgs (farCmd (some (true, 0)))).len)
    ∧ remoteDown (envOf (linked 3 (farCmd (some (true, 0))))) (farCmd (some (true, 0))) = true :=
  ⟨⟨by decide +kernel, by decide +kernel, by decide +kernel⟩, ⟨attempts_of (by decide +kernel) rfl rfl, by decide +kernel, by decide +kernel, by decide +kernel⟩,
    by decide +kernel⟩

def drained : Chip := { rich with compute := { rich.compute with draining := [7] } }
theorem wit_SparesTakeOver : (physOf rich 7 = some 7 ∧ rich.compute.draining.contains 7 = false ∧ spareLeft rich = true ∧ tget rich.compute.holders 0 = none)
    ∧ (drained.compute.draining.contains 7 = true ∧ physOf drained 7 = some 7 ∧ nearestSpare drained 7 = some 8 ∧ [9].contains 8 = false)
    ∧ ((stackState rich 7).dead.contains 31 = false ∧ tget (stackState rich 7).migrating 31 = none ∧ (stackState rich 7).spareFree = [0, 1])
    ∧ tget (stackState (channelStops rich (envOf dev0) 7 31) 7).migrating 31 = some 0 := by decide +kernel

def oneError : List (Nat × Nat) := [(8 * (3 + 65536 * 9) + 6, 5), (8 * (3 + 65536 * 9) + 6, 6)]
theorem wit_MemoryErrorsAreNoted : dev0.chip.dev ≠ .off ∧ 0x3000000000 - 1 < hbmBytes dev0.chip
    ∧ linePoisoned dev0.chip ((0x3000000000 - 1) / 64) = false ∧ dev0.chip.memory.ueLog = [] ∧ dev0.chip.memory.ceLog = []
    ∧ dev0.chip.tenants.all (fun p => p.2.errorRing.isNone) = true ∧ 8 * (3 + 65536 * 9) + 6 ∈ ceKeys dev0.chip (.control 3 0 9)
    ∧ 2 ≤ (oneError.filter (fun p => dev0.chip.clock < p.2 + day)).countP (fun p => p.1 == 8 * (3 + 65536 * 9) + 6) := by decide +kernel

/-! ### Single steps and computations: expected values from spec/'s tables and worked examples -/

def nextIs (o : Host.Outcome State Fault Refusal) (p : State → Bool) : Bool := match o with | .next t => p t | _ => false

/-- A step takes the front command and leaves the rest. -/
theorem test_step_takes_front : nextIs (step { withCmd (packet 0x100 1) with pending := [.nop 0, .tag 0] }) (fun t => t.pending == [.tag 0]
    && (cmdOf t.chip 0 0).any (fun k => k.phase == .completed && k.status == stOk)) = true := by decide +kernel
/-- 15 R462: a cycle of the timebase is 4 ns. -/
theorem test_idle_cycle : nextIs (step dev0) (fun t => t.chip.gait == 10004 && t.chip.clock == 4) = true := by decide +kernel

/-- 01: the check value of CRC-32C over "123456789". -/
theorem test_crc32c : crc32c [0x31, 0x32, 0x33, 0x34, 0x35, 0x36, 0x37, 0x38, 0x39] = 0xE3069283 := by decide +kernel
/-- 05 R171. -/
theorem test_scalar_operations : (scalarResult 0x02 0 1).1 = 0xFFFFFFFFFFFFFFFF ∧ (scalarResult 0x07 1 65).1 = 2
    ∧ (scalarResult 0x09 0x8000000000000000 63).1 = 0xFFFFFFFFFFFFFFFF ∧ (scalarResult 0x0A 0 (-1)).1 = 0 ∧ (scalarResult 0x0C 0 (-1)).1 = -1
    ∧ (scalarResult 0x0F 7 0).1 = 7 ∧ (scalarResult 0x10 0x3F800000 0x40000000).1 = 0x40400000 ∧ (scalarResult 0x11 0x40000000 0x40400000).1 = 0x40C00000
    ∧ (scalarResult 0x03 0x100000000 0x100000001).1 = 0x100000000 := by decide +kernel
/-- 05, worked example: GE_F32 on 0.375 and 0.75 against 0.5; the BRANCH at 6 with TARGET 4 leaves the loop {0, 9, 8}. -/
theorem test_branch_example : branchHolds 7 0x3EC00000 0x3F000000 = false ∧ branchHolds 7 0x3F400000 0x3F000000 = true
    ∧ branchTaken (listExec 6 12 [{ b := 0, e := 9, count := 8 }])
        { freshCmd 1 0 0 (some 0) [] 6 [0x00000004000F00070000000000020250, 0x3F000000] with phase := .fetched } = some (10, []) := by decide +kernel
/-- 05, worked example, step 8: the record of the REPLAY_LIST. -/
theorem test_record_example : compRecord 2000000000 1003200 0 0x12 0x42 0 0 false 2 = 0x000077359400000F4EC0001200420002 := by decide +kernel
/-- 08, worked example: the FP4 block of 20, −7, 3 and 0.3. -/
theorem test_fp4_example : writeFp4 none ([fp32 0x41A00000, fp32 0xC0E00000, fp32 0x40400000, fp32 0x3E99999A] ++ List.replicate 28 (.fin false 0 0))
    = (0x81, [6, 0xC, 2, 0] ++ List.replicate 28 0, 6) := by decide +kernel
/-- 09, worked example: descriptors S and D, and the image whose row extent is 1,600 bits. -/
def exS : W512 := BitVec.ofNat 512 (0x30000000 + field 0x31 64 64 + field 0x0000240004000100 128 64 + field 0x0000010000000000 256 64 + field 0x4000 320 64)
def exD : W512 := BitVec.ofNat 512 (0x0000800030000000 + field 0x31 64 64 + field 0x0000240010000040 128 64 + field 0x0000004000000000 256 64 + field 0x4000 320 64)
def bigMem : Chip := { rich with mems := [(0, { mem0 with size := 0x400000 })] }
theorem test_descriptor_example : elemByte exS [200, 5, 7] = 232336 ∧ elemByte exD [5, 200, 7] = 2352138 ∧ tensorEnd exS = 1179648 ∧ tensorEnd exD = 3276800
    ∧ descCheck bigMem 0 exS = none ∧ descCheck bigMem 0 exD = none
    ∧ descCheck bigMem 0 (BitVec.ofNat 512 (0x30000000 + field 0x11 64 64 + field 100 128 20)) = some (stProgram, 0x304)
    ∧ groomLegal (groomArgs (0x330 + field 0x81 224 32)) exS exD none = true := by decide +kernel
/-- 10, worked example, step 3. -/
theorem test_stripe_example : stackOf 0x1000030040 = 0 ∧ channelOf 0x1000030040 = 6 := by decide
/-- 00 R15: WIN_CHANGED, set by a fill that ends in the cycle of the write that clears it, stays set. -/
def filling : State := withWin { devWin with pending := true }
theorem test_set_wins : nextIs (exec (.windowFillDone 0 0) filling) (fun u =>
    nextIs (exec (.registerWrite 0 (.bar0 8 4 false) 512) u) (fun t => (tenantOf t.chip 0).winChanged)
      && nextIs (step u) (fun v => nextIs (exec (.registerWrite 0 (.bar0 8 4 false) 512) v) (fun t => !(tenantOf t.chip 0).winChanged))) = true := by decide +kernel
/-- 08 R259, R271: infinity times 0 with a NaN addend raises no flag; without one it is INVALID. -/
theorem test_fma_nan : ffma 0x7F800000 0 0x7FC00000 = (0x7FC00000, 0) ∧ (ffma 0x7F800000 0 0x3F800000).1 = 0x7FC00000
    ∧ (ffma 0x7F800000 0 0x3F800000).2 ≠ 0 := by decide +kernel
/-- 12, worked example: source 15 goes to core 7. -/
def exRein : Rein :=
  { Rein.reset with cfg := [(15, { SrcCfg.reset 15 with coreEn := true, priority := 9, coreMask := 0xF0, coreVector := 0x21 })], pendingCore := [15], rotate := 6,
                    cores := [(4, { vbase := 0x800000, eligible := true, stack := [12] }), (5, { vbase := 0x800000, eligible := true, stack := [] }),
                              (6, { vbase := 0x800000, eligible := true, stack := [3] }), (7, { vbase := 0x800000, eligible := true, stack := [] })] }
theorem test_core_delivery_example : nextIs (exec (.coreDelivery 15) (withChip (fun c => { c with rein := exRein }))) (fun t =>
    t.chip.out == [.coreVector 7 0x00800420] && t.chip.rein.rotate == 0 && (coreOf t.chip 7).stack == [9]) = true := by decide +kernel
/-- 12, worked example: the write of RN_SRC_CFG[8]. -/
theorem test_source_write_example : nextIs (exec (.rnSrcCfgWrite 8 0x584FA0000 true) dev0) (fun t =>
    srcCfg t.chip 8 == { SrcCfg.reset 8 with hostVector := 5, hostEn := true, sense := 1, filter := 250 }) = true := by decide +kernel
/-- 12, worked example, step 7. -/
theorem test_spurious_completion : nextIs (exec (.rnHostEoi 8) dev0) (fun t => t.chip.rein.spurious == 1) = true := by decide +kernel

/-- 04, worked example: P1 and half of P2 are committed; 814 overruns. -/
def exQueue (tail head : W32) : State := withQueue (fun x => { x with head := head, tail := tail })
theorem test_doorbell_example : nextIs (exec (.doorbell 0 0 511) (exQueue 504 504)) (fun t => (tget t.chip.queues 0).any (fun x => x.tail == 511 && x.err.isNone)) = true
    ∧ nextIs (exec (.doorbell 0 0 814) (exQueue 511 508)) (fun t => (tget t.chip.queues 0).any (fun x => x.tail == 511 && x.err == some (stOverrun, 0))) = true := by
  decide +kernel
/-- 04, worked example: features 0x33B at minor 2. -/
theorem test_negotiate_example : (agree 0 FwImage.shipping (0x01 + field 2 64 16 + field 1 80 16 + field 0x33B 128 128)).features = 0x3B
    ∧ (agree 0 FwImage.shipping (0x01 + field 2 64 16 + field 1 80 16 + field 0x33B 128 128)).minor = 2 := by decide
/-- 03, worked example, step 6, and R111: a window of size 0 takes ERR 6. -/
theorem test_bar2_miss : nextIs (exec (.bar2Read 0 0 2) (withPf0 (fun t => { t with windows := [] }))) (fun t =>
    t.chip.out == [.bar2Data 0 [0, 0] false] && (tenantOf t.chip 0).bar2Miss == 1) = true := by decide +kernel
theorem test_window_size_zero : nextIs (exec (.windowSetValid 0 1 1) dev0) (fun t => (windowOf t.chip 0 1).err == 6) = true := by decide +kernel
/-- 02 R57, R68: the first hitch has handle 0x5000_0000; 04 R141: the response. -/
theorem test_create_hitch : nextIs (exec (.createHitch 0) { withRq (0x13 + field 5 64 64) with chip := { (withRq (0x13 + field 5 64 64)).chip with hitches := [] } }) (fun t =>
    leNat (readBytes (tenantOf t.chip 0).chan.rspBytes 0 64) == 0x13 + field 0x50000000 64 32 && (tget t.chip.hitches 0).any (fun h => h.value == 5)) = true := by
  decide +kernel
/-- 04 R142: operation 0x02 is undefined. -/
theorem test_undefined_request : nextIs (exec (.undefinedRequest 0) (withRq (0x02 + field 0xABCD 16 16))) (fun t =>
    leNat (readBytes (tenantOf t.chip 0).chan.rspBytes 0 64) == 0x02 + field 0x31 8 8 + field 0xABCD 16 16 + field 1 32 32) = true := by decide +kernel
/-- 02 R69, R70: a signal of 4 raises 3 to 4 and releases the wait for 4. -/
theorem test_signal_raises : nextIs (exec (.signalHitch 0) (richCmd (packet signalPacket 2))) (fun t => (tget t.chip.hitches 0).any (fun h => h.value == 4)) = true := by
  decide +kernel
theorem test_wait_registers : nextIs (exec (.waitHitch 0) (richCmd (packet (waitPacket 4) 2))) (fun t => (tget t.chip.hitches 0).any (fun h =>
    h.waiters == [.cmd 0 0 4 false] && h.refs.dev == 1)) = true := by decide +kernel
/-- 02, worked example, step 8: the broken record of a release by a FAULT_WINDOW queue of context 0x012. -/
theorem test_broken_record : nextIs (exec (.signalHitch 0) (withChip (fun c => { c with queues := [(0, { qWith (packet signalPacket 2) with err := some (stWindow, 0x012) })] })))
    (fun t => (tget t.chip.hitches 0).any (fun h => h.broken == 0x81100012) && (cmdOf t.chip 0 0).any (fun k => k.status == stCancelled)) = true := by decide +kernel
/-- 05 R178: a count of 0 skips the body and leaves the stack. -/
theorem test_loop_skips : nextIs (exec (.loopBegin 0) (withChip (fun c => { c with
    queues := [(0, controlQueue (0x251 + field 1 72 1 + field 9 96 32) 0 [])] }))) (fun t =>
      (tget t.chip.queues 0).any (fun x => (listOf x 0).any (fun l => l.pos == 10 && l.stack == []))) = true := by decide +kernel
/-- 05 R167, 15 R458: FREEZE_ID is the chip number and the next sequence. -/
theorem test_freeze_packet : nextIs (exec (.freeze 0) (richCmd (packet 0x161 1))) (fun t =>
    t.chip.counters.pendingFreeze == some { tf := 60000, id := 1, source := 3, broadcast := false }) = true := by decide +kernel
/-- 09 R296: a GROOM COPY of 16 elements writes at its completion the source's bytes. -/
theorem test_groom_copies : nextIs (exec (.groomComplete 0 0) (engCmd (groomAt .running))) (fun t =>
    loadDev t.chip 0x40040 64 == loadDev engChip 0x40000 64 && (cmdOf t.chip 0 0).any (fun k => k.status == stOk)) = true := by decide +kernel
/-- 06, worked example, step 3: an edge 300 ns after B₀. -/
def exBeat : Beat :=
  { Beat.reset with period := 41666667, ext := true, state := 2, last := 5000000000, next := 5041666667, lastEdge := 4958333333 }
theorem test_beat_example : nextIs (exec (.beatSyncEdge 5000000300) (edgeAt 5000000300 (withBeat exBeat 5000000300))) (fun t =>
    (tget t.beats 7).any (fun b => b.next == 5041666967 && b.phaseErr == 300)) = true := by decide +kernel
/-- 14 R425: a sample at the throttle limit takes 1,500 MHz to 1,400; 17 R476: SMBus in READY. -/
theorem test_throttle : nextIs (exec (.governorSample 105 0) (withGov0 (fun g => { g with clMhz := 1500 }))) (fun t => t.gov.clMhz == 1400 && t.gov.thermalLimiting) = true := by
  decide +kernel
theorem test_smbus : nextIs (exec .smbusDevState (withChip (fun c => { c with clock := 2000000 }))) (fun t => t.chip.out == [.smbus (some 3)]) = true
    ∧ nextIs (exec (.smbusOtherCommand 5) (withChip (fun c => { c with clock := 2000000 }))) (fun t => t.chip.out == [.smbus none]) = true := by decide +kernel
/-- 17, worked example, step 3: an EXTERNAL domain blocks HALT. -/
theorem test_halt_block : haltBlock { atPower .doze 0 with beats := [(0, { Beat.reset with ext := true })] } = 2 := by decide +kernel
/-- 17 R492, 13 R404: PERST_N leaves OFF with RESET_CAUSE 1. -/
theorem test_perst : nextIs (exec .perstNAssert dev0) (fun t => t.chip.dev == .off && t.halter.resetCause == 1 && t.chip.mems == []) = true := by decide +kernel
/-- 15, worked example: chip (3, 1) has number 19; 11 R336: the sender's port is bits 105:104. -/
theorem test_chip_number : ({ Place.none with x := 3, y := 1 } : Place).num = 19 := by decide

end Sys2Proof.Tests
end

section
/-! PROOFS. Host reads of BAR0 (00 R17, R18): the wake and the decoding of an access, then one rule for each kind of register read. -/

namespace Sys2Proof.Machine

/-! ### What the steps of a read leave -/

@[simp] theorem answer_out (s : State) (fn o v : Nat) :
    (answer s fn o v).chip.out = s.chip.out ++ [.barData fn o (BitVec.ofNat 64 v)] := rfl
@[simp] theorem answer_tenants (s : State) (fn o v : Nat) : (answer s fn o v).chip.tenants = s.chip.tenants := rfl
@[simp] theorem tenantOf_answer (s : State) (fn o v t : Nat) : tenantOf (answer s fn o v).chip t = tenantOf s.chip t := rfl

@[simp] theorem spent_out (s : State) : (spent s).chip.out = s.chip.out := rfl
@[simp] theorem spent_tenants (s : State) : (spent s).chip.tenants = s.chip.tenants := rfl
@[simp] theorem tenantOf_spent (s : State) (t : Nat) : tenantOf (spent s).chip t = tenantOf s.chip t := rfl

@[simp] theorem latchHigh_out (s : State) (fn : Nat) (f : Tab W32 → Tab W32) : (latchHigh s fn f).chip.out = s.chip.out := rfl
@[simp] theorem latchHigh_latch (s : State) (fn : Nat) (f : Tab W32 → Tab W32) :
    (tenantOf (latchHigh s fn f).chip fn).latch = f (tenantOf s.chip fn).latch := by
  simp [latchHigh]

/-! ### Reads of a 64-bit register -/

theorem read32_low {s : State} {fn o v : Nat} (ho : o % 8 = 0) (hr : reg64 s fn o = some v) :
    read32 s fn o
      = spent (answer (latchHigh s fn (fun l => tset l (o + 4) (BitVec.ofNat 32 (v / pow2 32)))) fn o (v % pow2 32)) := by
  have hbase : o / 8 * 8 = o := by omega
  simp [read32, hbase, hr, ho]

/-- The high half belongs to the register of the low half: what that read latched is given once. -/
theorem read32_high_latched {s : State} {fn o v : Nat} {h : W32} (ho : o % 8 = 0) (hr : reg64 s fn o = some v)
    (hl : tget (tenantOf s.chip fn).latch (o + 4) = some h) :
    read32 s fn (o + 4) = answer (latchHigh s fn (fun l => terase l (o + 4))) fn (o + 4) h.toNat := by
  have hbase : (o + 4) / 8 * 8 = o := by omega
  have hhalf : (o + 4) % 8 ≠ 0 := by omega
  simp [read32, hbase, hr, hhalf, hl]

theorem read32_high_live {s : State} {fn o v : Nat} (ho : o % 8 = 0) (hr : reg64 s fn o = some v)
    (hl : tget (tenantOf s.chip fn).latch (o + 4) = none) :
    read32 s fn (o + 4) = spent (answer s fn (o + 4) (v / pow2 32)) := by
  have hbase : (o + 4) / 8 * 8 = o := by omega
  have hhalf : (o + 4) % 8 ≠ 0 := by omega
  simp [read32, hbase, hr, hhalf, hl]

theorem read64_register {s : State} {fn o v : Nat} (hr : reg64 s fn o = some v) :
    read64 s fn o = spent (answer s fn o v) := by
  simp [read64, hr]

/-! ### The access -/

theorem natural_iff (o width : Nat) : natural o width = true ↔ (width = 4 ∨ width = 8) ∧ o % width = 0 := by
  simp [natural]

/-- In ACTIVE a host access wakes nothing: it ends a spell without work. -/
theorem hostWake_of_active {s : State} (h : s.halter.power = .active) : hostWake s = afterAccess s (fun c _ => c) := by
  simp [hostWake, wokenBy, wake, h, afterAccess, onChip]

/-- A read that reaches its function: the width picks the read, and an access that is not natural reads 0 (00 R17). -/
theorem exec_bar0Read {s : State} {fn o : Nat} (h : hostReaches s fn = true) (ho : o < barSize fn) (width : Nat) :
    exec (.lowHalfRead fn (.bar0 o width)) s
      = .next (if natural o width then
            (if width = 4 then read32 (afterAccess s (fun c _ => c)) fn o else read64 (afterAccess s (fun c _ => c)) fn o)
          else answer (afterAccess s (fun c _ => c)) fn o 0) := by
  simp only [hostReaches, Bool.and_eq_true, Bool.not_eq_true', beq_iff_eq] at h
  obtain ⟨⟨hreach, hup⟩, hactive⟩ := h
  have hup' : tornDown (afterAccess s (fun c _ => c)) fn = false := hup
  simp only [exec, execLowHalfRead, barRead, hreach, hostWake_of_active hactive, hup', Nat.not_le.mpr ho]
  cases natural o width <;> simp

theorem exec_bar0Read_dword {s : State} {fn o : Nat} (h : hostReaches s fn = true) (ho : o < barSize fn) (ha : o % 4 = 0) :
    exec (.lowHalfRead fn (.bar0 o 4)) s = .next (read32 (afterAccess s (fun c _ => c)) fn o) := by
  simp [exec_bar0Read h ho, (natural_iff o 4).mpr ⟨.inl rfl, ha⟩]

theorem exec_bar0Read_qword {s : State} {fn o : Nat} (h : hostReaches s fn = true) (ho : o < barSize fn) (ha : o % 8 = 0) :
    exec (.lowHalfRead fn (.bar0 o 8)) s = .next (read64 (afterAccess s (fun c _ => c)) fn o) := by
  simp [exec_bar0Read h ho, (natural_iff o 8).mpr ⟨.inr rfl, ha⟩]

theorem exec_bar0Read_unnatural {s : State} {fn o width : Nat} (h : hostReaches s fn = true) (ho : o < barSize fn)
    (hn : (width ≠ 4 ∧ width ≠ 8) ∨ o % width ≠ 0) :
    exec (.lowHalfRead fn (.bar0 o width)) s = .next (answer (afterAccess s (fun c _ => c)) fn o 0) := by
  have hbad : ¬ natural o width = true := by
    rw [natural_iff]
    rintro ⟨hwidth, halign⟩
    omega
  simp [exec_bar0Read h ho, hbad]

/-- Settles O13: an access that reaches its function is decoded once, and each read of a 64-bit register has its rule; a latch is an
entry of a table, so the other latched halves stay. -/
theorem lowHalfReadLatchesHighHalf : Obligations.LowHalfReadLatchesHighHalf := by
  refine ⟨fun s fn off v h hsize halign hreg => ?register, ?unnatural⟩
  case register =>
    have hreg : reg64 (afterAccess s (fun c _ => c)) fn off = some v := hreg
    refine ⟨?low, ?whole, ?live, ?latched⟩
    case low =>
      refine ⟨_, exec_bar0Read_dword h hsize (by omega), ?_⟩
      rw [read32_low halign hreg]
      refine ⟨by simp, by simp [tget_tset_same], fun o ho => ?_⟩
      simp [tget_tset_other _ _ _ _ ho.symm]
    case whole =>
      refine ⟨_, exec_bar0Read_qword h hsize halign, ?_⟩
      rw [read64_register hreg]
      simp
    case live =>
      intro hnone hhigh
      refine ⟨_, exec_bar0Read_dword h hhigh (by omega), ?_⟩
      rw [read32_high_live halign hreg hnone]
      simp
    case latched =>
      intro half hsome hhigh
      refine ⟨_, exec_bar0Read_dword h hhigh (by omega), ?_⟩
      rw [read32_high_latched halign hreg hsome]
      simp [tget_terase_same]
  case unnatural =>
    intro s fn off width h hsize hn
    exact ⟨_, exec_bar0Read_unnatural h hsize hn, by simp⟩

end Sys2Proof.Machine
end

section
/-! PROOFS. What the shared updates give when read back: one rule for each accessor after each update of an object, the object that a
handle names, and tables whose entries are all mapped. -/

namespace Sys2Proof.Machine

/-! ### Tables -/

theorem tget_map {α β : Type} (t : Tab α) (f : α → β) (i : Nat) : tget (t.map (fun p => (p.1, f p.2))) i = (tget t i).map f := by
  induction t with
  | nil => rfl
  | cons p r ih =>
    obtain ⟨j, v⟩ := p
    by_cases h : j = i
    · simp [tget, h]
    · simpa [tget, h] using ih

theorem tget_tset {α : Type} (t : Tab α) (k i : Nat) (v : α) : tget (tset t k v) i = if i = k then some v else tget t i := by
  by_cases h : i = k
  · rw [h, tget_tset_same, if_pos rfl]
  · rw [tget_tset_other _ _ _ _ (Ne.symm h), if_neg h]

theorem tget_terase {α : Type} (t : Tab α) (k i : Nat) : tget (terase t k) i = if i = k then none else tget t i := by
  by_cases h : i = k
  · rw [h, tget_terase_same, if_pos rfl]
  · rw [tget_terase_other _ _ _ (Ne.symm h), if_neg h]

/-- A table in which one entry, if it is there, is replaced by its image. -/
theorem tget_altered {α : Type} {t u : Tab α} {k : Nat} {f : α → α}
    (h : (∃ x, tget t k = some x ∧ u = tset t k (f x)) ∨ (tget t k = none ∧ u = t)) (i : Nat) :
    tget u i = if i = k then (tget t k).map f else tget t i := by
  rcases h with ⟨x, hx, rfl⟩ | ⟨hx, rfl⟩
  · rw [tget_tset, hx, Option.map_some]
  · split
    case isTrue h => rw [h, hx]; rfl
    case isFalse => rfl

/-! ### Updates of one object -/

theorem tget_modQueue (c : Chip) (q : Nat) (f : Queue → Queue) (i : Nat) :
    tget (modQueue c q f).queues i = if i = q then (tget c.queues q).map f else tget c.queues i :=
  tget_altered (by cases h : tget c.queues q <;> simp [modQueue, h, setQueue]) i

theorem tget_modContext (c : Chip) (k : Nat) (f : Context → Context) (i : Nat) :
    tget (modContext c k f).contexts i = if i = k then (tget c.contexts k).map f else tget c.contexts i :=
  tget_altered (by cases h : tget c.contexts k <;> simp [modContext, h]) i

theorem tget_modMem (c : Chip) (m : Nat) (f : MemObj → MemObj) (i : Nat) :
    tget (modMem c m f).mems i = if i = m then (tget c.mems m).map f else tget c.mems i :=
  tget_altered (by cases h : tget c.mems m <;> simp [modMem, h]) i

theorem tget_modHitch (c : Chip) (k : Nat) (f : Hitch → Hitch) (i : Nat) :
    tget (modHitch c k f).hitches i = if i = k then (tget c.hitches k).map f else tget c.hitches i :=
  tget_altered (by cases h : tget c.hitches k <;> simp [modHitch, h]) i

theorem tget_modEvent (c : Chip) (k : Nat) (f : Event → Event) (i : Nat) :
    tget (modEvent c k f).events i = if i = k then (tget c.events k).map f else tget c.events i :=
  tget_altered (by cases h : tget c.events k <;> simp [modEvent, h]) i

theorem tget_modToken (c : Chip) (k : Nat) (f : Token → Token) (i : Nat) :
    tget (modToken c k f).tokens i = if i = k then (tget c.tokens k).map f else tget c.tokens i :=
  tget_altered (by cases h : tget c.tokens k <;> simp [modToken, h]) i

/-! ### What a handle names -/

theorem objOf_context {c : Chip} {h : Handle} (ht : hType h = 1) :
    objOf c h = (tget c.contexts (hIndex h)).bind (fun x => if x.handle == h then some (x.owner, x.refs) else none) := by
  simp [objOf, ht]

theorem objOf_queue {c : Chip} {h : Handle} (ht : hType h = 2) :
    objOf c h = (tget c.queues (hIndex h)).bind (fun x => if x.handle == h then some (x.owner, x.refs) else none) := by
  simp [objOf, ht]

theorem objOf_mem {c : Chip} {h : Handle} (ht : hType h = 3 ∨ hType h = 4) :
    objOf c h = (tget c.mems (hIndex h)).bind (fun x => if x.handle == h then some (x.owner, x.refs) else none) := by
  rcases ht with ht | ht <;> simp [objOf, ht]

theorem objOf_hitch {c : Chip} {h : Handle} (ht : hType h = 5) :
    objOf c h = (tget c.hitches (hIndex h)).bind (fun x => if x.handle == h then some (x.owner, x.refs) else none) := by
  simp [objOf, ht]

theorem objOf_event {c : Chip} {h : Handle} (ht : hType h = 6) :
    objOf c h = (tget c.events (hIndex h)).bind (fun x => if x.handle == h then some (x.owner, x.refs) else none) := by
  simp [objOf, ht]

/-- Only the six object types name anything (02 R57). -/
theorem hType_of_objOf {c : Chip} {h : Handle} {o : Nat} {r : Refs} (ho : objOf c h = some (o, r)) :
    hType h = 1 ∨ hType h = 2 ∨ (hType h = 3 ∨ hType h = 4) ∨ hType h = 5 ∨ hType h = 6 := by
  unfold objOf at ho
  split at ho <;> simp_all

/-- The queue that a handle of TYPE 2 names. -/
theorem queue_of_objOf {c : Chip} {h : Handle} {o : Nat} {r : Refs} (ht : hType h = 2) (ho : objOf c h = some (o, r)) :
    ∃ x, tget c.queues (hIndex h) = some x ∧ x.handle = h ∧ x.owner = o ∧ x.refs = r := by
  rw [objOf_queue ht] at ho
  cases hx : tget c.queues (hIndex h) with
  | none => simp [hx] at ho
  | some x => exact ⟨x, rfl, by simpa [hx] using ho⟩

/-- The hitch that a handle of TYPE 5 names. -/
theorem hitch_of_objOf {c : Chip} {h : Handle} {o : Nat} {r : Refs} (ht : hType h = 5) (ho : objOf c h = some (o, r)) :
    ∃ x, tget c.hitches (hIndex h) = some x ∧ x.handle = h ∧ x.owner = o ∧ x.refs = r := by
  rw [objOf_hitch ht] at ho
  cases hx : tget c.hitches (hIndex h) with
  | none => simp [hx] at ho
  | some x => exact ⟨x, rfl, by simpa [hx] using ho⟩

/-! ### Counts of references, by TYPE -/

theorem setRefs_context {c : Chip} {h : Handle} (ht : hType h = 1) (r : Refs) :
    setRefs c h r = modContext c (hIndex h) (fun x => { x with refs := r }) := by simp [setRefs, ht]

theorem setRefs_queue {c : Chip} {h : Handle} (ht : hType h = 2) (r : Refs) :
    setRefs c h r = modQueue c (hIndex h) (fun x => { x with refs := r }) := by simp [setRefs, ht]

theorem setRefs_mem {c : Chip} {h : Handle} (ht : hType h = 3 ∨ hType h = 4) (r : Refs) :
    setRefs c h r = modMem c (hIndex h) (fun x => { x with refs := r }) := by rcases ht with ht | ht <;> simp [setRefs, ht]

theorem setRefs_hitch {c : Chip} {h : Handle} (ht : hType h = 5) (r : Refs) :
    setRefs c h r = modHitch c (hIndex h) (fun x => { x with refs := r }) := by simp [setRefs, ht]

theorem setRefs_event {c : Chip} {h : Handle} (ht : hType h = 6) (r : Refs) :
    setRefs c h r = modEvent c (hIndex h) (fun x => { x with refs := r }) := by simp [setRefs, ht]

/-- A handle that names no queue and no hitch: the counts stand in another table, or nowhere. -/
theorem setRefs_elsewhere {c : Chip} {h : Handle} (h2 : hType h ≠ 2) (h5 : hType h ≠ 5) (r : Refs) :
    (setRefs c h r).rotation = c.rotation ∧ (setRefs c h r).queues = c.queues ∧ (setRefs c h r).hitches = c.hitches
      ∧ (setRefs c h r).tokens = c.tokens := by
  unfold setRefs
  split <;> simp_all

/-- The counts that an object has are those that were set. -/
theorem objOf_setRefs {c : Chip} {h : Handle} {o : Nat} {r : Refs} (ho : objOf c h = some (o, r)) (r' : Refs) :
    objOf (setRefs c h r') h = some (o, r') := by
  rcases hType_of_objOf ho with ht | ht | ht | ht | ht
  · rw [objOf_context ht] at ho ⊢
    rw [setRefs_context ht, tget_modContext, if_pos rfl]
    cases hx : tget c.contexts (hIndex h) <;> simp_all
  · rw [objOf_queue ht] at ho ⊢
    rw [setRefs_queue ht, tget_modQueue, if_pos rfl]
    cases hx : tget c.queues (hIndex h) <;> simp_all
  · rw [objOf_mem ht] at ho ⊢
    rw [setRefs_mem ht, tget_modMem, if_pos rfl]
    cases hx : tget c.mems (hIndex h) <;> simp_all
  · rw [objOf_hitch ht] at ho ⊢
    rw [setRefs_hitch ht, tget_modHitch, if_pos rfl]
    cases hx : tget c.hitches (hIndex h) <;> simp_all
  · rw [objOf_event ht] at ho ⊢
    rw [setRefs_event ht, tget_modEvent, if_pos rfl]
    cases hx : tget c.events (hIndex h) <;> simp_all

end Sys2Proof.Machine
end

section
/-! PROOFS. What the end of a command leaves alone (02 R83 to R86, 05 R155, 06 R220, R221). References drop, objects with no count left go,
waiters are released, windows are discarded and records are posted: through all of it a queue or hitch that the host holds stays, with its
host half and its value, and no rotation pointer and no token moves. -/

namespace Sys2Proof.Machine

/-! ### The parts of the chip in question -/

/-- Rotation pointers, queues, hitches and tokens. -/
def syncCore (c : Chip) : Rotation × Tab Queue × Tab Hitch × Tab Token := (c.rotation, c.queues, c.hitches, c.tokens)

theorem syncCore_eq_iff {c d : Chip} :
    syncCore d = syncCore c ↔ d.rotation = c.rotation ∧ d.queues = c.queues ∧ d.hitches = c.hitches ∧ d.tokens = c.tokens := by
  simp [syncCore]

theorem syncCore_foldl {α : Type} {f : Chip → α → Chip} (hf : ∀ c x, syncCore (f c x) = syncCore c) (l : List α) (c : Chip) :
    syncCore (l.foldl f c) = syncCore c := by
  induction l generalizing c with
  | nil => rfl
  | cons x r ih => rw [List.foldl_cons, ih, hf]

@[simp] theorem syncCore_modTenant (c : Chip) (t : Nat) (f : Tenant → Tenant) : syncCore (modTenant c t f) = syncCore c := rfl
@[simp] theorem syncCore_modContext (c : Chip) (k : Nat) (f : Context → Context) : syncCore (modContext c k f) = syncCore c := by simp [syncCore]
@[simp] theorem syncCore_modMem (c : Chip) (m : Nat) (f : MemObj → MemObj) : syncCore (modMem c m f) = syncCore c := by simp [syncCore]
@[simp] theorem syncCore_modEvent (c : Chip) (i : Nat) (f : Event → Event) : syncCore (modEvent c i f) = syncCore c := by simp [syncCore]
@[simp] theorem syncCore_raiseSource (c : Chip) (i : Nat) : syncCore (raiseSource c i) = syncCore c := by simp [syncCore]
@[simp] theorem syncCore_cntFix (c : Chip) (i n : Nat) : syncCore (cntFix c i n) = syncCore c := by simp [syncCore]
@[simp] theorem syncCore_addUtil (c : Chip) (k : Nat) (f : Util → Util) : syncCore (addUtil c k f) = syncCore c := syncCore_modContext _ _ _
@[simp] theorem syncCore_raiseStamp (c : Chip) (m : Nat) : syncCore (raiseStamp c m) = syncCore c := syncCore_modMem _ _ _
@[simp] theorem syncCore_raiseReuse (c : Chip) (sp i : Nat) : syncCore (raiseReuse c sp i) = syncCore c := rfl
@[simp] theorem syncCore_freeIndex (c : Chip) (sp i : Nat) : syncCore (freeIndex c sp i) = syncCore c := rfl

theorem syncCore_setRefs {c : Chip} {h : Handle} (h2 : hType h ≠ 2) (h5 : hType h ≠ 5) (r : Refs) :
    syncCore (setRefs c h r) = syncCore c := syncCore_eq_iff.2 (setRefs_elsewhere h2 h5 r)

@[simp] theorem syncCore_cntEv (c : Chip) (ctx ev cl n : Nat) (m : CntMode) : syncCore (cntEv c ctx ev cl n m) = syncCore c := by
  unfold cntEv
  split
  · rfl
  · exact syncCore_foldl (fun c p => syncCore_cntFix _ _ _) _ _

@[simp] theorem syncCore_cntHbm (c : Chip) (b a n : Nat) : syncCore (cntHbm c b a n) = syncCore c :=
  syncCore_foldl (fun _ _ => syncCore_cntFix _ _ _) _ _

/-! ### Device memory and records -/

theorem syncCore_healLine (c : Chip) (l : Nat) : syncCore (healLine c l) = syncCore c := by
  simp only [healLine]
  split <;> rfl

@[simp] theorem syncCore_clearPoison (c : Chip) (a n : Nat) : syncCore (clearPoison c a n) = syncCore c := by
  simp only [clearPoison]
  split
  · exact syncCore_foldl syncCore_healLine _ _
  · rfl

@[simp] theorem syncCore_zeroDev (c : Chip) (a n : Nat) : syncCore (zeroDev c a n) = syncCore c := syncCore_clearPoison _ _ _

theorem syncCore_fillGranule (c : Chip) (m g : Nat) : syncCore (fillGranule c m g) = syncCore c := by
  rcases fillGranule_cases c m g with e | ⟨a, n, e⟩ <;> simp [e, fillAt]

@[simp] theorem syncCore_fillTouched (c : Chip) (a n : Nat) : syncCore (fillTouched c a n) = syncCore c := by
  refine syncCore_foldl (fun c p => ?_) _ _
  split
  · exact syncCore_foldl (fun c i => syncCore_fillGranule _ _ _) _ _
  · rfl

@[simp] theorem syncCore_storeDev (c : Chip) (a : Nat) (bs : List Byte) : syncCore (storeDev c a bs) = syncCore c := by
  rw [storeDev, syncCore_cntHbm, storeQuiet]
  split
  · rfl
  · exact (syncCore_clearPoison _ _ _).trans (syncCore_fillTouched c a bs.length)

@[simp] theorem syncCore_raiseBind (c : Chip) (b : Option Nat) : syncCore (raiseBind c b) = syncCore c := by
  cases b with
  | none => rfl
  | some i => exact syncCore_raiseSource _ _

@[simp] theorem syncCore_ringWrite (c : Chip) (b sz log2 : Nat) (prod : W32) (n : Nat) :
    syncCore (ringWrite c b sz log2 prod n) = syncCore c := by simp [ringWrite]

@[simp] theorem syncCore_ringPost (c : Chip) (r : RecRing) (sz n : Nat) : syncCore (ringPost c r sz n).1 = syncCore c := by
  simp only [ringPost]
  split <;> simp

@[simp] theorem syncCore_postTenantErr (c : Chip) (r : ErrRec) (n : W32) : syncCore (postTenantErr c r n) = syncCore c := by
  unfold postTenantErr
  split
  · rfl
  · simp only
    split
    · rfl
    · split
      · rfl
      · split <;> simp

@[simp] theorem syncCore_postGlobalErr (c : Chip) (r : ErrRec) (n : W32) : syncCore (postGlobalErr c r n) = syncCore c := by
  simp only [postGlobalErr]
  split
  · exact syncCore_raiseSource _ _
  · split
    · rfl
    · exact syncCore_raiseSource _ _

@[simp] theorem syncCore_postError (c : Chip) (r : ErrRec) : syncCore (postError c r) = syncCore c := by
  simp only [postError, syncCore_postGlobalErr, syncCore_postTenantErr]
  rfl

@[simp] theorem syncCore_postTrace (c : Chip) (r : TraceRec) : syncCore (postTrace c r) = syncCore c := by
  unfold postTrace
  split
  · rfl
  · split <;> simp

/-! ### What is kept -/

/-- What a hitch that the host holds keeps: its value, and its broken record once it has one (02 R74). -/
def HitchKept (y y' : Hitch) : Prop := y'.value = y.value ∧ y'.refs.host = y.refs.host ∧ (y.broken ≠ 0 → y'.broken = y.broken)

/-- From c to d the rotation pointers and tokens stay, no queue comes, what goes was not held by the host, and a queue that stays has the
same host half and the same `key`. -/
structure Kept {α : Type} (key : Queue → α) (c d : Chip) : Prop where
  rotation : d.rotation = c.rotation
  tokens : d.tokens = c.tokens
  queues : ∀ i z, tget d.queues i = some z → ∃ x, tget c.queues i = some x ∧ z.refs.host = x.refs.host ∧ key z = key x
  held : ∀ i x, tget c.queues i = some x → x.refs.host ≠ 0 → ∃ z, tget d.queues i = some z
  hitches : ∀ i y, tget c.hitches i = some y → y.refs.host ≠ 0 → ∃ y', tget d.hitches i = some y' ∧ HitchKept y y'

/-- All of a queue but its device half and the records that it owes. -/
def standing (x : Queue) : Queue := { x with refs := { x.refs with dev := 0 }, owed := [] }

/-- The same, with the sequence numbers of its commands in place of them. -/
def lineup (x : Queue) : Queue × List Nat := ({ standing x with cmds := [] }, x.cmds.map (fun k => k.seq))

theorem HitchKept.refl (y : Hitch) : HitchKept y y := ⟨rfl, rfl, fun _ => rfl⟩

theorem HitchKept.trans {x y z : Hitch} (h : HitchKept x y) (g : HitchKept y z) : HitchKept x z := by
  obtain ⟨hv, hr, hb⟩ := h
  obtain ⟨gv, gr, gb⟩ := g
  refine ⟨gv.trans hv, gr.trans hr, fun hx => ?_⟩
  have hy := hb hx
  rw [gb (by rwa [hy]), hy]

namespace Kept

variable {α : Type} {key : Queue → α} {c d f : Chip}

theorem of_core (h : syncCore d = syncCore c) : Kept key c d := by
  obtain ⟨hr, hq, hh, ht⟩ := syncCore_eq_iff.1 h
  exact ⟨hr, ht, fun i z hz => ⟨z, hq ▸ hz, rfl, rfl⟩, fun i x hx _ => ⟨x, hq ▸ hx⟩,
    fun i y hy _ => ⟨y, hh ▸ hy, HitchKept.refl y⟩⟩

theorem refl (c : Chip) : Kept key c c := of_core rfl

/-- A queue that the host holds, as it then stands. -/
theorem find (h : Kept key c d) {i : Nat} {x : Queue} (hx : tget c.queues i = some x) (hh : x.refs.host ≠ 0) :
    ∃ z, tget d.queues i = some z ∧ z.refs.host = x.refs.host ∧ key z = key x := by
  obtain ⟨z, hz⟩ := h.held i x hx hh
  obtain ⟨x', hx', hhost, hkey⟩ := h.queues i z hz
  obtain rfl : x' = x := by simpa [hx] using hx'.symm
  exact ⟨z, hz, hhost, hkey⟩

theorem trans (h : Kept key c d) (g : Kept key d f) : Kept key c f where
  rotation := g.rotation.trans h.rotation
  tokens := g.tokens.trans h.tokens
  queues i z hz := by
    obtain ⟨y, hy, hyhost, hykey⟩ := g.queues i z hz
    obtain ⟨x, hx, hxhost, hxkey⟩ := h.queues i y hy
    exact ⟨x, hx, hyhost.trans hxhost, hykey.trans hxkey⟩
  held i x hx hhost := by
    obtain ⟨y, hy, hyhost, -⟩ := h.find hx hhost
    exact g.held i y hy (by rwa [hyhost])
  hitches i y hy hhost := by
    obtain ⟨y', hy', hk⟩ := h.hitches i y hy hhost
    obtain ⟨y'', hy'', hk'⟩ := g.hitches i y' hy' (by rwa [hk.2.1])
    exact ⟨y'', hy'', hk.trans hk'⟩

theorem map {β : Type} (g : α → β) (h : Kept key c d) : Kept (fun x => g (key x)) c d :=
  ⟨h.rotation, h.tokens, fun i z hz => let ⟨x, hx, hh, hk⟩ := h.queues i z hz; ⟨x, hx, hh, congrArg g hk⟩, h.held, h.hitches⟩

theorem lineup (h : Kept standing c d) : Kept lineup c d := h.map (fun x => ({ x with cmds := [] }, x.cmds.map (fun k => k.seq)))
theorem tail (h : Kept Machine.lineup c d) : Kept Queue.tail c d := h.map (fun p => p.1.tail)
theorem ends (h : Kept standing c d) : Kept Queue.tail c d := h.lineup.tail

theorem ite {p : Prop} [Decidable p] (h : Kept key c d) (g : Kept key c f) : Kept key c (if p then d else f) := by
  split
  · exact h
  · exact g

theorem foldl {β : Type} {g : Chip → β → Chip} (hg : ∀ c x, Kept key c (g c x)) (l : List β) (c : Chip) : Kept key c (l.foldl g c) := by
  induction l generalizing c with
  | nil => exact refl c
  | cons x r ih => exact (hg c x).trans (ih _)

/-! ### Updates of one queue or hitch -/

theorem modQueue {q : Nat} {g : Queue → Queue}
    (hg : ∀ x, tget c.queues q = some x → (g x).refs.host = x.refs.host ∧ key (g x) = key x) : Kept key c (modQueue c q g) where
  rotation := by simp
  tokens := by simp
  queues i z hz := by
    rw [tget_modQueue] at hz
    split at hz
    case isTrue h =>
      obtain ⟨x, hx, rfl⟩ := Option.map_eq_some_iff.1 hz
      exact ⟨x, h ▸ hx, hg x hx⟩
    case isFalse => exact ⟨z, hz, rfl, rfl⟩
  held i x hx _ := by
    rw [tget_modQueue]
    split
    case isTrue h => exact ⟨g x, by rw [← h, hx]; rfl⟩
    case isFalse => exact ⟨x, hx⟩
  hitches i y hy _ := ⟨y, by simpa using hy, HitchKept.refl y⟩

theorem modHitch {k : Nat} {g : Hitch → Hitch} (hg : ∀ y, tget c.hitches k = some y → HitchKept y (g y)) :
    Kept key c (modHitch c k g) where
  rotation := by simp
  tokens := by simp
  queues i z hz := ⟨z, by simpa using hz, rfl, rfl⟩
  held i x hx _ := ⟨x, by simpa using hx⟩
  hitches i y hy _ := by
    rw [tget_modHitch]
    split
    case isTrue h => exact ⟨g y, by rw [← h, hy]; rfl, hg y (h ▸ hy)⟩
    case isFalse => exact ⟨y, hy, HitchKept.refl y⟩

theorem waiters (c : Chip) (k : Nat) (g : Hitch → List Waiter) : Kept key c (Machine.modHitch c k (fun y => { y with waiters := g y })) :=
  modHitch (fun _ _ => ⟨rfl, rfl, fun _ => rfl⟩)

/-- Counts set without a change of the host half. -/
theorem setRefs {h : Handle} {o : Nat} {r r' : Refs} (ho : objOf c h = some (o, r)) (hr : r'.host = r.host) :
    Kept standing c (setRefs c h r') := by
  by_cases h2 : hType h = 2
  · obtain ⟨x, hx, -, -, rfl⟩ := queue_of_objOf h2 ho
    rw [setRefs_queue h2]
    refine modQueue (fun x' hx' => ?_)
    obtain rfl : x = x' := by simpa [hx] using hx'
    exact ⟨hr, by simp [standing, hr]⟩
  · by_cases h5 : hType h = 5
    · obtain ⟨y, hy, -, -, rfl⟩ := hitch_of_objOf h5 ho
      rw [setRefs_hitch h5]
      refine modHitch (fun y' hy' => ?_)
      obtain rfl : y = y' := by simpa [hy] using hy'
      exact ⟨rfl, hr, fun _ => rfl⟩
    · exact of_core (syncCore_setRefs h2 h5 r')

/-! ### References and destruction -/

theorem takeRef (c : Chip) (h : Handle) : Kept standing c (takeRef c h) := by
  unfold Machine.takeRef
  split
  case h_1 o r ho => exact setRefs ho rfl
  case h_2 => exact refl c

/-- A queue goes that the host does not hold. -/
theorem of_queue_gone {q : Nat} {x : Queue} (hx : tget c.queues q = some x) (hr : x.refs.host = 0) :
    Kept key c { c with queues := terase c.queues q } := by
  refine ⟨rfl, rfl, fun i z hz => ?_, fun i y hy hhost => ?_, fun i y hy _ => ⟨y, hy, HitchKept.refl y⟩⟩
  · simp only [tget_terase] at hz
    split at hz
    · cases hz
    · exact ⟨z, hz, rfl, rfl⟩
  · have hi : i ≠ q := fun e => hhost (by rw [e, hx] at hy; cases hy; exact hr)
    exact ⟨y, by simp only [tget_terase, if_neg hi, hy]⟩

/-- A hitch goes that the host does not hold. -/
theorem of_hitch_gone {k : Nat} {x : Hitch} (hx : tget c.hitches k = some x) (hr : x.refs.host = 0) :
    Kept key c { c with hitches := terase c.hitches k } := by
  refine ⟨rfl, rfl, fun i z hz => ⟨z, hz, rfl, rfl⟩, fun i y hy _ => ⟨y, hy⟩, fun i y hy hhost => ?_⟩
  have hi : i ≠ k := fun e => hhost (by rw [e, hx] at hy; cases hy; exact hr)
  exact ⟨y, by simp only [tget_terase, if_neg hi, hy], HitchKept.refl y⟩

/-- The type-specific release of an object that the host does not hold. -/
theorem removeObj {h : Handle} {o : Nat} {r : Refs} (ho : objOf c h = some (o, r)) (hr : r.host = 0) :
    Kept standing c (removeObj c h).1 := by
  unfold Machine.removeObj
  split
  case h_1 => exact of_core rfl
  case h_2 ht =>
    obtain ⟨x, hx, -, -, rfl⟩ := queue_of_objOf ht ho
    simp only [hx]
    exact of_queue_gone hx hr
  case h_3 ht =>
    obtain ⟨x, hx, -, -, rfl⟩ := hitch_of_objOf ht ho
    exact of_hitch_gone hx hr
  case h_4 =>
    simp only
    split
    · exact refl c
    · have gone : Kept standing c { c with events := terase c.events (hIndex h) } := of_core rfl
      split
      · exact gone
      · split
        · exact gone
        · exact gone.trans (waiters _ _ _)
  case h_5 => exact of_core rfl

theorem destroyN (n : Nat) (c : Chip) (h : Handle) : Kept standing c (destroyN n c h) := by
  induction n generalizing c h with
  | zero => exact refl c
  | succ n ih =>
    unfold Machine.destroyN
    split
    case h_2 => exact refl c
    case h_1 o r ho =>
      split
      case isTrue => exact refl c
      case isFalse hr =>
        have hhost : r.host = 0 := by simp at hr; exact hr.1
        have hreuse : objOf (raiseReuse c (spaceOf (hType h)) (hIndex h)) h = some (o, r) := ho
        have hremoved := (of_core (syncCore_raiseReuse c (spaceOf (hType h)) (hIndex h))).trans (removeObj hreuse hhost)
        have hdropped := hremoved.trans (foldl (g := fun c g =>
            match objOf c g with
            | some (_, r) => Machine.destroyN n (Machine.setRefs c g { r with dev := r.dev - 1 }) g
            | none => c)
          (fun c g => by
            split
            case h_1 o' r' ho' => exact (setRefs (r' := { r' with dev := r'.dev - 1 }) ho' rfl).trans (ih _ _)
            case h_2 => exact refl c)
          (Machine.removeObj (raiseReuse c (spaceOf (hType h)) (hIndex h)) h).2 _)
        simp only
        split
        · exact hdropped.trans (of_core (syncCore_freeIndex _ _ _))
        · exact hdropped.trans (of_core (syncCore_modTenant _ _ _))

theorem dropRef (c : Chip) (h : Handle) : Kept standing c (dropRef c h) := by
  unfold Machine.dropRef
  split
  case h_1 o r ho =>
    split
    · exact modQueue (fun x _ => ⟨rfl, rfl⟩)
    · exact (setRefs (r' := { r with dev := r.dev - 1 }) ho rfl).trans (destroyN _ _ _)
  case h_2 => exact refl c

theorem dropRefs (c : Chip) (hs : List Handle) : Kept standing c (dropRefs c hs) := foldl dropRef hs c

end Kept

end Sys2Proof.Machine
end

section
/-! PROOFS. The end of a command, a wait or a window, and the break of a hitch, keep the queues and hitches that the host holds (02 R73 to
R76, R84, R86, 06 R220, R221, 13 R389, R390): one rule for each shared operation. -/

namespace Sys2Proof.Machine

@[simp] theorem syncCore_spoil (c : Chip) (k : Cmd) : syncCore (spoil c k) = syncCore c := by
  unfold spoil
  refine syncCore_foldl (fun c p => ?_) _ _
  rfl

namespace Kept

variable {α : Type} {key : Queue → α} {c : Chip}

/-! ### Commands of a queue -/

theorem updCmd {q n : Nat} {f : Cmd → Cmd} (hf : ∀ k, k.seq = n → (f k).seq = n) : Kept Machine.lineup c (updCmd c q n f) := by
  refine modQueue (fun x _ => ⟨rfl, ?_⟩)
  have hseqs : (modCmd x n f).cmds.map (fun k => k.seq) = x.cmds.map (fun k => k.seq) := by
    simp only [modCmd, List.map_map]
    refine List.map_congr_left (fun k _ => ?_)
    by_cases hk : k.seq = n
    · simp [hk, hf k hk]
    · simp [hk]
  exact Prod.ext rfl hseqs

theorem demote (c : Chip) (q : Nat) : Kept Machine.lineup c (demote c q) := by
  refine modQueue (fun x _ => ⟨rfl, ?_⟩)
  refine Prod.ext rfl ?_
  simp only [Machine.lineup, List.map_map]
  refine List.map_congr_left (fun k _ => ?_)
  simp only [Function.comp_apply]
  split <;> rfl

theorem cntCmd (c : Chip) (q : Nat) (k : Cmd) (ctx ev cl n : Nat) : Kept Machine.lineup c (cntCmd c q k ctx ev cl n) := by
  unfold Machine.cntCmd
  split
  · exact refl c
  · split
    · exact of_core (syncCore_cntEv _ _ _ _ _ _)
    · exact (of_core (syncCore_cntEv _ _ _ _ _ _)).trans (updCmd (fun _ h => h))

theorem cntCmdFix (c : Chip) (q : Nat) (k : Cmd) (i n : Nat) : Kept Machine.lineup c (cntCmdFix c q k i n) := by
  unfold Machine.cntCmdFix
  split
  · exact of_core (syncCore_cntFix _ _ _)
  · exact updCmd (fun _ h => h)

theorem accrueCyc (c : Chip) (q : Nat) (k : Cmd) (ts : List Nat) (discarded : Bool) :
    Kept Machine.lineup c (accrueCyc c q k ts discarded) := by
  simp only [Machine.accrueCyc]
  split
  · exact refl c
  · split
    · refine of_core ((syncCore_foldl (fun c t => syncCore_foldl (fun c i => syncCore_cntEv _ _ _ _ _ _) _ _) _ _).trans ?_)
      simp
    · exact (foldl (fun c t => foldl (fun c i => cntCmd _ _ _ _ _ _ _) _ _) _ _).trans (of_core (syncCore_addUtil _ _ _))

theorem accrueBusy (c : Chip) (q : Nat) (k : Cmd) (bytes : Nat) : Kept Machine.lineup c (accrueBusy c q k bytes) := by
  simp only [Machine.accrueBusy]
  split
  · exact of_core (syncCore_addUtil _ _ _)
  · split
    all_goals
      refine Kept.trans (of_core ?_) (cntCmd _ _ _ _ _ _ _)
      split <;> simp

/-! ### Leaving the sequence -/

theorem unregister (c : Chip) (q n h : Nat) : Kept standing c (unregister c q n h) := by
  unfold Machine.unregister
  split
  · exact refl c
  · split
    · exact Kept.trans (waiters _ _ _) (dropRef _ _)
    · exact refl c

theorem forgetCmd (c : Chip) (q : Nat) (k : Cmd) : Kept Queue.tail c (forgetCmd c q k) := by
  simp only [Machine.forgetCmd]
  refine Kept.trans ?_ (Kept.ends (dropRefs _ _))
  refine Kept.trans (d := Machine.modQueue c q _) ?_ (of_core rfl)
  exact modQueue (fun _ _ => ⟨rfl, rfl⟩)

theorem abandon (c : Chip) (q : Nat) (k : Cmd) : Kept Machine.lineup c (abandon c q k) := by
  have waiter : Kept Machine.lineup c (if k.phase == .waiting then Machine.unregister c q k.seq (hIndex (fieldHandle k.bits 95)) else c) := by
    split
    · exact (unregister _ _ _ _).lineup
    · exact refl c
  simp only [Machine.abandon]
  refine Kept.trans ?_ (of_core (syncCore_spoil _ _))
  generalize (if k.phase == .waiting then Machine.unregister c q k.seq (hIndex (fieldHandle k.bits 95)) else c) = d at waiter ⊢
  refine waiter.trans ?_
  split
  · exact of_core rfl
  · refine Kept.trans ?_ (accrueCyc _ _ _ _ _)
    split
    · exact refl _
    · exact accrueBusy _ _ _ _

theorem discardCmd (c : Chip) (q : Nat) (k : Cmd) : Kept Queue.tail c (discardCmd c q k) := (abandon c q k).tail.trans (forgetCmd _ _ _)

theorem rewindCmd (c : Chip) (q : Nat) (k : Cmd) : Kept Machine.lineup c (rewindCmd c q k) := by
  refine Kept.trans (d := { Machine.abandon c q k with logFree := _ }) ?_ (updCmd (fun _ _ => rfl))
  exact (abandon c q k).trans (of_core rfl)

theorem discardFrom (c : Chip) (q b : Nat) : Kept Queue.tail c (discardFrom c q b) := by
  unfold Machine.discardFrom
  split
  · exact refl c
  · have one (c : Chip) (k : Cmd) : Kept Queue.tail c
        (if k.list.isSome then Machine.discardCmd c q k else if k.started then Machine.rewindCmd c q k else c) := by
      split
      · exact discardCmd _ _ _
      · split
        · exact (rewindCmd _ _ _).tail
        · exact refl c
    refine Kept.trans ?_ (of_core (syncCore_cntFix _ _ _))
    refine Kept.trans ?_ (modQueue (g := fun x => renumberQueue x b) (fun _ _ => ⟨rfl, rfl⟩))
    refine Kept.trans ?_ (foldl one _ _)
    exact modQueue (fun _ _ => ⟨rfl, rfl⟩)

theorem discardWindows (c : Chip) (q : Nat) : Kept Queue.tail c (discardWindows c q) := by
  unfold Machine.discardWindows
  split
  · exact refl c
  · split
    · exact refl c
    · rename_i s _ _
      have shut : Kept Queue.tail c (Machine.discardFrom c q s.branch) := discardFrom _ _ _
      simp only
      split
      · exact shut
      · refine Kept.trans shut ?_
        exact modQueue (fun _ _ => ⟨rfl, rfl⟩)

theorem stopList (c : Chip) (q s : Nat) : Kept Queue.tail c (stopList c q s) := by
  unfold Machine.stopList
  split
  · exact refl c
  · refine Kept.trans ?_ (foldl (fun c k => forgetCmd c q k) _ _)
    exact modQueue (fun _ _ => ⟨rfl, rfl⟩)

theorem enterError (c : Chip) (q code origin : Nat) : Kept Queue.tail c (enterError c q code origin) := by
  unfold Machine.enterError
  split
  · exact refl c
  · split
    · exact refl c
    · refine Kept.trans (Kept.trans ?_ (discardWindows _ _)) (Kept.tail (demote _ _))
      exact modQueue (fun _ _ => ⟨rfl, rfl⟩)

theorem takeFailure (c : Chip) (q : Nat) (k : Cmd) : Kept Queue.tail c (takeFailure c q k) := by
  unfold Machine.takeFailure
  simp only
  split
  · exact (enterError _ _ _ _).trans (stopList _ _ _)
  · exact enterError _ _ _ _

/-! ### Completion -/

/-- A completion without failure moves its command only. -/
theorem complete_ok (c : Chip) (e : Env) (q : Nat) (k : Cmd) {st : Nat} (hst : isFailure st = false) (det : Nat) (f : Option FaultInfo) :
    Kept Machine.lineup c (complete c e q k st det f) := by
  simp only [complete, hst, Bool.not_false, if_true]
  exact updCmd (fun _ _ => rfl)

theorem complete (c : Chip) (e : Env) (q : Nat) (k : Cmd) (st det : Nat) (f : Option FaultInfo) :
    Kept Queue.tail c (complete c e q k st det f) := by
  unfold Machine.complete
  simp only
  split
  · exact Kept.tail (updCmd (fun _ _ => rfl))
  · split
    · refine Kept.trans ?_ (takeFailure _ _ _)
      exact Kept.tail (updCmd (fun _ _ => rfl))
    · refine Kept.trans ?_ (Kept.tail (demote _ _))
      exact Kept.tail (updCmd (fun _ _ => rfl))

/-- A wait that ends without failure. -/
theorem endWait_ok (c : Chip) (e : Env) (q : Nat) (k : Cmd) {st : Nat} (hst : isFailure st = false) (ending : Nat) (sig : Option Breaker)
    (f : Option FaultInfo) : Kept Machine.lineup c (endWait c e q k st ending sig f) := by
  unfold endWait
  split
  · exact refl c
  · refine ite ?_ (Kept.trans ?_ (of_core (syncCore_postTrace _ _)))
    all_goals
      refine Kept.trans ?_ (complete_ok _ _ _ _ hst _ _)
      refine Kept.trans ?_ (cntCmd _ _ _ _ _ _ _)
      exact Kept.lineup (unregister _ _ _ _)

theorem endWait (c : Chip) (e : Env) (q : Nat) (k : Cmd) (st ending : Nat) (sig : Option Breaker) (f : Option FaultInfo) :
    Kept Queue.tail c (endWait c e q k st ending sig f) := by
  unfold Machine.endWait
  split
  · exact refl c
  · refine ite ?_ (Kept.trans ?_ (of_core (syncCore_postTrace _ _)))
    all_goals
      refine Kept.trans ?_ (complete _ _ _ _ _ _ _)
      refine Kept.trans ?_ (Kept.tail (cntCmd _ _ _ _ _ _ _))
      exact Kept.ends (unregister _ _ _ _)

theorem fireEvent (c : Chip) (i : Nat) (st : EventState) (sig : Option Breaker) : Kept standing c (fireEvent c i st sig) := by
  unfold Machine.fireEvent
  split
  · exact refl c
  · simp only
    refine Kept.trans ?_ (of_core (syncCore_postTrace _ _))
    refine Kept.trans ?_ (of_core (syncCore_raiseSource _ _))
    split
    · refine Kept.trans ?_ (dropRef _ _)
      exact Kept.trans (of_core (syncCore_modEvent _ _ _)) (waiters _ _ _)
    · exact Kept.trans (of_core (syncCore_modEvent _ _ _)) (waiters _ _ _)

/-! ### Hitches -/

/-- The release of a waiter by a signal. -/
theorem releaseWaiter_signal (c : Chip) (e : Env) (sig : Breaker) (w : Waiter) : Kept Machine.lineup c (releaseWaiter c e false sig w) := by
  unfold releaseWaiter
  split
  · split
    · exact endWait_ok _ _ _ _ (by decide) _ _ _
    · exact refl c
  · exact (fireEvent _ _ _ _).lineup

theorem releaseWaiter (c : Chip) (e : Env) (broken : Bool) (sig : Breaker) (w : Waiter) :
    Kept Queue.tail c (releaseWaiter c e broken sig w) := by
  unfold Machine.releaseWaiter
  split
  · split
    · exact endWait _ _ _ _ _ _ _ _
    · exact refl c
  · exact (fireEvent _ _ _ _).lineup.tail

theorem breakHitch (c : Chip) (e : Env) (h code origin : Nat) (sig : Breaker) (opcode : Nat) :
    Kept Queue.tail c (breakHitch c e h code origin sig opcode) := by
  unfold Machine.breakHitch
  split
  case h_1 => exact refl c
  case h_2 x hx =>
    split
    case isTrue => exact refl c
    case isFalse hb =>
      have hwhole : x.broken = 0 := by simpa using hb
      refine Kept.trans (Kept.trans ?_ (foldl (fun c w => releaseWaiter c e true sig w) _ _)) (of_core (syncCore_postError _ _))
      refine modHitch (fun y hy => ⟨rfl, rfl, fun hbroken => ?_⟩)
      rw [hx] at hy
      cases hy
      exact absurd hwhole hbroken

theorem breakBy (c : Chip) (e : Env) (q p : Nat) (accepted : Bool) : Kept Queue.tail c (breakBy c e q p accepted) := by
  unfold Machine.breakBy
  split
  · exact refl c
  · simp only
    split
    · exact breakHitch _ _ _ _ _ _ _
    · exact refl c

/-! ### Scans and the flush of a ring -/

theorem scanBody (e : Env) (q : Nat) (le : LegalEnv) (mem half off np body n : Nat) (c : Chip) (pos : Nat) :
    Kept Queue.tail c (scanBody c e q le mem half off np body n pos) := by
  induction n generalizing c pos with
  | zero => exact refl c
  | succ n ih =>
    unfold Machine.scanBody
    split
    · exact refl c
    · split
      · simp only
        refine Kept.ite (refl c) (Kept.trans ?_ (ih _ _))
        exact Kept.ite (breakBy _ _ _ _ _) (refl c)
      · exact refl c

theorem scanUnstarted (c : Chip) (e : Env) (q : Nat) (k : Cmd) : Kept Queue.tail c (scanUnstarted c e q k) := by
  unfold Machine.scanUnstarted
  split
  · exact refl c
  · split
    · exact refl c
    · split
      · exact refl c
      · exact scanBody _ _ _ _ _ _ _ _ _ _ _

theorem joinQueue_ends (x : Queue) (k : Cmd) : (joinQueue x k).refs.host = x.refs.host ∧ (joinQueue x k).tail = x.tail := by
  unfold joinQueue
  split <;> exact ⟨rfl, rfl⟩

theorem flushPackets (e : Env) (q n : Nat) (c : Chip) : Kept Queue.tail c (flushPackets c e q n) := by
  induction n generalizing c with
  | zero => exact refl c
  | succ n ih =>
    unfold Machine.flushPackets
    split
    · exact refl c
    · simp only
      split
      · exact refl c
      · refine Kept.trans ?_ (ih _)
        refine Kept.ite (Kept.trans ?_ (scanUnstarted _ _ _ _)) ?_
        all_goals
          refine Kept.ite (Kept.trans ?_ (breakBy _ _ _ _ _)) ?_
          all_goals
            refine Kept.trans ?_ (Kept.ends (takeRef _ _))
            exact modQueue (fun y _ => joinQueue_ends { y with head := y.head + BitVec.ofNat 32 (lenOf (sqCell c _ _).toNat) } (flushed c _ _))

end Kept

end Sys2Proof.Machine
end

section
/-! PROOFS. How a packet starts (06 R190) and how its command then completes (05 R155): a start touches the counters, the rotation and the
lists of its own queue, and what it says of its command stands in the queue afterwards. -/

namespace Sys2Proof.Machine

/-! ### The command at the start position -/

/-- What `readyOf` has found about a command that goes. -/
theorem readyOf_go {c : Chip} {e : Env} {q : Nat} {ok : Nat → Bool} {x : Queue} {k : Cmd} (h : readyOf c e q ok = .go x k) :
    tget c.queues q = some x ∧ x.front = some k := by
  unfold readyOf at h
  split at h
  case h_1 => cases h
  case h_2 y hy =>
    split at h
    case h_2 => cases h
    case h_1 j _ hj _ =>
      repeat (split at h; · cases h)
      cases h
      exact ⟨hy, hj⟩

theorem startOf_go {c : Chip} {e : Env} {q : Nat} {ok : Nat → Bool} {x : Queue} {k : Cmd} (h : startOf c e q ok = .go x k) :
    readyOf c e q ok = .go x k := by
  unfold startOf at h
  split at h
  case h_1 hr =>
    split at h
    · cases h
    · cases h; exact hr
  case h_2 =>
    split at h <;> cases h
  case h_3 => exact h

section
variable {s : State} {q : Nat} {ok : Nat → Bool} {x : Queue} {k : Cmd}

theorem startsAs_queue (h : startsAs s q ok x k) : tget s.chip.queues q = some x := (readyOf_go (startOf_go h.1)).1

theorem startsAs_mem (h : startsAs s q ok x k) : k ∈ x.cmds := List.mem_of_find?_eq_some (readyOf_go (startOf_go h.1)).2

theorem startsAs_seq (h : startsAs s q ok x k) : ∃ j ∈ x.cmds, j.seq = k.seq := ⟨k, startsAs_mem h, rfl⟩

theorem startsAs_letRun (h : startsAs s q ok x k) : letRun x k := h.2

/-- A packet row whose packet may start is its effect on the chip part. -/
theorem next_startsAs (h : startsAs s q ok x k) (f : Chip → Env → Queue → Cmd → Chip) :
    (.next (onChip s (fun c e => atStart c e q ok (f c e))) : Host.Outcome State Fault Refusal)
      = .next (arbitrated s (f s.chip (envOf s) x k)) := by
  simp only [onChip, arbitrated, atStart_startsAs h]

end

/-! ### What the commands of a number are -/

/-- The queue has a command numbered n, and every one satisfies P. -/
def CmdsSat (x : Queue) (n : Nat) (P : Cmd → Prop) : Prop := (∃ k ∈ x.cmds, k.seq = n) ∧ ∀ k ∈ x.cmds, k.seq = n → P k

theorem cmdSat_of_cmdsSat {c : Chip} {q n : Nat} {x : Queue} {P : Cmd → Prop} (hq : tget c.queues q = some x) (h : CmdsSat x n P) :
    cmdSat c q n P := by
  obtain ⟨⟨j, hj, hjn⟩, hP⟩ := h
  have hsome : (x.cmds.find? (fun k => k.seq == n)).isSome = true := List.find?_isSome.2 ⟨j, hj, by simp [hjn]⟩
  obtain ⟨k, hk⟩ := Option.isSome_iff_exists.1 hsome
  have hseq : k.seq = n := by simpa using List.find?_some hk
  exact ⟨k, by simp [cmdOf, hq, hk], hP k (List.mem_of_find?_eq_some hk) hseq⟩

/-- A command is put in the place of those of its number. -/
theorem cmdsSat_modCmd {x : Queue} {n : Nat} {k' : Cmd} {P : Cmd → Prop} (hx : ∃ k ∈ x.cmds, k.seq = n) (hn : k'.seq = n) (hP : P k') :
    CmdsSat (modCmd x n (fun _ => k')) n P := by
  obtain ⟨k, hk, hkn⟩ := hx
  refine ⟨⟨k', List.mem_map.2 ⟨k, hk, by simp [hkn]⟩, hn⟩, fun j hj hjn => ?_⟩
  obtain ⟨i, -, rfl⟩ := List.mem_map.1 hj
  by_cases hi : i.seq = n
  · simpa [hi] using hP
  · exact absurd (by simp [hi] at hjn) hi

/-- Commands change in their places. -/
theorem CmdsSat.map {x y : Queue} {n : Nat} {P Q : Cmd → Prop} {f : Cmd → Cmd} (h : CmdsSat x n P) (hy : y.cmds = x.cmds.map f)
    (hseq : ∀ k, (f k).seq = k.seq) (hPQ : ∀ k, P k → Q (f k)) : CmdsSat y n Q := by
  obtain ⟨⟨k, hk, hkn⟩, hP⟩ := h
  rw [CmdsSat, hy]
  refine ⟨⟨f k, List.mem_map_of_mem hk, (hseq k).trans hkn⟩, fun j hj hjn => ?_⟩
  obtain ⟨i, hi, rfl⟩ := List.mem_map.1 hj
  exact hPQ i (hP i hi ((hseq i).symm.trans hjn))

/-- Commands of another number leave. -/
theorem CmdsSat.filter {x y : Queue} {n m : Nat} {P : Cmd → Prop} (h : CmdsSat x n P) (hm : m ≠ n)
    (hy : y.cmds = x.cmds.filter (fun j => j.seq != m)) : CmdsSat y n P := by
  obtain ⟨⟨k, hk, hkn⟩, hP⟩ := h
  rw [CmdsSat, hy]
  exact ⟨⟨k, List.mem_filter.2 ⟨hk, by simp [hkn, hm.symm]⟩, hkn⟩, fun j hj => hP j (List.mem_filter.1 hj).1⟩

theorem CmdsSat.congr {x y : Queue} {n : Nat} {P : Cmd → Prop} (h : CmdsSat x n P) (hy : y.cmds = x.cmds) : CmdsSat y n P := by
  rwa [CmdsSat, hy]

/-! ### Work of a queue on itself -/

/-- From c to d only counters, rotation, and the commands and lists of queue q change; q is x before and y after. -/
structure QueueWork (c d : Chip) (q : Nat) (x y : Queue) : Prop where
  frame : ∃ r n qs, d = { c with rotation := r, counters := n, queues := qs }
  queue : tget d.queues q = some y
  others : ∀ i, i ≠ q → tget d.queues i = tget c.queues i
  same : y = { x with cmds := y.cmds, lists := y.lists }

namespace QueueWork

variable {c d f : Chip} {q : Nat} {x y z : Queue}

theorem trans (h : QueueWork c d q x y) (g : QueueWork d f q y z) : QueueWork c f q x z := by
  obtain ⟨r, n, qs, rfl⟩ := h.frame
  obtain ⟨r', n', qs', rfl⟩ := g.frame
  refine ⟨⟨_, _, _, rfl⟩, g.queue, fun i hi => (g.others i hi).trans (h.others i hi), ?_⟩
  rw [g.same, h.same]

theorem sameObjects (h : QueueWork c d q x y) : sameObjects c d := by
  obtain ⟨r, n, qs, rfl⟩ := h.frame
  exact ⟨rfl, rfl, rfl, rfl, rfl, rfl, rfl, rfl, rfl, rfl⟩

theorem bump (hq : tget c.queues q = some x) : QueueWork c (bump c q) q x x := by
  simp only [Machine.bump, hq]
  exact ⟨⟨_, _, _, rfl⟩, hq, fun _ _ => rfl, rfl⟩

theorem cntFix (hq : tget c.queues q = some x) (i n : Nat) : QueueWork c (cntFix c i n) q x x := by
  unfold Machine.cntFix
  split
  · exact ⟨⟨_, _, _, rfl⟩, hq, fun _ _ => rfl, rfl⟩
  · exact ⟨⟨_, _, _, rfl⟩, hq, fun _ _ => rfl, rfl⟩

theorem modQueue (hq : tget c.queues q = some x) {g : Queue → Queue} (hg : g x = { x with cmds := (g x).cmds, lists := (g x).lists }) :
    QueueWork c (modQueue c q g) q x (g x) := by
  refine ⟨?_, by rw [tget_modQueue, if_pos rfl, hq]; rfl, fun i hi => by rw [tget_modQueue, if_neg hi], hg⟩
  simp only [Machine.modQueue, hq]
  exact ⟨_, _, _, rfl⟩

theorem updCmd (hq : tget c.queues q = some x) (n : Nat) (g : Cmd → Cmd) : QueueWork c (updCmd c q n g) q x (modCmd x n g) :=
  modQueue hq rfl

/-- Every handle names what it named, with the same counts. -/
theorem objOf (w : QueueWork c d q x y) (hq : tget c.queues q = some x) (h : Handle) : objOf d h = objOf c h := by
  obtain ⟨⟨r, n, qs, rfl⟩, hy, hothers, hsame⟩ := w
  by_cases h2 : hType h = 2
  · rw [objOf_queue h2, objOf_queue h2]
    by_cases hi : hIndex h = q
    · rw [hi, hy, hq, hsame]
      rfl
    · rw [hothers _ hi]
  · unfold Machine.objOf
    split
    case h_2 ht => exact absurd ht h2
    all_goals rfl

end QueueWork

/-! ### The counters of a start -/

/-- A start that no bisect stops counts, and leaves the commands of its queue (05 R185, 15 R444). -/
theorem countStart_work {c : Chip} {q : Nat} {x : Queue} {k : Cmd} (hq : tget c.queues q = some x) (hrun : letRun x k) :
    ∃ y, QueueWork c (countStart c q k) q x y ∧ y.cmds = x.cmds := by
  have bumped := QueueWork.bump hq
  have listed : ∃ y, QueueWork c (match k.list with | some s => countBisect (bump c q) q k s | none => bump c q) q x y ∧ y.cmds = x.cmds := by
    cases hlist : k.list with
    | none => exact ⟨x, bumped, rfl⟩
    | some s =>
      simp only [countBisect, bumped.queue, Option.bind_some]
      split
      case h_1 => exact ⟨x, bumped, rfl⟩
      case h_2 l hl =>
        split
        case h_1 => exact ⟨x, bumped, rfl⟩
        case h_2 n hb =>
          have hn : ¬ n ≤ 1 := by
            have := hrun l n (by simp [hlist, hl]) hb
            omega
          rw [if_neg hn]
          exact ⟨_, bumped.trans (QueueWork.modQueue bumped.queue rfl), rfl⟩
  obtain ⟨y, hy, hcmds⟩ := listed
  simp only [countStart]
  split
  · exact ⟨y, hy.trans (QueueWork.cntFix hy.queue 3 1), hcmds⟩
  · exact ⟨y, hy, hcmds⟩

/-- A command of k's number takes k's place at its start. -/
theorem startWith_work {c : Chip} {q : Nat} {x : Queue} {k : Cmd} (hq : tget c.queues q = some x) (hk : ∃ j ∈ x.cmds, j.seq = k.seq) {k' : Cmd}
    (hlist : k'.list = k.list) (hrun : letRun x k) {P : Cmd → Prop} (j : Cmd) (hj : j.seq = k.seq) (hP : P j) :
    ∃ y, QueueWork c (updCmd (countStart c q k') q k.seq (fun _ => j)) q x y ∧ CmdsSat y k.seq P := by
  have hrun' : letRun x k' := fun l n hl => hrun l n (by rwa [← hlist])
  obtain ⟨y, hy, hcmds⟩ := countStart_work hq hrun'
  exact ⟨_, hy.trans (QueueWork.updCmd hy.queue _ _), cmdsSat_modCmd (hcmds ▸ hk) hj hP⟩

/-! ### Completion -/

/-- The command as it completes. -/
def completed (c : Chip) (e : Env) (q : Nat) (k : Cmd) (st det : Nat) (f : Option FaultInfo) : Cmd :=
  { k with phase := .completed, status := if st == stOk && k.replays != 0 then stReplayed else st, detail := det,
           fault := f, doneGait := c.gait, late := missed c e q k, specFault := k.spec.isSome && isFailure st }

theorem completedWith_completed (c : Chip) (e : Env) (q : Nat) (k : Cmd) (st det : Nat) (f : Option FaultInfo) :
    completedWith st (completed c e q k st det f) := by
  simp [completedWith, completed]

theorem complete_ok {st : Nat} (hst : isFailure st = false) (c : Chip) (e : Env) (q : Nat) (k : Cmd) (det : Nat) (f : Option FaultInfo) :
    complete c e q k st det f = updCmd c q k.seq (fun _ => completed c e q k st det f) := by
  simp [complete, completed, hst]

theorem complete_failure {st : Nat} (hst : isFailure st = true) (c : Chip) (e : Env) (q : Nat) (k : Cmd) (det : Nat) (f : Option FaultInfo) :
    complete c e q k st det f
      = if k.spec.isNone then
          takeFailure (updCmd c q k.seq (fun _ => completed c e q k st det f)) q (completed c e q k st det f)
        else demote (updCmd c q k.seq (fun _ => completed c e q k st det f)) q := by
  simp [complete, completed, hst]

/-- A command that completes at its start without failure (05 R155). -/
theorem doneStart_ok {c : Chip} {e : Env} {q : Nat} {x : Queue} {k : Cmd} (hq : tget c.queues q = some x) (hk : ∃ j ∈ x.cmds, j.seq = k.seq)
    (hrun : letRun x k) {st : Nat} (hst : isFailure st = false) (x₀ : Queue) (det : Nat) (g : Option FaultInfo) :
    ∃ y, QueueWork c (doneStart c e q x₀ k st det g) q x y ∧ CmdsSat y k.seq (completedWith st) := by
  simp only [doneStart, complete_ok hst]
  exact startWith_work (k' := begun c x₀ k) hq hk rfl hrun (completed _ e q (begun c x₀ k) st det g) rfl (completedWith_completed _ _ _ _ _ _ _)

/-! ### Failure -/

theorem demote_cmds {c : Chip} {q : Nat} {x : Queue} (hq : tget c.queues q = some x) {n st : Nat} (h : CmdsSat x n (completedWith st)) :
    ∃ y, tget (demote c q).queues q = some y ∧ y.refs = x.refs ∧ y.err = x.err ∧ CmdsSat y n (completedWith st) := by
  rw [demote, tget_modQueue, if_pos rfl, hq]
  refine ⟨_, rfl, rfl, rfl, h.map rfl (fun k => ?_) (fun k hk => ?_)⟩
  · split <;> rfl
  · rw [hk.1]
    exact hk

/-- A command of another number leaves a queue that the host holds. -/
theorem forgetCmd_cmds {c : Chip} {q : Nat} {x : Queue} (hq : tget c.queues q = some x) (hhost : x.refs.host ≠ 0) {n : Nat}
    {P : Cmd → Prop} (h : CmdsSat x n P) {j : Cmd} (hj : j.seq ≠ n) :
    ∃ y, tget (forgetCmd c q j).queues q = some y ∧ y.refs.host = x.refs.host ∧ y.err = x.err ∧ CmdsSat y n P := by
  have left : tget ({ modQueue c q (fun x => { x with cmds := x.cmds.filter (fun i => i.seq != j.seq) }) with
      logFree := (modQueue c q (fun x => { x with cmds := x.cmds.filter (fun i => i.seq != j.seq) })).logFree + j.units } : Chip).queues q
        = some { x with cmds := x.cmds.filter (fun i => i.seq != j.seq) } := by
    show tget (modQueue c q _).queues q = _
    rw [tget_modQueue, if_pos rfl, hq]
    rfl
  obtain ⟨y, hy, hyhost, hkey⟩ := (Kept.dropRefs _ j.refs).find left hhost
  have hcmds : y.cmds = x.cmds.filter (fun i => i.seq != j.seq) := congrArg (fun x => x.cmds) hkey
  exact ⟨y, hy, hyhost, congrArg (fun x => x.err) hkey, h.filter hj hcmds⟩

/-- The end of a list leaves the commands that have completed (13 R390). -/
theorem stopList_cmds {c : Chip} {q : Nat} {x : Queue} (hq : tget c.queues q = some x) (hhost : x.refs.host ≠ 0) {n st : Nat}
    (h : CmdsSat x n (completedWith st)) (s : Nat) :
    ∃ y, tget (stopList c q s).queues q = some y ∧ y.err = x.err ∧ CmdsSat y n (completedWith st) := by
  have leave (l : List Cmd) (hl : ∀ j ∈ l, j.seq ≠ n) (d : Chip) (z : Queue) (hd : tget d.queues q = some z) (hz : z.refs.host ≠ 0)
      (hs : CmdsSat z n (completedWith st)) :
      ∃ y, tget (l.foldl (fun c k => forgetCmd c q k) d).queues q = some y ∧ y.err = z.err ∧ CmdsSat y n (completedWith st) := by
    induction l generalizing d z with
    | nil => exact ⟨z, hd, rfl, hs⟩
    | cons j r ih =>
      obtain ⟨w, hw, hwhost, hwerr, hws⟩ := forgetCmd_cmds hd hz hs (hl j (by simp))
      obtain ⟨y, hy, hyerr, hys⟩ := ih (fun i hi => hl i (List.mem_cons_of_mem _ hi)) _ w hw (by rwa [hwhost]) hws
      exact ⟨y, hy, hyerr.trans hwerr, hys⟩
  simp only [stopList, hq]
  refine leave _ (fun j hj hjn => ?_) _ (modList x s (fun l => { l with ended := true, ctl := false })) ?_ hhost h
  · obtain ⟨hmem, hbody⟩ := List.mem_filter.1 hj
    have hstarted : j.started = true := by simp [Cmd.started, (h.2 j hmem hjn).1]
    simp [hstarted] at hbody
  · rw [tget_modQueue, if_pos rfl, hq]
    rfl

/-- A failure outside every window puts its queue into error; the completed command stands (13 R389). -/
theorem takeFailure_cmds {c : Chip} {q : Nat} {x : Queue} {k : Cmd} (hq : tget c.queues q = some x) (hhost : x.refs.host ≠ 0)
    (hsegs : x.segs = []) {n st : Nat} (h : CmdsSat x n (completedWith st)) :
    ∃ y, tget (takeFailure c q k).queues q = some y ∧ y.err.isSome = true ∧ CmdsSat y n (completedWith st) := by
  have inError (code origin : Nat) : ∃ y, tget (enterError c q code origin).queues q = some y ∧ y.refs.host ≠ 0 ∧ y.err.isSome = true
      ∧ CmdsSat y n (completedWith st) := by
    simp only [enterError, hq]
    split
    case isTrue herr => exact ⟨x, hq, hhost, herr, h⟩
    case isFalse =>
      have hset : tget (modQueue c q (fun x => { x with err := some (code, origin) })).queues q = some { x with err := some (code, origin) } := by
        rw [tget_modQueue, if_pos rfl, hq]
        rfl
      have hwin : discardWindows (modQueue c q (fun x => { x with err := some (code, origin) })) q
          = modQueue c q (fun x => { x with err := some (code, origin) }) := by
        simp [discardWindows, hset, hsegs]
      rw [hwin]
      obtain ⟨y, hy, hrefs, herr, hs⟩ := demote_cmds hset (h.congr rfl)
      exact ⟨y, hy, by rwa [hrefs], by rw [herr]; rfl, hs⟩
  obtain ⟨y, hy, hyhost, hyerr, hys⟩ := inError k.status (originOf c (ctxOfQueue c q) k)
  simp only [takeFailure]
  split
  · obtain ⟨z, hz, hzerr, hzs⟩ := stopList_cmds hy hyhost hys _
    exact ⟨z, hz, by rwa [hzerr], hzs⟩
  · exact ⟨y, hy, hyerr, hys⟩

/-- A command that ends at its start leaves the hitches that the host holds. -/
theorem doneStart_hitch {c : Chip} {e : Env} {q : Nat} {x : Queue} {k : Cmd} (hq : tget c.queues q = some x) (hrun : letRun x k)
    (st det : Nat) (g : Option FaultInfo) {i : Nat} {y : Hitch} (hy : tget c.hitches i = some y) (hhost : y.refs.host ≠ 0) :
    ∃ y', tget (doneStart c e q x k st det g).hitches i = some y' ∧ HitchKept y y' := by
  obtain ⟨z, w, -⟩ := countStart_work (k := begun c x k) hq hrun
  obtain ⟨-, -, hsame, -⟩ := w.sameObjects
  exact (Kept.complete _ e q (begun c x k) st det g).hitches i y (by rw [hsame]; exact hy) hhost

/-- A command that fails at its start, in a queue that the host holds: its status stands, and outside a window the queue is in error. -/
theorem doneStart_failure {c : Chip} {e : Env} {q : Nat} {x : Queue} {k : Cmd} (hq : tget c.queues q = some x) (hk : ∃ j ∈ x.cmds, j.seq = k.seq)
    (hrun : letRun x k) (hhost : x.refs.host ≠ 0) {st : Nat} (hst : isFailure st = true) (det : Nat) (g : Option FaultInfo) :
    ∃ y, tget (doneStart c e q x k st det g).queues q = some y ∧ CmdsSat y k.seq (completedWith st)
      ∧ (x.segs = [] → y.err.isSome = true) := by
  obtain ⟨y, hy, hys⟩ := startWith_work (k' := begun c x k) hq hk rfl hrun (P := completedWith st)
    (completed (countStart c q (begun c x k)) e q (begun c x k) st det g) rfl (completedWith_completed _ _ _ _ _ _ _)
  have hyhost : y.refs.host ≠ 0 := by rw [hy.same]; exact hhost
  have hspec : (begun c x k).spec.isNone = x.segs.isEmpty := by
    cases hs : x.segs <;> simp [begun, hs, List.getLast?_cons]
  simp only [doneStart, complete_failure hst]
  split
  case isTrue hnone =>
    have hsegs : y.segs = [] := by
      rw [hspec] at hnone
      rw [hy.same]
      simpa using hnone
    obtain ⟨z, hz, hzerr, hzs⟩ := takeFailure_cmds hy.queue hyhost hsegs hys
    exact ⟨z, hz, hzs, fun _ => hzerr⟩
  case isFalse hsome =>
    obtain ⟨z, hz, -, -, hzs⟩ := demote_cmds hy.queue hys
    refine ⟨z, hz, hzs, fun hsegs => ?_⟩
    rw [hspec, hsegs] at hsome
    exact absurd rfl hsome

end Sys2Proof.Machine
end

section
/-! PROOFS. RETAIN, RELEASE, the debug packets and BEAT_MARK (02 R80, R83, R86, 05 R169, R184, R185). -/

namespace Sys2Proof.Machine

/-! ### Counts set before a start -/

/-- Counts that are set change nothing else of a queue. -/
theorem setRefs_queueAt {c : Chip} {q : Nat} {x : Queue} (hq : tget c.queues q = some x) (h : Handle) (r : Refs) :
    ∃ v, tget (setRefs c h r).queues q = some { x with refs := v } := by
  by_cases h2 : hType h = 2
  · rw [setRefs_queue h2, tget_modQueue]
    split
    case isTrue hi => exact ⟨r, by rw [← hi, hq]; rfl⟩
    case isFalse => exact ⟨x.refs, hq⟩
  · by_cases h5 : hType h = 5
    · exact ⟨x.refs, by simp [setRefs_hitch h5, hq]⟩
    · exact ⟨x.refs, by rw [(setRefs_elsewhere h2 h5 r).2.1, hq]⟩

/-- Any queue, after work of queue q on itself. -/
theorem QueueWork.queueAt {c d : Chip} {q : Nat} {x y : Queue} (w : QueueWork c d q x y) (hq : tget c.queues q = some x) {i : Nat} {v : Queue}
    (hi : tget c.queues i = some v) : ∃ cmds lists, tget d.queues i = some { v with cmds := cmds, lists := lists } := by
  by_cases hiq : i = q
  · subst hiq
    obtain rfl : x = v := by simpa [hq] using hi
    exact ⟨y.cmds, y.lists, w.queue.trans (congrArg some w.same)⟩
  · exact ⟨v.cmds, v.lists, (w.others i hiq).trans hi⟩

/-- A command that sets counts of an object and completes (02 R80). -/
theorem doneStart_setRefs {s : State} {q : Nat} {ok : Nat → Bool} {x : Queue} {k : Cmd} (h : startsAs s q ok x k) {g : Handle} {o : Nat}
    {r : Refs} (ho : objOf s.chip g = some (o, r)) (r' : Refs) (e : Env) :
    ∃ v y, tget (setRefs s.chip g r').queues q = some { x with refs := v }
      ∧ QueueWork (setRefs s.chip g r') (doneStart (setRefs s.chip g r') e q x k stOk 0 none) q { x with refs := v } y
      ∧ CmdsSat y k.seq (completedWith stOk) ∧ objOf (doneStart (setRefs s.chip g r') e q x k stOk 0 none) g = some (o, r') := by
  obtain ⟨v, hv⟩ := setRefs_queueAt (startsAs_queue h) g r'
  have hk : ∃ j ∈ x.cmds, j.seq = k.seq := startsAs_seq h
  have hrun : letRun x k := startsAs_letRun h
  obtain ⟨y, w, hs⟩ := doneStart_ok (x := { x with refs := v }) (e := e) hv hk hrun (st := stOk) rfl x 0 none
  exact ⟨v, y, hv, w, hs, (w.objOf hv g).trans (objOf_setRefs ho r')⟩

/-- A handle that its own check passed names an object with a host reference (02 R58). -/
theorem host_of_named {c : Chip} {t : Nat} {k : Cmd} {tys : List Nat} {g : Handle} {o : Nat} {r : Refs}
    (hn : named c t { k with refs := [] } tys g = true) (ho : objOf c g = some (o, r)) : r.host ≠ 0 := by
  simp [named, handleOk, ho] at hn
  exact hn.2.2

/-! ### RETAIN -/

theorem retainStart_eq {c : Chip} {e : Env} {q : Nat} {x : Queue} {k : Cmd} {o : Nat} {r : Refs}
    (hn : named c x.owner { k with refs := [] } [1, 2, 3, 4, 5, 6] (fieldHandle k.bits 95) = true)
    (ho : objOf c (fieldHandle k.bits 95) = some (o, r)) (hr : r.host ≠ 0xFFFFFFFF) :
    retainStart c e q x k = doneStart (setRefs c (fieldHandle k.bits 95) { r with host := r.host + 1 }) e q x k stOk 0 none := by
  simp [retainStart, hn, ho, hr, okStart]

/-! ### RELEASE -/

theorem releaseStart_eq {c : Chip} {e : Env} {q : Nat} {x : Queue} {k : Cmd} {o : Nat} {r : Refs}
    (hn : named c x.owner { k with refs := [] } [1, 2, 3, 4, 5, 6] (fieldHandle k.bits 95) = true)
    (ho : objOf c (fieldHandle k.bits 95) = some (o, r)) :
    releaseStart c e q x k
      = flushReleased (doneStart (setRefs c (fieldHandle k.bits 95) { r with host := r.host - 1 }) e q x k stOk 0 none) e
          (fieldHandle k.bits 95) := by
  simp [releaseStart, hn, ho]

/-- A flush follows only where no host reference of a queue is left. -/
theorem flushReleased_held {c : Chip} {e : Env} {g : Handle} {o : Nat} {r : Refs} (ho : objOf c g = some (o, r))
    (h : hType g ≠ 2 ∨ r.host ≠ 0) : flushReleased c e g = c := by
  unfold flushReleased
  split
  case isFalse => rfl
  case isTrue ht =>
    have h2 : hType g = 2 := by simpa using ht
    obtain ⟨x, hx, -, -, rfl⟩ := queue_of_objOf h2 ho
    have hhost : x.refs.host ≠ 0 := h.resolve_left (fun hne => hne h2)
    simp [hx, hhost]

theorem flushReleased_last {c : Chip} {e : Env} {g : Handle} {x : Queue} (h2 : hType g = 2) (hx : tget c.queues (hIndex g) = some x)
    (hhost : x.refs.host = 0) : flushReleased c e g = destroyIfFree (flushRing c e (hIndex g)) g := by
  simp [flushReleased, h2, hx, hhost]

/-- An object with device references is not destroyed (02 R84). -/
theorem destroyIfFree_of_dev {c : Chip} {g : Handle} {o : Nat} {r : Refs} (ho : objOf c g = some (o, r)) (hd : r.dev ≠ 0) :
    destroyIfFree c g = c := by
  simp [destroyIfFree, destroyN, ho, hd]

/-- The flush of a ring with nothing committed. -/
theorem flushRing_empty {c : Chip} {e : Env} {q : Nat} {x : Queue} (hx : tget c.queues q = some x) (hempty : x.tail = x.head) :
    flushRing c e q = modQueue c q (fun x => { x with head := x.tail }) := by
  simp [flushRing, hx, hempty, flushPackets]

/-- After a flush the ring has nothing committed, and the host half is what it was (04 R129). -/
theorem flushRing_ends {c : Chip} {e : Env} {q : Nat} {x z : Queue} (hx : tget c.queues q = some x)
    (hz : tget (flushRing c e q).queues q = some z) : z.head = z.tail ∧ z.refs.host = x.refs.host := by
  simp only [flushRing, hx] at hz
  rw [tget_modQueue, if_pos rfl] at hz
  obtain ⟨y, hy, rfl⟩ := Option.map_eq_some_iff.1 hz
  obtain ⟨x', hx', hhost, -⟩ := (Kept.flushPackets e q _ c).queues q y hy
  obtain rfl : x = x' := by simpa [hx] using hx'
  exact ⟨rfl, hhost⟩

/-- A command's record survives the emptying of a ring. -/
theorem cmdSat_flushed {c : Chip} {q n i : Nat} {y : Queue} {P : Cmd → Prop} (hq : tget c.queues q = some y) (h : CmdsSat y n P) :
    cmdSat (modQueue c i (fun x => { x with head := x.tail })) q n P := by
  by_cases hi : q = i
  · subst hi
    exact cmdSat_of_cmdsSat (x := { y with head := y.tail }) (by rw [tget_modQueue, if_pos rfl, hq]; rfl) h
  · exact cmdSat_of_cmdsSat (by rw [tget_modQueue, if_neg hi]; exact hq) h

theorem objOf_flushed {c : Chip} {g : Handle} (h2 : hType g = 2) :
    objOf (modQueue c (hIndex g) (fun x => { x with head := x.tail })) g = objOf c g := by
  rw [objOf_queue h2, objOf_queue h2, tget_modQueue, if_pos rfl]
  cases tget c.queues (hIndex g) <;> rfl

/-- RELEASE takes one from the host half, where the object goes on or its ring has nothing to flush. -/
theorem releaseStart_counts {s : State} {q : Nat} {x : Queue} {k : Cmd} {o : Nat} {r : Refs} (h : startsAs s q (only opRelease) x k)
    (hn : named s.chip x.owner { k with refs := [] } [1, 2, 3, 4, 5, 6] (fieldHandle k.bits 95) = true)
    (ho : objOf s.chip (fieldHandle k.bits 95) = some (o, r))
    (hlast : hType (fieldHandle k.bits 95) ≠ 2 ∨ 2 ≤ r.host
      ∨ (r.dev ≠ 0 ∧ ∃ z, tget s.chip.queues (hIndex (fieldHandle k.bits 95)) = some z ∧ z.tail = z.head)) :
    cmdSat (releaseStart s.chip (envOf s) q x k) q k.seq (completedWith stOk)
      ∧ objOf (releaseStart s.chip (envOf s) q x k) (fieldHandle k.bits 95) = some (o, { r with host := r.host - 1 }) := by
  obtain ⟨v, y, hv, w, hs, hd⟩ := doneStart_setRefs h ho { r with host := r.host - 1 } (envOf s)
  rw [releaseStart_eq hn ho]
  by_cases hgoes : hType (fieldHandle k.bits 95) ≠ 2 ∨ r.host - 1 ≠ 0
  · rw [flushReleased_held hd hgoes]
    exact ⟨cmdSat_of_cmdsSat w.queue hs, hd⟩
  · obtain ⟨h2, hzero⟩ : hType (fieldHandle k.bits 95) = 2 ∧ r.host - 1 = 0 := by simpa using hgoes
    have hhost := host_of_named hn ho
    obtain ⟨hdev, z, hz, hempty⟩ : r.dev ≠ 0 ∧ ∃ z, tget s.chip.queues (hIndex (fieldHandle k.bits 95)) = some z ∧ z.tail = z.head := by
      rcases hlast with hl | hl | hl
      · exact absurd h2 hl
      · omega
      · exact hl
    obtain ⟨v', hv'⟩ := setRefs_queueAt hz (fieldHandle k.bits 95) { r with host := r.host - 1 }
    obtain ⟨cmds, lists, hu⟩ := w.queueAt hv hv'
    obtain ⟨u, hu', -, -, hurefs⟩ := queue_of_objOf h2 hd
    have hzerohost : u.refs.host = 0 := by rw [hurefs]; exact hzero
    rw [flushReleased_last h2 hu' hzerohost, flushRing_empty hu hempty]
    have hobj := (objOf_flushed h2).trans hd
    rw [destroyIfFree_of_dev hobj hdev]
    exact ⟨cmdSat_flushed w.queue hs, hobj⟩

/-- The last release of a queue leaves nothing committed in its ring, where the queue is still there (02 R86). -/
theorem releaseStart_flushes {s : State} {q : Nat} {x : Queue} {k : Cmd} {o : Nat} {r : Refs} (h : startsAs s q (only opRelease) x k)
    (hn : named s.chip x.owner { k with refs := [] } [1, 2, 3, 4, 5, 6] (fieldHandle k.bits 95) = true)
    (ho : objOf s.chip (fieldHandle k.bits 95) = some (o, r)) (h2 : hType (fieldHandle k.bits 95) = 2) (hone : r.host = 1) {z : Queue}
    (hz : tget (releaseStart s.chip (envOf s) q x k).queues (hIndex (fieldHandle k.bits 95)) = some z) :
    z.head = z.tail ∧ z.refs.host = 0 := by
  obtain ⟨v, y, hv, w, hs, hd⟩ := doneStart_setRefs h ho { r with host := r.host - 1 } (envOf s)
  obtain ⟨u, hu, -, -, hurefs⟩ := queue_of_objOf h2 hd
  have hzerohost : u.refs.host = 0 := by rw [hurefs, hone]
  rw [releaseStart_eq hn ho, flushReleased_last h2 hu hzerohost] at hz
  obtain ⟨t, ht, hthost, hkey⟩ := (Kept.destroyN 4 _ _).queues _ z hz
  obtain ⟨hends, hhost⟩ := flushRing_ends hu ht
  have hhead : z.head = t.head := congrArg (fun x => x.head) hkey
  have htail : z.tail = t.tail := congrArg (fun x => x.tail) hkey
  exact ⟨by rw [hhead, htail, hends], by rw [hthost, hhost, hzerohost]⟩

/-! ### Debug packets -/

/-- What a DEBUG_BREAK_ON arms, by its MODE (05 R184). -/
def armedBreak (q : Nat) (k : Cmd) : Option Breakpoint :=
  if bits k.bits 65 64 == 1 then some (.count (bits k.bits 191 128) 0 q k.seq)
  else if bits k.bits 65 64 == 2 then some (.tag (BitVec.ofNat 16 (bits k.bits 95 80))) else none

/-- A queue whose lists have given up their bisect (05 R185). -/
def unbisected (x : Queue) : Queue := { x with lists := x.lists.map (fun l => { l with bisect := none }) }

/-- Such lists let every command run. -/
theorem letRun_unbisected (x : Queue) (k : Cmd) : letRun (unbisected x) k := by
  intro l n hl hn
  obtain ⟨s, -, hl⟩ := Option.bind_eq_some_iff.1 hl
  obtain ⟨m, -, rfl⟩ := List.mem_map.1 (List.mem_of_find?_eq_some hl)
  cases hn

/-- A command that changes its context and completes. -/
theorem doneStart_modContext {c : Chip} {e : Env} {q n : Nat} {x x₀ : Queue} {k : Cmd} {y : Context} (hq : tget c.queues q = some x)
    (hk : ∃ j ∈ x.cmds, j.seq = k.seq) (hrun : letRun x k) (hy : tget c.contexts n = some y) (f : Context → Context) :
    cmdSat (doneStart (modContext c n f) e q x₀ k stOk 0 none) q k.seq (completedWith stOk)
      ∧ tget (doneStart (modContext c n f) e q x₀ k stOk 0 none).contexts n = some (f y) := by
  have hq' : tget (modContext c n f).queues q = some x := by simpa using hq
  obtain ⟨z, w, hs⟩ := doneStart_ok (e := e) hq' hk hrun (st := stOk) rfl x₀ 0 none
  refine ⟨cmdSat_of_cmdsSat w.queue hs, ?_⟩
  rw [w.sameObjects.1, tget_modContext, if_pos rfl, hy]
  rfl

theorem breakOnStart_arms {s : State} {q : Nat} {x : Queue} {k : Cmd} {y : Context} (h : startsAs s q (only opBreakOn) x k)
    (hy : tget s.chip.contexts x.ctx = some y) :
    cmdSat (breakOnStart s.chip (envOf s) q x k) q k.seq (completedWith stOk)
      ∧ tget (breakOnStart s.chip (envOf s) q x k).contexts x.ctx = some { y with brk := armedBreak q k } :=
  doneStart_modContext (startsAs_queue h) (startsAs_seq h) (startsAs_letRun h) hy (fun y => { y with brk := armedBreak q k })

theorem bisectStart_arms {s : State} {q : Nat} {x : Queue} {k : Cmd} {y : Context} (h : startsAs s q (only opBisect) x k)
    (hy : tget s.chip.contexts x.ctx = some y) :
    cmdSat (bisectStart s.chip (envOf s) q x k) q k.seq (completedWith stOk)
      ∧ tget (bisectStart s.chip (envOf s) q x k).contexts x.ctx
          = some { y with bisect := if bit k.bits 96 then none else some (bits k.bits 95 64) } := by
  have hq : tget (s.chip.queues.map (fun p => (p.1, if p.2.ctx == x.ctx then unbisected p.2 else p.2))) q = some (unbisected x) := by
    rw [tget_map s.chip.queues (fun p => if p.ctx == x.ctx then unbisected p else p), startsAs_queue h]
    simp
  exact doneStart_modContext (c := { s.chip with queues := _ }) hq (startsAs_seq h : ∃ j ∈ x.cmds, j.seq = k.seq) (letRun_unbisected x k) hy _

/-! ### BEAT_MARK -/

theorem beatMarkStart_holds {s : State} {q : Nat} {x : Queue} {k : Cmd} (h : startsAs s q (only opBeatMark) x k) :
    cmdSat (beatMarkStart s.chip q x k) q k.seq (fun j => j.phase = .beat (bits k.bits 71 64))
      ∧ sameObjects s.chip (beatMarkStart s.chip q x k) := by
  obtain ⟨y, w, hs⟩ := startWith_work (k' := { begun s.chip x k with phase := .beat (bits k.bits 71 64) }) (startsAs_queue h) (startsAs_seq h)
    rfl (startsAs_letRun h) (P := fun j => j.phase = .beat (bits k.bits 71 64)) { begun s.chip x k with phase := .beat (bits k.bits 71 64) } rfl rfl
  exact ⟨cmdSat_of_cmdsSat w.queue hs, w.sameObjects⟩

/-- Settles O52: each row's start is its own effect followed by a start that completes or holds; the last release of a queue is followed by
the flush of its ring, which no packet that it cancels can undo. -/
theorem countsMarksAndBreakpoints : Obligations.CountsMarksAndBreakpoints := by
  refine ⟨fun s q o x k r h hn ho hr => ?retain, fun s q o x k r h hn ho => ?release, fun s q x k y hy => ?debug, fun s q x k h => ?beat⟩
  case retain =>
    obtain ⟨v, y, -, w, hs, hobj⟩ := doneStart_setRefs h ho { r with host := r.host + 1 } (envOf s)
    refine ⟨_, next_startsAs h (fun c e => retainStart c e q), ?_⟩
    rw [retainStart_eq hn ho hr]
    exact ⟨cmdSat_of_cmdsSat w.queue hs, hobj⟩
  case release =>
    have hexec := next_startsAs h (fun c e => releaseStart c e q)
    exact ⟨fun hlast => ⟨_, hexec, releaseStart_counts h hn ho hlast⟩,
      fun h2 hone => ⟨_, hexec, fun z hz => releaseStart_flushes h hn ho h2 hone hz⟩⟩
  case debug =>
    refine ⟨fun h => ?breakOn, fun h => ?bisect⟩
    case breakOn =>
      obtain ⟨hs, hctx⟩ := breakOnStart_arms h hy
      refine ⟨_, _, next_startsAs h (fun c e => breakOnStart c e q), hs, hctx, ?_, ?_, ?_⟩
      all_goals
        intro hmode
        simp [armedBreak, hmode]
    case bisect =>
      exact ⟨_, next_startsAs h (fun c e => bisectStart c e q), bisectStart_arms h hy⟩
  case beat =>
    exact ⟨_, next_startsAs h (fun c _ => beatMarkStart c q), beatMarkStart_holds h⟩

end Sys2Proof.Machine
end

section
/-! PROOFS. SIGNAL_HITCH (02 R69, R73 to R75): the hitch takes its value before any waiter goes, and no waiter that goes changes it. -/

namespace Sys2Proof.Machine

/-! ### The value of a signal -/

/-- The value of a hitch after a signal of `target` (02 R69). -/
def signalled (y : Hitch) (target : W64) : W64 := if y.value.toNat < target.toNat then target else y.value

theorem signalled_toNat (y : Hitch) (target : W64) : (signalled y target).toNat = max y.value.toNat target.toNat := by
  unfold signalled
  split <;> omega

/-- The waiters that a signal releases, in their order (02 R71). -/
def releasedBy (y : Hitch) (target : W64) : List Waiter := releaseOrder (y.waiters.filter (fun w => w.goal ≤ (signalled y target).toNat))

theorem signalHitch_eq {c : Chip} {h : Nat} {y : Hitch} (hy : tget c.hitches h = some y) (e : Env) (target : W64) (sig : Breaker) :
    signalHitch c e h target sig
      = (releasedBy y target).foldl (fun c w => releaseWaiter c e false sig w) (modHitch c h (fun x => { x with value := signalled y target })) := by
  simp only [signalHitch, hy]
  rfl

/-- A signal that reaches no waiter's goal releases nobody. -/
theorem releasedBy_eq_nil {y : Hitch} {target : W64} (h : ∀ w ∈ y.waiters, max y.value.toNat target.toNat < w.goal) :
    releasedBy y target = [] := by
  have hnone : y.waiters.filter (fun w => w.goal ≤ (signalled y target).toNat) = [] := by
    rw [List.filter_eq_nil_iff]
    intro w hw
    have := h w hw
    rw [signalled_toNat]
    simpa using this
  rw [releasedBy, hnone]
  rfl

/-- After a signal: queue q in its line-up, and the hitch with its new value. -/
theorem signalHitch_keeps {c : Chip} {e : Env} {q h : Nat} {x : Queue} {y : Hitch} (hq : tget c.queues q = some x) (hx : x.refs.host ≠ 0)
    (hy : tget c.hitches h = some y) (hyhost : y.refs.host ≠ 0) (target : W64) (sig : Breaker) :
    (∃ z, tget (signalHitch c e h target sig).queues q = some z ∧ lineup z = lineup x)
      ∧ ∃ y', tget (signalHitch c e h target sig).hitches h = some y' ∧ y'.value = signalled y target := by
  have raised : tget (modHitch c h (fun x => { x with value := signalled y target })).hitches h = some { y with value := signalled y target } := by
    rw [tget_modHitch, if_pos rfl, hy]
    rfl
  have kept : Kept lineup (modHitch c h (fun x => { x with value := signalled y target })) (signalHitch c e h target sig) := by
    rw [signalHitch_eq hy]
    exact Kept.foldl (fun c w => Kept.releaseWaiter_signal c e sig w) _ _
  obtain ⟨z, hz, -, hline⟩ := kept.find (by simpa using hq) hx
  obtain ⟨y', hy', hvalue, -⟩ := kept.hitches h _ raised hyhost
  exact ⟨⟨z, hz, hline⟩, y', hy', hvalue⟩

theorem letRun_of_lineup {x z : Queue} {k : Cmd} (h : lineup z = lineup x) (hrun : letRun x k) : letRun z k := by
  have hlists : z.lists = x.lists := congrArg (fun p => p.1.lists) h
  intro l n hl hn
  refine hrun l n ?_ hn
  rw [← hl]
  unfold listOf
  rw [hlists]

theorem seq_of_lineup {x z : Queue} {n : Nat} (h : lineup z = lineup x) (hn : ∃ k ∈ x.cmds, k.seq = n) : ∃ k ∈ z.cmds, k.seq = n := by
  have hseqs : z.cmds.map (fun k => k.seq) = x.cmds.map (fun k => k.seq) := congrArg Prod.snd h
  have hmem : n ∈ z.cmds.map (fun k => k.seq) := hseqs ▸ List.mem_map.2 hn
  exact List.mem_map.1 hmem

/-! ### The row -/

theorem signalStart_whole {c : Chip} {e : Env} {q : Nat} {x : Queue} {k : Cmd} {y : Hitch}
    (hy : tget c.hitches (hIndex (fieldHandle k.bits 95)) = some y) (hb : y.broken = 0) :
    signalStart c e q x k
      = doneStart (signalHitch c e (hIndex (fieldHandle k.bits 95)) (targetOf k) (sigOf x k c.gait)) e q x k stOk 0 none := by
  simp [signalStart, hy, hb]

theorem signalStart_broken {c : Chip} {e : Env} {q : Nat} {x : Queue} {k : Cmd} {y : Hitch}
    (hy : tget c.hitches (hIndex (fieldHandle k.bits 95)) = some y) (hb : y.broken ≠ 0) :
    signalStart c e q x k = doneStart c e q x k stBroken 0 none := by
  simp only [signalStart, hy, bne_iff_ne.2 hb, if_true]

/-- SIGNAL_HITCH on a whole hitch completes, and the hitch has the greater value. -/
theorem signalStart_raises {s : State} {q : Nat} {x : Queue} {k : Cmd} {y : Hitch} (h : startsAs s q (only opSignal) x k)
    (hx : x.refs.host ≠ 0) (hy : tget s.chip.hitches (hIndex (fieldHandle k.bits 95)) = some y) (hyhost : y.refs.host ≠ 0)
    (hb : y.broken = 0) :
    cmdSat (signalStart s.chip (envOf s) q x k) q k.seq (completedWith stOk)
      ∧ sameObjects (signalHitch s.chip (envOf s) (hIndex (fieldHandle k.bits 95)) (targetOf k) (sigOf x k s.chip.gait))
          (signalStart s.chip (envOf s) q x k)
      ∧ ∃ y', tget (signalStart s.chip (envOf s) q x k).hitches (hIndex (fieldHandle k.bits 95)) = some y'
          ∧ y'.value = signalled y (targetOf k) := by
  obtain ⟨⟨z, hz, hline⟩, y', hy', hvalue⟩ := signalHitch_keeps (e := envOf s) (startsAs_queue h) hx hy hyhost (targetOf k)
    (sigOf x k s.chip.gait)
  rw [signalStart_whole hy hb]
  obtain ⟨u, w, hs⟩ := doneStart_ok (e := envOf s) hz (seq_of_lineup hline (startsAs_seq h)) (letRun_of_lineup hline (startsAs_letRun h))
    (st := stOk) rfl x 0 none
  obtain ⟨-, -, hhitches, -⟩ := w.sameObjects
  exact ⟨cmdSat_of_cmdsSat w.queue hs, w.sameObjects, y', by rw [hhitches]; exact hy', hvalue⟩

/-- Settles O49: the value is set before the waiters go, and their release keeps the value of a hitch that the host holds and the line-up
of the queue; a broken hitch fails the command alone. -/
theorem signalRaisesItsHitch : Obligations.SignalRaisesItsHitch := by
  intro s q x k y h hq hy hx hyhost
  have hexec := next_startsAs h (fun c e => signalStart c e q)
  refine ⟨fun hb => ?whole, fun hb => ?broken⟩
  case whole =>
    obtain ⟨hs, hsame, y', hy', hvalue⟩ := signalStart_raises h hx hy hyhost hb
    refine ⟨_, y', hexec, hs, hy', by rw [hvalue, signalled_toNat], fun hnobody => ?_⟩
    have hsignal := signalHitch_eq hy (envOf s) (targetOf k) (sigOf x k s.chip.gait)
    rw [releasedBy_eq_nil hnobody, List.foldl_nil] at hsignal
    rw [hsignal] at hsame
    obtain ⟨-, -, hhitches, -, hmemory, -⟩ := hsame
    refine ⟨?_, fun i hi => ?_, by rw [hmemory]; simp⟩
    · rw [hhitches, tget_modHitch, if_pos rfl, hy] at hy'
      have hword : signalled y (targetOf k) = BitVec.ofNat 64 (max y.value.toNat (targetOf k).toNat) := by
        rw [← signalled_toNat, BitVec.ofNat_toNat, BitVec.setWidth_eq]
      rw [← hword]
      exact (Option.some.inj hy').symm
    · rw [hhitches, tget_modHitch, if_neg hi]
  case broken =>
    obtain ⟨j, hj, hs, herr⟩ := doneStart_failure (e := envOf s) hq (startsAs_seq h) (startsAs_letRun h) hx (st := stBroken) rfl 0 none
    obtain ⟨y', hy', hvalue, -, hbroken⟩ := doneStart_hitch (e := envOf s) hq (startsAs_letRun h) stBroken 0 none hy hyhost
    simp only [← signalStart_broken hy hb] at hj hy'
    exact ⟨_, y', j, hexec, cmdSat_of_cmdsSat hj hs, hy', hvalue, hbroken hb, hj, herr⟩

end Sys2Proof.Machine
end

section
/-! PROOFS. QUERY (02 R87 to R90): the record goes to the device store byte by byte, and neither the counters nor the completion write it
again. -/

namespace Sys2Proof.Machine

/-! ### A committed write of device memory -/

@[simp] theorem cntEv_memory (c : Chip) (ctx ev cl n : Nat) (m : CntMode) : (cntEv c ctx ev cl n m).memory = c.memory := by
  have counted (l : List (Nat × CounterSel)) (c : Chip) : (l.foldl (fun c p => cntFix c p.1 n) c).memory = c.memory := by
    induction l generalizing c with
    | nil => rfl
    | cons p r ih => rw [List.foldl_cons, ih, memory_cntFix]
  unfold cntEv
  split
  · rfl
  · exact counted _ _

/-- A store in device memory reads back. -/
theorem readByte_storeDev (c : Chip) (a i : Nat) (bs : List Byte) (hi : i < bs.length) :
    readByte (storeDev c a bs).memory.hbm (a + i) = bs.getD i 0 := by
  have hfull : bs.isEmpty = false := by cases bs <;> simp_all
  rw [storeDev, memory_cntHbm, storeQuiet, hfull]
  simp only [Bool.false_eq_true, if_false, hbm_clearPoison, readByte_writeBytes]
  rw [if_pos (by omega), Nat.add_sub_cancel_left]

/-- The bytes of a write outside every window count at once, and the count writes nothing. -/
theorem noteWrite_committed {k : Cmd} (hspec : k.spec = none) (c : Chip) (q : Nat) (o : MemObj) (n : Nat) :
    syncCore (noteWrite c q k o n) = syncCore c ∧ (noteWrite c q k o n).memory = c.memory := by
  unfold noteWrite cntCmd
  split
  · exact ⟨rfl, rfl⟩
  · split
    · exact ⟨rfl, rfl⟩
    · simp [hspec]

/-- What a write of a command outside every window leaves, and what it reads back as. -/
theorem attemptWrite_committed {c : Chip} {k : Cmd} {m : Nat} {o : MemObj} (hm : tget c.mems m = some o) (ho : o.kind = .device)
    (hspec : k.spec = none) (q half off : Nat) (bs : List Byte) :
    syncCore (attemptWrite c q k m half off bs).1 = syncCore c
      ∧ (∀ i, i < bs.length → readByte (attemptWrite c q k m half off bs).1.memory.hbm (o.at half off + i) = bs.getD i 0)
      ∧ (attemptWrite c q k m half off bs).2.seq = k.seq ∧ (attemptWrite c q k m half off bs).2.spec = none := by
  unfold attemptWrite
  cases bs with
  | nil => exact ⟨rfl, fun i hi => absurd hi (by simp), rfl, hspec⟩
  | cons b r =>
    have hstore : objStore c m half off (b :: r) = storeDev c (o.at half off) (b :: r) := by simp only [objStore, hm]
    have hnote : noteSpec k o half off (b :: r).length = k := by simp [noteSpec, hspec]
    obtain ⟨hcore, hmemory⟩ := noteWrite_committed hspec (storeDev c (o.at half off) (b :: r)) q o (b :: r).length
    simp only [List.isEmpty_cons, Bool.false_eq_true, if_false, hm, ho, beq_self_eq_true, if_true, hstore, hnote]
    refine ⟨hcore.trans (syncCore_storeDev _ _ _), fun i hi => by rw [hmemory, readByte_storeDev _ _ _ _ hi], ?_⟩
    cases cmdOf (noteWrite (storeDev c (o.at half off) (b :: r)) q k o (b :: r).length) q k.seq with
    | none => exact ⟨rfl, hspec⟩
    | some j => exact ⟨rfl, hspec⟩

/-! ### Stamps of the outputs -/

@[simp] theorem syncCore_stampOutputs (c : Chip) (k : Cmd) : syncCore (stampOutputs c k) = syncCore c :=
  syncCore_foldl syncCore_raiseStamp _ _

@[simp] theorem stampOutputs_memory (c : Chip) (k : Cmd) : (stampOutputs c k).memory = c.memory := by
  have stamped (l : List Nat) (c : Chip) : (l.foldl raiseStamp c).memory = c.memory := by
    induction l generalizing c with
    | nil => rfl
    | cons m r ih => rw [List.foldl_cons, ih, memory_raiseStamp]
  exact stamped _ _

/-! ### The row -/

/-- A device object that a command's handle names. -/
theorem mem_of_memNamed {c : Chip} {t m : Nat} {k : Cmd} {h : Handle} {o : MemObj} (hn : memNamed c t k h = some (m, o)) :
    tget c.mems m = some o := by
  unfold memNamed at hn
  split at hn
  · obtain ⟨o', ho', hpair⟩ := Option.map_eq_some_iff.1 hn
    cases hpair
    exact ho'
  · cases hn

/-- The command of a QUERY that writes half `half` of object m. -/
def querying (c : Chip) (x : Queue) (k : Cmd) (m half : Nat) : Cmd := { begun c x k with outputs := [{ mem := m, half := half }] }

/-- The chip as a QUERY has started, before its record goes out. -/
def queryBegun (c : Chip) (q : Nat) (x : Queue) (k : Cmd) (m half : Nat) : Chip :=
  updCmd (countStart c q (querying c x k m half)) q k.seq (fun _ => querying c x k m half)

/-- The store of a QUERY's record. -/
def queryWrite (c : Chip) (q : Nat) (x : Queue) (k : Cmd) (m : Nat) (o : MemObj) : Chip × Cmd :=
  attemptWrite (queryBegun c q x k m (writeHalf x o)) q (querying c x k m (writeHalf x o)) m (writeHalf x o) (bits k.bits 255 192)
    (queryRecord c (bits k.bits 71 64) (hIndex (fieldHandle k.bits 127)))

theorem queryStart_eq {c : Chip} {e : Env} {q m : Nat} {x : Queue} {k : Cmd} {o : MemObj}
    (hn : memNamed c x.owner k (fieldHandle k.bits 159) = some (m, o)) (ho : o.kind = .device)
    (hw : windowReason c x.owner o (writeHalf x o) (bits k.bits 255 192)
      (queryRecord c (bits k.bits 71 64) (hIndex (fieldHandle k.bits 127))).length = none)
    (hspec : (queryWrite c q x k m o).2.spec = none) :
    queryStart c e q x k
      = complete (stampOutputs (queryWrite c q x k m o).1 { (queryWrite c q x k m o).2 with status := stOk }) e q
          (queryWrite c q x k m o).2 stOk 0 none := by
  have hcommitted : (queryWrite c q x k m o).2.spec.isNone = true := by rw [hspec]; rfl
  simp only [queryStart, hn, ho, bne_self_eq_false, Bool.false_eq_true, if_false, hw]
  exact congrArg (fun d => complete d e q (queryWrite c q x k m o).2 stOk 0 none) (if_pos hcommitted)

/-- A QUERY outside every window, its record stored: the queue waits for the completion, and the record reads back. -/
theorem queryWrite_committed {s : State} {q m : Nat} {x : Queue} {k : Cmd} {o : MemObj} (h : startsAs s q (only opQuery) x k)
    (hout : inWindow x = false) (hm : tget s.chip.mems m = some o) (ho : o.kind = .device) :
    (∃ y, tget (queryWrite s.chip q x k m o).1.queues q = some y ∧ ∃ j ∈ y.cmds, j.seq = k.seq)
      ∧ (∀ i, i < (queryRecord s.chip (bits k.bits 71 64) (hIndex (fieldHandle k.bits 127))).length →
          readByte (queryWrite s.chip q x k m o).1.memory.hbm (o.at (writeHalf x o) (bits k.bits 255 192) + i)
            = (queryRecord s.chip (bits k.bits 71 64) (hIndex (fieldHandle k.bits 127))).getD i 0)
      ∧ (queryWrite s.chip q x k m o).2.seq = k.seq ∧ (queryWrite s.chip q x k m o).2.spec = none := by
  have hsegs : x.segs = [] := by simpa [inWindow] using hout
  have hspec : (querying s.chip x k m (writeHalf x o)).spec = none := by simp [querying, begun, hsegs]
  obtain ⟨y, w, hs⟩ := startWith_work (k' := querying s.chip x k m (writeHalf x o)) (startsAs_queue h) (startsAs_seq h) rfl
    (startsAs_letRun h) (P := fun _ => True) (querying s.chip x k m (writeHalf x o)) rfl trivial
  obtain ⟨-, hmems, -⟩ := w.sameObjects
  have hm' : tget (queryBegun s.chip q x k m (writeHalf x o)).mems m = some o := (congrArg (fun t => tget t m) hmems).trans hm
  obtain ⟨hcore, hread, hseq, hspec'⟩ := attemptWrite_committed hm' ho hspec q (writeHalf x o) (bits k.bits 255 192)
    (queryRecord s.chip (bits k.bits 71 64) (hIndex (fieldHandle k.bits 127)))
  obtain ⟨-, hqueues, -⟩ := syncCore_eq_iff.1 hcore
  exact ⟨⟨y, (congrArg (fun t => tget t q) hqueues).trans w.queue, hs.1⟩, hread, hseq, hspec'⟩

/-- Settles O50: the write is outside every window, so its record is in the device store at once; stamps and completion write no byte. -/
theorem queryStoresItsRecord : Obligations.QueryStoresItsRecord := by
  intro s q m x k o h hout hn ho hw
  obtain ⟨⟨y, hy, hk⟩, hread, hseq, hspec⟩ := queryWrite_committed h hout (mem_of_memNamed hn) ho
  have hy' : tget (stampOutputs (queryWrite s.chip q x k m o).1 { (queryWrite s.chip q x k m o).2 with status := stOk }).queues q = some y := by
    rw [(syncCore_eq_iff.1 (syncCore_stampOutputs _ _)).2.1, hy]
  refine ⟨_, next_startsAs h (fun c e => queryStart c e q), ?_⟩
  rw [queryStart_eq hn ho hw hspec, complete_ok rfl, hseq]
  refine ⟨cmdSat_of_cmdsSat (QueueWork.updCmd hy' _ _).queue (cmdsSat_modCmd hk hseq (completedWith_completed _ _ _ _ _ _ _)), fun i hi => ?_⟩
  rw [updCmd, modQueue_memory, stampOutputs_memory, hread i hi]

end Sys2Proof.Machine
end

section
/-! PROOFS. Creation of objects and tokens (02 R51 to R68, R78, R79, 11 R348, R349): a served request runs on the state in which it is taken,
whose objects are those of before, and a creation takes an index and puts one object there. -/

namespace Sys2Proof.Machine

/-! ### A served request of the chip part -/

/-- The row of a request that its operation answers. -/
theorem next_served {s : State} {fn op r : Nat} (h : served s fn op r = true) {f : Chip → Env → Nat → Option (Chip × Reply)} {c : Chip}
    {p : Reply} (hf : f (taken s fn).chip (envOf s) r = some (c, p)) :
    (.next (chipRequest s fn op f) : Host.Outcome State Fault Refusal) = .next (answered s fn r c p) := by
  rw [served_chip h, hf]

/-- A request that names no source or destination is taken and nothing else. -/
theorem taken_chip {s : State} {fn op r : Nat} (h : served s fn op r = true) (hop : [0x16, 0x1A, 0x22, 0x78].contains op = false) :
    (taken s fn).chip = takeRequest s.chip fn := by
  simp only [served, Bool.and_eq_true, beq_iff_eq] at h
  obtain ⟨⟨⟨⟨⟨⟨-, hentry⟩, hrq⟩, -⟩, -⟩, -⟩, -⟩ := h
  have hholds : requestHolds s.chip fn (entryOf s.chip fn) = [] := by
    simp only [requestHolds, hentry, hrq, hop, Bool.false_and, Bool.false_eq_true, if_false]
  rw [taken, hholds]
  rfl

/-! ### Indices and choices -/

/-- Taking an index moves the index spaces only. -/
theorem takeIndex_allocs {c d : Chip} {sp i : Nat} (h : takeIndex c sp = some (i, d)) : ∃ a, d = { c with allocs := a } := by
  simp only [takeIndex] at h
  split at h
  · cases h
    exact ⟨_, rfl⟩
  · split at h
    · cases h
    · cases h
      exact ⟨_, rfl⟩

/-- The counter of open choices is none of an index space's concern. -/
theorem takeIndex_free {c d : Chip} {sp i : Nat} (h : takeIndex c sp = some (i, d)) (n : Nat) :
    takeIndex { c with free := n } sp = some (i, { d with free := n }) := by
  simp only [takeIndex] at h
  simp only [takeIndex, show allocOf { c with free := n } sp = allocOf c sp from rfl]
  split at h
  case isTrue hroom =>
    rw [if_pos hroom]
    cases h
    rfl
  case isFalse hroom =>
    rw [if_neg hroom]
    split at h
    case h_1 => cases h
    case h_2 =>
      cases h
      simp only

/-- Where something is legal, something legal is picked. -/
theorem pick_mem {legal : List Nat} (h : legal ≠ []) (c : Chip) : ∃ n ∈ legal, pick c legal = some (n, { c with free := c.free + 1 }) := by
  cases legal with
  | nil => exact absurd rfl h
  | cons x r =>
    refine ⟨_, ?_, rfl⟩
    split
    case isTrue hn => simpa using hn
    case isFalse => exact List.mem_cons_self

/-- Nor of a quota's. -/
theorem quotaRoom_free (c : Chip) (n t k m : Nat) : quotaRoom { c with free := n } t k m = quotaRoom c t k m := rfl

/-- A creation that its quotas and its index space allow. -/
theorem create_eq {c d : Chip} {t ty i : Nat} {need : List (Nat × Nat)} (f : Chip → Nat → Handle → Chip × Nat)
    (hneed : need.all (fun n => quotaRoom c t n.1 n.2) = true) (hi : takeIndex c (spaceOf ty) = some (i, d)) :
    create c t ty need f
      = ((f d i (mkHandle ty (reuseOf d (spaceOf ty) i) i)).1,
          okReply (field (mkHandle ty (reuseOf d (spaceOf ty) i) i).toNat 64 32 + (f d i (mkHandle ty (reuseOf d (spaceOf ty) i) i)).2)) := by
  simp only [create, hneed, newHandle, hi, Bool.not_true, Bool.false_eq_true, if_false]

/-! ### References taken -/

theorem syncCore_takeRef {c : Chip} {h : Handle} (h2 : hType h ≠ 2) (h5 : hType h ≠ 5) : syncCore (takeRef c h) = syncCore c := by
  unfold takeRef
  split
  · exact syncCore_setRefs h2 h5 _
  · rfl

@[simp] theorem setRefs_memory (c : Chip) (h : Handle) (r : Refs) : (setRefs c h r).memory = c.memory := by
  unfold setRefs
  split <;> simp

@[simp] theorem takeRef_memory (c : Chip) (h : Handle) : (takeRef c h).memory = c.memory := by
  unfold takeRef
  split
  · exact setRefs_memory _ _ _
  · rfl

/-- A handle that passes its check is of a permitted TYPE. -/
theorem hType_of_handleOk {c : Chip} {t ty : Nat} {h : Handle} (hok : handleOk c t [ty] h = true) : hType h = ty := by
  simp only [handleOk, Bool.and_eq_true, List.contains_cons, List.contains_nil, Bool.or_false, beq_iff_eq] at hok
  exact hok.1

/-- What a device object is named by. -/
theorem hType_of_deviceObj {c : Chip} {t m : Nat} {h : Handle} {o : MemObj} (hd : deviceObj c t h = some (m, o)) : hType h = 3 := by
  unfold deviceObj at hd
  split at hd
  case isTrue hok => exact hType_of_handleOk hok
  case isFalse => cases hd

/-- A reference on a hitch. -/
theorem takeRef_hitch {c : Chip} {t : Nat} {h : Handle} (hok : handleOk c t [5] h = true) :
    ∃ n, takeRef c h = modHitch c (hIndex h) (fun y => { y with refs := n }) := by
  have h5 := hType_of_handleOk hok
  cases ho : objOf c h with
  | none => simp [handleOk, ho] at hok
  | some p => exact ⟨{ p.2 with dev := p.2.dev + 1 }, by simp only [takeRef, ho, setRefs_hitch h5]⟩

/-! ### The objects made -/

/-- A new context (02 R61). -/
def bornContext (fn r : Nat) (h : Handle) : Context :=
  { handle := h, owner := rqOwner fn r, refs := firstRefs, cls := classOf (bits r 65 64),
    beat := if bits r 71 68 == 0xF then none else some (bits r 71 68), slots := [], runnable := true, stopping := none,
    brk := none, bisect := none, util := Util.zero }

theorem createContext_eq {c d : Chip} {fn r i : Nat} (hcount : charged c (rqOwner fn r) 0 < 256)
    (hquota : quotaRoom c (rqOwner fn r) 0 1 = true) (hi : takeIndex c 1 = some (i, d)) :
    createContext c fn r
      = (putContext d i (bornContext fn r (mkHandle 1 (reuseOf d 1 i) i)), okReply (field (mkHandle 1 (reuseOf d 1 i) i).toNat 64 32)) := by
  simp only [createContext, if_neg (Nat.not_le.2 hcount)]
  exact create_eq (ty := 1) _ (by simp [hquota]) hi

/-- A new hitch (02 R68). -/
def bornHitch (fn r : Nat) (h : Handle) : Hitch :=
  { handle := h, owner := rqOwner fn r, refs := firstRefs, value := BitVec.ofNat 64 (bits r 127 64), broken := 0, breaker := none,
    waiters := [] }

theorem createHitch_eq {c d : Chip} {fn r i : Nat} (hquota : quotaRoom c (rqOwner fn r) 3 1 = true) (hi : takeIndex c 5 = some (i, d)) :
    createHitch c fn r
      = (putHitch d i (bornHitch fn r (mkHandle 5 (reuseOf d 5 i) i)), okReply (field (mkHandle 5 (reuseOf d 5 i) i).toNat 64 32)) :=
  create_eq (ty := 5) _ (by simp [hquota]) hi

/-- A new event (02 R78). -/
def bornEvent (fn r : Nat) (h : Handle) : Event :=
  { handle := h, owner := rqOwner fn r, refs := firstRefs, state := .idle, hitch := 0, target := 0, source := 0, armGait := 0, fireGait := 0 }

theorem createEvent_eq {c d : Chip} {fn r i : Nat} (hquota : quotaRoom c (rqOwner fn r) 4 1 = true) (hi : takeIndex c 6 = some (i, d)) :
    createEvent c fn r
      = (putEvent d i (bornEvent fn r (mkHandle 6 (reuseOf d 6 i) i)), okReply (field (mkHandle 6 (reuseOf d 6 i) i).toNat 64 32)) :=
  create_eq (ty := 6) _ (by simp [hquota]) hi

/-- A new memory object in host memory (02 R64). -/
def bornHostMem (c : Chip) (fn r : Nat) (h : Handle) : MemObj :=
  { handle := h, owner := rqOwner fn r, refs := firstRefs, kind := .host, double := false, size := bits r 191 128, addr := bits r 255 192,
    home := homeOf (fieldHandle r 127), stamp := 1, pub := 0, lazy := false, filled := [], born := bornNow c, charge := 0, image := none }

theorem createMemory_host {c d : Chip} {fn r i : Nat} (hform : memoryForm (bit r 64) (bit r 65) (bits r 191 128) = true)
    (hhome : homeOk c (rqOwner fn r) (fieldHandle r 127) = true) (hquota : quotaRoom c (rqOwner fn r) 2 1 = true)
    (hi : takeIndex c 3 = some (i, d)) (hhost : bit r 64 = true)
    (hw : winCovers (windowOf c (rqOwner fn r) (bits r 77 72)) true (bits r 255 192) (bits r 191 128) = true) :
    createMemory c fn r
      = (putMem d i (bornHostMem d fn r (mkHandle 3 (reuseOf d 3 i) i)), okReply (field (mkHandle 3 (reuseOf d 3 i) i).toNat 64 32)) := by
  rw [hhost] at hform
  simp only [createMemory, hform, hhome, hquota, hi, hhost, hw, Option.isNone_some, Bool.not_true, Bool.true_or, Bool.and_self, Bool.or_self,
    Bool.false_eq_true, if_false, if_true]
  exact create_eq (ty := 3) _ (by simp [hquota]) hi

/-- Bytes of device memory that a new object takes, for both halves (02 R64). -/
def spanAsked (r : Nat) : Nat := if bit r 65 then 2 * bits r 191 128 else bits r 191 128

/-- Whether a new device object is filled later (10 R315). -/
def lazyAsked (c : Chip) (fn r : Nat) : Bool := hasFeat (featuresOf c (rqOwner fn r)) featLazy && 0x4000000 < bits r 191 128

/-- A new memory object in device memory at a, of a chip c, asked for in chip b (02 R64). -/
def bornDevMem (b c : Chip) (fn r a : Nat) (h : Handle) : MemObj :=
  { handle := h, owner := rqOwner fn r, refs := firstRefs, kind := .device, double := bit r 65, size := bits r 191 128, addr := a,
    home := homeOf (fieldHandle r 127), stamp := 1, pub := 0, lazy := lazyAsked b fn r, filled := [], born := bornNow c,
    charge := spanAsked r / 65536, image := none }

theorem createMemory_device {c d : Chip} {fn r i : Nat} (hform : memoryForm (bit r 64) (bit r 65) (bits r 191 128) = true)
    (hhome : homeOk c (rqOwner fn r) (fieldHandle r 127) = true) (hquota : quotaRoom c (rqOwner fn r) 2 1 = true)
    (hi : takeIndex c 3 = some (i, d)) (hdev : bit r 64 = false) (hbytes : quotaRoom c (rqOwner fn r) 6 (spanAsked r / 65536) = true)
    (hplace : placements c (windowOf c (rqOwner fn r) (bits r 77 72)) (spanAsked r) ≠ []) :
    ∃ a ∈ placements c (windowOf c (rqOwner fn r) (bits r 77 72)) (spanAsked r),
      createMemory c fn r
        = (firstFill (putMem { d with free := c.free + 1 } i (bornDevMem c d fn r a (mkHandle 3 (reuseOf d 3 i) i))) (lazyAsked c fn r) a
              (spanAsked r),
            okReply (field (mkHandle 3 (reuseOf d 3 i) i).toNat 64 32 + field a 128 64)) := by
  obtain ⟨a, ha, hpick⟩ := pick_mem hplace c
  refine ⟨a, ha, ?_⟩
  rw [hdev] at hform
  unfold spanAsked at hpick hbytes
  simp only [createMemory, hform, hhome, hquota, hi, hdev, hbytes, hpick, Option.isNone_some, Bool.not_true, Bool.not_false, Bool.true_and,
    Bool.or_true, Bool.and_self, Bool.or_self, Bool.false_eq_true, if_false]
  have hneed : [(2, 1), (6, spanAsked r / 65536)].all (fun n => quotaRoom { c with free := c.free + 1 } (rqOwner fn r) n.1 n.2) = true := by
    simp only [List.all_cons, List.all_nil, quotaRoom_free, hquota, Bool.and_true, Bool.true_and]
    exact hbytes
  exact create_eq (ty := 3) _ hneed (takeIndex_free hi _)

/-- A lazy object's bytes are left to the filler; another's are zero (10 R314, R315). -/
theorem firstFill_hbm (c : Chip) (a n x : Nat) :
    readByte (firstFill c false a n).memory.hbm x = if a ≤ x ∧ x < a + n then 0 else readByte c.memory.hbm x := by
  simp only [firstFill, Bool.false_eq_true, if_false, memory_cntHbm, hbm_zeroDev, readByte_clearRange]

@[simp] theorem clearPoison_mems (c : Chip) (a n : Nat) : (clearPoison c a n).mems = c.mems := by
  have healed (ls : List Nat) (c : Chip) : (ls.foldl healLine c).mems = c.mems := by
    induction ls generalizing c with
    | nil => rfl
    | cons l r ih =>
      rw [List.foldl_cons, ih]
      simp only [healLine]
      split <;> rfl
  simp only [clearPoison]
  split
  · exact healed _ _
  · rfl

@[simp] theorem cntHbm_mems (c : Chip) (b a n : Nat) : (cntHbm c b a n).mems = c.mems := by
  have counted (l : List Nat) (f g : Nat → Nat) (c : Chip) : (l.foldl (fun c s => cntFix c (f s) (g s)) c).mems = c.mems := by
    induction l generalizing c with
    | nil => rfl
    | cons s r ih => rw [List.foldl_cons, ih, cntFix_mems]
  exact counted _ _ _ _

theorem firstFill_mems (c : Chip) (lazy : Bool) (a n : Nat) : (firstFill c lazy a n).mems = c.mems := by
  cases lazy
  · simp [firstFill, zeroDev]
  · rfl

/-- A new queue in slot `slot` (02 R62). -/
def bornQueue (r t slot ms mq : Nat) (h : Handle) : Queue :=
  { handle := h, owner := t, ctx := hIndex (fieldHandle r 95), slot := slot, refs := firstRefs, sq := ms, cq := mq, sqOff := bits r 255 192,
    cqOff := bits r 319 256, sqLog2 := bits r 324 320, cqLog2 := bits r 332 328, head := 0, tail := 0, err := none, flags := 0, cmds := [],
    lists := [], segs := [], nextSeq := 0, prod := 0, cons := 0, owed := [], owedCount := 0, lastMark := none, bind := none }

/-- The chip with a new queue at index i: the context and both ring objects are referenced, and the completion ring's header is zero. -/
def queueMade (c : Chip) (r i : Nat) (oq : MemObj) (x : Queue) : Chip :=
  storeDev (takeRef (takeRef (takeRef (putQueue c i x) (fieldHandle r 95)) (fieldHandle r 127)) (fieldHandle r 159)) (oq.addr + bits r 319 256)
    (List.replicate 64 0)

theorem queueMade_queues {c : Chip} {r i : Nat} {oq : MemObj} {x : Queue} (hc : hType (fieldHandle r 95) = 1) (hs : hType (fieldHandle r 127) = 3)
    (hq : hType (fieldHandle r 159) = 3) : (queueMade c r i oq x).queues = tset c.queues i x := by
  have hcore : syncCore (queueMade c r i oq x) = syncCore (putQueue c i x) := by
    rw [queueMade, syncCore_storeDev, syncCore_takeRef (by omega) (by omega), syncCore_takeRef (by omega) (by omega),
      syncCore_takeRef (by omega) (by omega)]
  exact (syncCore_eq_iff.1 hcore).2.1

section
variable {c d : Chip} {fn r i ms mq : Nat} {os oq : MemObj}

/-- CREATE_QUEUE whose arguments and counts pass every check makes its queue in a free slot. -/
theorem createQueue_eq (hsl : 8 ≤ bits r 324 320) (hsl' : bits r 324 320 ≤ 20) (hcl : 6 ≤ bits r 332 328) (hcl' : bits r 332 328 ≤ 16)
    (hctx : handleOk c (actor c fn (fieldHandle r 95)) [1] (fieldHandle r 95) = true)
    (hs : deviceObj c (actor c fn (fieldHandle r 95)) (fieldHandle r 127) = some (ms, os))
    (hq : deviceObj c (actor c fn (fieldHandle r 95)) (fieldHandle r 159) = some (mq, oq))
    (hsring : ringPlaced c os (bits r 255 192) (16 * pow2 (bits r 324 320)) none = true)
    (hqring : ringPlaced c oq (bits r 319 256) (64 + 16 * pow2 (bits r 332 328)) none = true)
    (hapart : overlap (os.addr + bits r 255 192) (16 * pow2 (bits r 324 320)) (oq.addr + bits r 319 256) (64 + 16 * pow2 (bits r 332 328)) = false)
    (hcount : queuesOf c (hIndex (fieldHandle r 95)) < 16) (hquota : quotaRoom c (actor c fn (fieldHandle r 95)) 1 1 = true)
    (hroomc : refRoom c (fieldHandle r 95) = true) (hrooms : refRoom c (fieldHandle r 127) = true) (hroomq : refRoom c (fieldHandle r 159) = true)
    (hslots : freeSlots c (actor c fn (fieldHandle r 95)) ≠ []) (hi : takeIndex c 2 = some (i, d)) :
    ∃ slot ∈ freeSlots c (actor c fn (fieldHandle r 95)),
      createQueue c fn r
        = some (queueMade { d with free := c.free + 1 } r i oq
              (bornQueue r (actor c fn (fieldHandle r 95)) slot ms mq (mkHandle 2 (reuseOf d 2 i) i)),
            okReply (field (mkHandle 2 (reuseOf d 2 i) i).toNat 64 32 + field slot 96 12)) := by
  obtain ⟨slot, hslot, hpick⟩ := pick_mem hslots c
  refine ⟨slot, hslot, ?_⟩
  have hlogs : (bits r 324 320 < 8 || 20 < bits r 324 320 || bits r 332 328 < 6 || 16 < bits r 332 328) = false := by
    simp; omega
  simp only [createQueue, hlogs, hctx, hs, hq, hsring, hqring, hapart, if_neg (Nat.not_le.2 hcount), hroomc, hrooms, hroomq, hpick, Bool.not_true,
    Bool.not_false, Bool.and_self, Bool.or_self, Bool.false_eq_true, if_false]
  exact congrArg some (create_eq (ty := 2) _ (by simp [quotaRoom_free, hquota]) (takeIndex_free hi _))

end

/-! ### ARM_EVENT -/

theorem disarm_of_not_armed {c : Chip} {i : Nat} {v : Event} (hv : tget c.events i = some v) (hs : v.state ≠ .armed) : disarm c i = c := by
  simp [disarm, hv, hs]

/-- An event that takes the state st of its arming, at gait g (02 R78, R79). -/
def setArming (r g : Nat) (st : EventState) (v : Event) : Event :=
  { v with state := st, hitch := hIndex (fieldHandle r 127), target := BitVec.ofNat 64 (bits r 191 128), source := bits r 202 192, armGait := g,
           fireGait := if st == .armed then v.fireGait else g }

/-- The state that its hitch gives an event as it is armed (02 R79). -/
def armedAs (r : Nat) (y : Hitch) : EventState :=
  if y.broken ≠ 0 then .broken else if bits r 191 128 ≤ y.value.toNat then .fired else .armed

/-- The chip with an event armed on a hitch whose counts become n. -/
def armedChip (c : Chip) (r : Nat) (n : Refs) : Chip :=
  modHitch (modEvent (modHitch c (hIndex (fieldHandle r 127)) (fun y => { y with refs := n })) (hIndex (fieldHandle r 95))
      (setArming r c.gait .armed)) (hIndex (fieldHandle r 127))
    (fun y => { y with waiters := y.waiters ++ [.event (hIndex (fieldHandle r 95)) (BitVec.ofNat 64 (bits r 191 128))] })

/-- The chip with an event that its hitch settles at once. -/
def settledChip (c : Chip) (r : Nat) (st : EventState) : Chip :=
  raiseSource (modEvent c (hIndex (fieldHandle r 95)) (setArming r c.gait st)) (bits r 202 192)

/-- ARM_EVENT of an event that is not armed, by what its hitch says. -/
theorem armEvent_eq {c : Chip} {fn r : Nat} {v : Event} {y : Hitch}
    (he : handleOk c (actor c fn (fieldHandle r 95)) [6] (fieldHandle r 95) = true)
    (hh : handleOk c (actor c fn (fieldHandle r 95)) [5] (fieldHandle r 127) = true)
    (hsrc : sourceOk c (actor c fn (fieldHandle r 95)) (bits r 202 192) = true) (hv : tget c.events (hIndex (fieldHandle r 95)) = some v)
    (hy : tget c.hitches (hIndex (fieldHandle r 127)) = some y) (hs : v.state ≠ .armed)
    (hslot : slotRoom c (actor c fn (fieldHandle r 95)) = true) (hroom : refRoom c (fieldHandle r 127) = true) :
    ∃ n, armEvent c fn r = some (if armedAs r y = .armed then armedChip c r n else settledChip c r (armedAs r y), okReply 0) := by
  obtain ⟨n, href⟩ := takeRef_hitch hh
  have htarget : (BitVec.ofNat 64 (bits r 191 128)).toNat = bits r 191 128 := by
    rw [BitVec.toNat_ofNat]
    exact Nat.mod_eq_of_lt (Nat.mod_lt _ (by decide))
  have hreferenced : disarm (takeRef c (fieldHandle r 127)) (hIndex (fieldHandle r 95)) = takeRef c (fieldHandle r 127) :=
    disarm_of_not_armed (v := v) (by rw [href, modHitch_events, hv]) hs
  have hslots : (v.state != .armed && !slotRoom c (actor c fn (fieldHandle r 95))) = false := by rw [hslot]; simp
  refine ⟨n, ?_⟩
  simp only [armEvent, he, hh, hsrc, hv, hy, disarm_of_not_armed hv hs, hreferenced, hslots, htarget, hroom, Bool.not_true, Bool.or_self,
    Bool.false_eq_true, if_false, bne_iff_ne, armedAs]
  split
  case isTrue => rfl
  case isFalse =>
    split
    case isTrue => rfl
    case isFalse =>
      rw [href]
      simp only [modHitch_gait]
      rfl

theorem armedChip_event {c : Chip} {r : Nat} {v : Event} (hv : tget c.events (hIndex (fieldHandle r 95)) = some v) (n : Refs) (j : Nat) :
    tget (armedChip c r n).events j
      = if j = hIndex (fieldHandle r 95) then some (setArming r c.gait .armed v) else tget c.events j := by
  rw [armedChip, modHitch_events, tget_modEvent, modHitch_events, hv]
  rfl

theorem settledChip_event {c : Chip} {r : Nat} {v : Event} (hv : tget c.events (hIndex (fieldHandle r 95)) = some v) (st : EventState) (j : Nat) :
    tget (settledChip c r st).events j = if j = hIndex (fieldHandle r 95) then some (setArming r c.gait st v) else tget c.events j := by
  rw [settledChip, raiseSource_events, tget_modEvent, hv]
  rfl

theorem armedChip_hitch {c : Chip} {r : Nat} {y : Hitch} (hy : tget c.hitches (hIndex (fieldHandle r 127)) = some y) (n : Refs) :
    ∃ y', tget (armedChip c r n).hitches (hIndex (fieldHandle r 127)) = some y' ∧ y'.value = y.value
      ∧ y'.waiters = y.waiters ++ [.event (hIndex (fieldHandle r 95)) (BitVec.ofNat 64 (bits r 191 128))] := by
  rw [armedChip, tget_modHitch, if_pos rfl, modEvent_hitches, tget_modHitch, if_pos rfl, hy]
  exact ⟨_, rfl, rfl, rfl⟩

theorem armedChip_memory (c : Chip) (r : Nat) (n : Refs) : (armedChip c r n).memory = c.memory := by simp [armedChip]
theorem settledChip_memory (c : Chip) (r : Nat) (st : EventState) : (settledChip c r st).memory = c.memory := by simp [settledChip]
theorem settledChip_hitches (c : Chip) (r : Nat) (st : EventState) : (settledChip c r st).hitches = c.hitches := by simp [settledChip]

/-! ### Tokens -/

/-- A new token (11 R348). -/
def bornToken (fn r m n : Nat) : Token :=
  { owner := rqOwner fn r, mem := m, reuse := n, rd := bit r 96, wr := bit r 97, revoking := false, accepted := 0 }

theorem exportObject_eq {c d : Chip} {fn r i m : Nat} {o : MemObj} (hd : deviceObj c (rqOwner fn r) (fieldHandle r 95) = some (m, o))
    (hcount : c.tokens.countP (fun p => p.2.owner == rqOwner fn r && !p.2.revoking) < 1024) (hroom : refRoom c (fieldHandle r 95) = true)
    (hi : takeIndex c 10 = some (i, d)) :
    exportObject c fn r
      = some (takeRef { d with tokens := tset d.tokens i (bornToken fn r m (reuseOf d 10 i)) } (fieldHandle r 95),
          okReply (field (mkToken (reuseOf d 10 i) i).toNat 64 32)) := by
  simp only [exportObject, hd, if_neg (Nat.not_le.2 hcount), hroom, hi, Bool.not_true, Bool.false_eq_true, if_false]
  rfl

theorem revokeToken_eq {c : Chip} {fn r i : Nat} {k : Token} (hk : tokenOf c (fieldHandle r 95) = some (i, k)) (hr : k.revoking = false)
    (ho : k.owner = rqOwner fn r) : revokeToken c fn r = (revoke c i, okReply 0) := by
  simp [revokeToken, hk, hr, ho]

/-- The token of a TOKEN value is in the table. -/
theorem tget_of_tokenOf {c : Chip} {tok : W32} {i : Nat} {k : Token} (h : tokenOf c tok = some (i, k)) : tget c.tokens i = some k := by
  simp only [tokenOf] at h
  split at h
  case isFalse => cases h
  case isTrue =>
    split at h
    case h_2 => cases h
    case h_1 t ht =>
      split at h
      · cases h
        exact ht
      · cases h

theorem freeToken_tokens (c : Chip) (i : Nat) (k : Token) : (freeToken c i k).tokens = terase c.tokens i := by
  simp only [freeToken]
  split
  · exact (Kept.dropRef _ _).tokens
  · rfl

/-- Revocation removes a token, or marks it while accepted requests of its own are left (11 R349). -/
theorem tget_revoke {c : Chip} {i : Nat} {k : Token} (hk : tget c.tokens i = some k) (j : Nat) :
    tget (revoke c i).tokens j
      = if j = i then (if k.accepted = 0 then none else some { k with revoking := true }) else tget c.tokens j := by
  simp only [revoke, hk]
  split
  case isTrue h =>
    have hz : k.accepted = 0 := by simpa using h
    rw [freeToken_tokens, tget_terase, if_pos hz]
  case isFalse h =>
    have hz : ¬ k.accepted = 0 := by simpa using h
    rw [tget_modToken, hk, if_neg hz]
    rfl

/-- Settles O20: each row leaves what its operation gives, and the operation takes the next index, or finds its object, in a chip whose
objects are those of before. -/
theorem objectsAreCreated : Obligations.ObjectsAreCreated := by
  refine ⟨fun s fn r i d h hcount hquota hi => ?context, fun s fn r i d h hquota hi => ?hitch, fun s fn r i d h hquota hi => ?event,
    fun s fn r i d h hhome hquota hi hform => ⟨fun hhost hw => ?host, fun span hspan hdev hbytes hplace => ?device⟩,
    fun s fn r i ms mq os oq d t h ht hsl hsl' hcl hcl' hctx hs hq hsring hqring hapart hcount hquota hroomc hrooms hroomq hslots hi => ?queue,
    fun s fn r t v y h ht he hh hsrc hv hy hstate hslot hroom => ?arm, fun s fn r i m o d h hd hcount hroom hi => ?token,
    fun s fn r i k h hk hr ho => ?revoke⟩
  case context =>
    refine ⟨_, _, next_served h (congrArg some (createContext_eq hcount hquota hi)), tget_tset_same _ _ _, rfl, rfl, rfl, rfl, ?_⟩
    rw [taken_chip h rfl] at hi
    obtain ⟨a, rfl⟩ := takeIndex_allocs hi
    exact ⟨by simp [bornContext], rfl, rfl, rfl, rfl, fun j hj => tget_tset_other _ _ _ _ hj.symm, rfl, rfl, rfl⟩
  case hitch =>
    refine ⟨_, next_served h (congrArg some (createHitch_eq hquota hi)), tget_tset_same _ _ _, ?_⟩
    rw [taken_chip h rfl] at hi
    obtain ⟨a, rfl⟩ := takeIndex_allocs hi
    exact ⟨fun j hj => tget_tset_other _ _ _ _ hj.symm, rfl, rfl, rfl, rfl, rfl⟩
  case event =>
    refine ⟨_, _, next_served h (congrArg some (createEvent_eq hquota hi)), tget_tset_same _ _ _, rfl, rfl, rfl, rfl, ?_⟩
    rw [taken_chip h rfl] at hi
    obtain ⟨a, rfl⟩ := takeIndex_allocs hi
    exact ⟨fun j hj => tget_tset_other _ _ _ _ hj.symm, rfl, rfl⟩
  case host =>
    refine ⟨_, _, next_served h (congrArg some (createMemory_host hform hhome hquota hi hhost hw)), tget_tset_same _ _ _, rfl, rfl, rfl, rfl,
      rfl, rfl, rfl, ?_⟩
    rw [taken_chip h rfl] at hi
    obtain ⟨a, rfl⟩ := takeIndex_allocs hi
    exact ⟨fun j hj => tget_tset_other _ _ _ _ hj.symm, rfl⟩
  case device =>
    subst hspan
    obtain ⟨a, ha, heq⟩ := createMemory_device hform hhome hquota hi hdev hbytes hplace
    refine ⟨_, _, a, _, ha, next_served h (congrArg some heq), by rw [firstFill_mems]; exact tget_tset_same _ _ _, rfl, rfl, rfl, rfl, rfl, rfl,
      rfl, rfl, rfl, ?_⟩
    rw [taken_chip h rfl] at hi
    obtain ⟨b, rfl⟩ := takeIndex_allocs hi
    refine ⟨fun j hj => ?_, fun hlazy => ?_, fun hlazy => ?_⟩
    · rw [firstFill_mems]
      exact tget_tset_other _ _ _ _ hj.symm
    · have hlazy' : lazyAsked (taken s fn).chip fn r = false := hlazy
      rw [hlazy']
      exact firstFill_hbm _ _ _
    · have hlazy' : lazyAsked (taken s fn).chip fn r = true := hlazy
      rw [hlazy']
      rfl
  case queue =>
    subst ht
    obtain ⟨slot, hslot, heq⟩ := createQueue_eq hsl hsl' hcl hcl' hctx hs hq hsring hqring hapart hcount hquota hroomc hrooms hroomq hslots hi
    have hqueues := queueMade_queues (c := { d with free := (taken s fn).chip.free + 1 }) (i := i) (oq := oq)
      (x := bornQueue r (actor (taken s fn).chip fn (fieldHandle r 95)) slot ms mq (mkHandle 2 (reuseOf d 2 i) i))
      (hType_of_handleOk hctx) (hType_of_deviceObj hs) (hType_of_deviceObj hq)
    refine ⟨_, _, slot, hslot, next_served h heq, by rw [hqueues]; exact tget_tset_same _ _ _, rfl, rfl, rfl, rfl, rfl, rfl, rfl, rfl, rfl, rfl,
      rfl, rfl, rfl, rfl, rfl, rfl, fun j hj => ?_⟩
    rw [taken_chip h rfl] at hi
    obtain ⟨a, rfl⟩ := takeIndex_allocs hi
    rw [hqueues]
    exact tget_tset_other _ _ _ _ hj.symm
  case arm =>
    subst ht
    have hv' : tget (taken s fn).chip.events (hIndex (fieldHandle r 95)) = some v := by rw [taken_chip h rfl]; exact hv
    have hy' : tget (taken s fn).chip.hitches (hIndex (fieldHandle r 127)) = some y := by rw [taken_chip h rfl]; exact hy
    obtain ⟨n, heq⟩ := armEvent_eq he hh hsrc hv' hy' hstate hslot hroom
    refine ⟨_, setArming r s.chip.gait (armedAs r y) v, next_served h heq, ?_⟩
    have htaken := taken_chip h rfl
    split
    case isTrue hwait =>
      rw [hwait]
      have hevents := armedChip_event hv' n
      refine ⟨?_, ?_, rfl, rfl, rfl, rfl, fun j hj => ?_, fun _ => armedChip_hitch hy' n, fun hne => absurd rfl hne, ?_⟩
      · rw [hevents, if_pos rfl, htaken]; rfl
      · exact hwait.symm
      · rw [hevents, if_neg hj, htaken]; rfl
      · rw [armedChip_memory, htaken]; rfl
    case isFalse hnow =>
      have hevents := settledChip_event hv' (armedAs r y)
      refine ⟨?_, rfl, rfl, rfl, rfl, rfl, fun j hj => ?_, fun hwait => absurd hwait hnow, fun _ => ?_, ?_⟩
      · rw [hevents, if_pos rfl, htaken]; rfl
      · rw [hevents, if_neg hj, htaken]; rfl
      · rw [settledChip_hitches, htaken]; rfl
      · rw [settledChip_memory, htaken]; rfl
  case token =>
    have hcount' : (taken s fn).chip.tokens.countP (fun p => p.2.owner == rqOwner fn r && !p.2.revoking) < 1024 := by
      rw [taken_chip h rfl]
      exact hcount
    have h3 := hType_of_deviceObj hd
    obtain ⟨-, hqueues, -, htokens⟩ := syncCore_eq_iff.1 (syncCore_takeRef
      (c := { d with tokens := tset d.tokens i (bornToken fn r m (reuseOf d 10 i)) }) (h := fieldHandle r 95) (by omega) (by omega))
    refine ⟨_, next_served h (exportObject_eq hd hcount' hroom hi), by rw [htokens]; exact tget_tset_same _ _ _, ?_⟩
    rw [htokens, hqueues, takeRef_memory]
    rw [taken_chip h rfl] at hi
    obtain ⟨a, rfl⟩ := takeIndex_allocs hi
    exact ⟨fun j hj => tget_tset_other _ _ _ _ hj.symm, rfl, rfl⟩
  case revoke =>
    have hk' : tokenOf (taken s fn).chip (fieldHandle r 95) = some (i, k) := by rw [taken_chip h rfl]; exact hk
    have hrevoked := tget_revoke (tget_of_tokenOf hk')
    refine ⟨_, next_served h (congrArg some (revokeToken_eq hk' hr ho)), by rw [hrevoked, if_pos rfl], fun j hj => ?_⟩
    rw [hrevoked, if_neg hj, taken_chip h rfl]
    rfl

end Sys2Proof.Machine
end

section
/-! PROOFS. What the grant of engines moves (06 R192, R194): a start moves the rotation pointers, and what else the arbitration does keeps the
line-up of every queue. -/

namespace Sys2Proof.Machine

/-! ### Operations that leave the rotation pointers -/

theorem rotation_foldl {α : Type} {f : Chip → α → Chip} (hf : ∀ c x, (f c x).rotation = c.rotation) (l : List α) (c : Chip) :
    (l.foldl f c).rotation = c.rotation := by
  induction l generalizing c with
  | nil => rfl
  | cons x r ih => rw [List.foldl_cons, ih, hf]

@[simp] theorem rotation_stopContext (c : Chip) (ctx q : Nat) (tag : Option W16) (detail : Nat) :
    (stopContext c ctx q tag detail).rotation = c.rotation := by
  simp only [stopContext]
  rw [rotation_foldl (fun c p => (Kept.demote _ _).rotation.trans (Kept.discardWindows _ _).rotation), modContext_rotation]

@[simp] theorem rotation_countBisect (c : Chip) (q : Nat) (k : Cmd) (s : Nat) : (countBisect c q k s).rotation = c.rotation := by
  simp only [countBisect]
  split
  · rfl
  · split
    · rfl
    · split <;> simp

/-- A start moves the rotation pointers by the bump alone. -/
theorem rotation_countStart (c : Chip) (q : Nat) (k : Cmd) : (countStart c q k).rotation = (bump c q).rotation := by
  simp only [countStart]
  cases k.list <;> split <;> simp

@[simp] theorem rotation_cntMax (c : Chip) (i n : Nat) : (cntMax c i n).rotation = c.rotation := by
  unfold cntMax
  split <;> rfl

theorem rotation_pickN (n : Nat) (c : Chip) (free : List Nat) : (pickN n c free).2.rotation = c.rotation := by
  induction n generalizing c free with
  | zero => rfl
  | succ n ih =>
    cases free with
    | nil => rfl
    | cons g r => exact ih _ _

/-- The longest preemption wait is a count (15 R444 counter 7). -/
theorem rotation_trig (o : Option Nat) (c : Chip) : (match o with | some t => cntMax c 7 (c.clock - t) | none => c).rotation = c.rotation := by
  cases o with
  | none => rfl
  | some t => exact rotation_cntMax _ _ _

theorem rotation_takeEngines (c : Chip) (q : Nat) (k : Cmd) (kind need : Nat) : (takeEngines c q k kind need).1.rotation = c.rotation := by
  match kind with
  | 0 =>
    refine (rotation_trig _ _).trans ?_
    show (match k.job with
      | .launch prog _ _ _ _ _ _ _ _ _ => (match tget c.mems prog with | some m => takeRef c m.handle | none => c)
      | _ => c).rotation = c.rotation
    split
    · split
      · exact (Kept.takeRef _ _).rotation
      · rfl
    · rfl
  | 1 =>
    refine (rotation_trig _ _).trans ?_
    exact (rotation_foldl (f := scrubStaging) (fun _ _ => rfl) _ _).trans (rotation_pickN _ _ _)
  | n + 2 =>
    refine (rotation_trig _ _).trans ?_
    exact (rotation_foldl (f := fun c g => scrubStaging c (4 + g)) (fun _ _ => rfl) _ _).trans (rotation_pickN _ _ _)

/-! ### Frames -/

theorem rotation_pumpFrames (x : Port) (q : Nat) (fs : List TxFrame) (blocked : List Nat) (c : Chip) :
    (pumpFrames x q fs blocked c).rotation = c.rotation := by
  induction fs generalizing blocked c with
  | nil => rfl
  | cons f r ih =>
    simp only [pumpFrames]
    split <;> rw [ih] <;> rfl

theorem rotation_sendTo (c : Chip) (f : Fabric) (p : Place) (chan dest : Nat) (body : Nat → Output) (owner : Option (Nat × Nat)) :
    (sendTo c f p chan dest body owner).rotation = c.rotation := by
  simp only [sendTo]
  split
  · exact rotation_pumpFrames _ _ _ _ _
  · split <;> rfl

theorem rotation_sendRemote (c : Chip) (e : Env) (q : Nat) (k : Cmd) : (sendRemote c e q k).1.rotation = c.rotation := by
  simp only [sendRemote]
  split
  · exact rotation_foldl (fun _ _ => rotation_sendTo _ _ _ _ _ _ _) _ _
  · split
    · exact rotation_foldl (fun _ _ => rotation_sendTo _ _ _ _ _ _ _) _ _
    · rfl

/-! ### Clusters of a launch -/

theorem rotation_startScratch (c : Chip) (ctx carried : Nat) (teams : List Nat) : (startScratch c ctx carried teams).rotation = c.rotation := by
  refine rotation_foldl (fun c t => rotation_foldl (fun c i => ?_) _ _) _ _
  split <;> rfl

theorem rotation_seedCores (c : Chip) (k : Cmd) : (seedCores c k).rotation = c.rotation := by
  unfold seedCores
  split
  · exact rotation_foldl (f := fun c x => seedCore c _ x) (fun _ _ => rfl) _ _
  · rfl

/-! ### A start turns the rotation -/

theorem tset_ne_nil {α : Type} (t : Tab α) (i : Nat) (v : α) : tset t i v ≠ [] := by
  intro h
  have := tget_tset_same t i v
  rw [h] at this
  cases this

theorem countStart_turns {c : Chip} {q : Nat} {x : Queue} (hq : tget c.queues q = some x) (k : Cmd) : (countStart c q k).rotation.ctx ≠ [] := by
  rw [rotation_countStart]
  simp only [bump, hq]
  exact tset_ne_nil _ _ _

theorem failStart_turns {c : Chip} {q : Nat} {x : Queue} (hq : tget c.queues q = some x) (e : Env) (k : Cmd) (st det : Nat)
    (f : Option FaultInfo) (count : Bool) : (failStart c e q k st det f count).rotation.ctx ≠ [] := by
  simp only [failStart, hq]
  rw [(Kept.complete _ _ _ _ _ _ _).rotation]
  split
  · exact countStart_turns hq _
  · exact countStart_turns hq _

theorem fixJob_turns {c : Chip} {q : Nat} {x : Queue} (hq : tget c.queues q = some x) (e : Env) (x₀ : Queue) (k : Cmd) (p : Prep) :
    (fixJob c e q x₀ k p).1.rotation.ctx ≠ [] := by
  have started := countStart_turns (c := { c with logFree := c.logFree - p.units }) hq
  simp only [fixJob]
  split
  · rw [modToken_rotation]
    exact started _
  · exact started _

/-- Either rotation pointers stand, or every queue keeps its line-up. -/
def Moves (c d : Chip) : Prop := d.rotation.ctx ≠ [] ∨ Kept lineup c d

theorem Moves.trans {c d f : Chip} (h : Moves c d) (g : Moves d f) : Moves c f := by
  rcases g with g | g
  · exact .inl g
  · rcases h with h | h
    · exact .inl (by rwa [g.rotation])
    · exact .inr (h.trans g)

@[simp] theorem noteRefused_queues (c : Chip) (e : Env) (x : Queue) (k : Cmd) : (noteRefused c e x k).queues = c.queues :=
  (apply_ite Chip.queues _ _ _).trans (ite_self _)

theorem grant_moves (c : Chip) (e : Env) (q seq : Nat) : Moves c (grant c e q seq) := by
  unfold grant
  split
  case h_2 => exact .inr (Kept.refl c)
  case h_1 x k hq hk =>
    split
    case h_1 => exact .inr (Kept.updCmd (fun _ h => h))
    case h_2 => exact .inl (failStart_turns (x := x) (by rw [noteRefused_queues]; exact hq) _ _ _ _ _ _)
    case h_3 => exact .inr (Kept.updCmd (fun _ h => h))
    case h_4 p hp =>
      refine .inl ?_
      have sent : (sendRemote (takeEngines (fixJob c e q x k p).1 q (fixJob c e q x k p).2 (needOf c k).1 (needOf c k).2).1 e q
          (takeEngines (fixJob c e q x k p).1 q (fixJob c e q x k p).2 (needOf c k).1 (needOf c k).2).2).1.rotation.ctx ≠ [] := by
        rw [rotation_sendRemote, rotation_takeEngines]
        exact fixJob_turns hq _ _ _ _
      simp only [updCmd, modQueue_rotation]
      split
      · rw [rotation_seedCores, rotation_startScratch]
        exact sent
      · exact sent

theorem arbKind_moves (e : Env) (kind n : Nat) (c : Chip) : Moves c (arbKind e kind n c) := by
  induction n generalizing c with
  | zero => exact .inr (Kept.refl c)
  | succ n ih =>
    unfold arbKind
    split
    · exact .inr (Kept.refl c)
    · split
      · exact (grant_moves _ _ _ _).trans (ih _)
      · exact .inr (Kept.refl c)

theorem Kept.stopVictims (need : Nat) (vs : List Victim) (c : Chip) (n : Nat) : Kept Machine.lineup c (stopVictims c need vs n) := by
  induction vs generalizing c n with
  | nil => exact Kept.refl c
  | cons v r ih =>
    unfold Machine.stopVictims
    split
    · exact Kept.refl c
    · refine Kept.trans ?_ (ih _ _)
      exact Kept.updCmd (fun _ h => h)

theorem Kept.arbPreempt (c : Chip) (e : Env) : Kept Machine.lineup c (arbPreempt c e) := by
  unfold Machine.arbPreempt
  split
  · split
    · exact Kept.refl c
    · simp only [preemptFor]
      split
      · exact Kept.refl c
      · split
        · refine Kept.trans ?_ (Kept.stopVictims _ _ _ _)
          exact Kept.updCmd (fun _ h => h)
        · exact Kept.refl c
  · exact Kept.refl c

/-- Arbitration that leaves no rotation pointer has started nothing. -/
theorem arbitrate_moves (c : Chip) (e : Env) : Moves c (arbitrate c e) :=
  ((arbKind_moves e 0 _ c).trans ((arbKind_moves e 1 _ _).trans (arbKind_moves e 2 _ _))).trans (.inr (Kept.arbPreempt _ e))

end Sys2Proof.Machine
end

section
/-! PROOFS. A wait whose TIMEOUT_US is over (02 R72), in a state that the statement does not exclude: a second command of the queue bears the
wait's sequence number and stands before it. The timeout then takes the record of the other command, whose failure discards the open window
and the wait with it. -/

namespace Sys2Proof.Machine

/-! ### The state -/

/-- A command of a list, numbered 1, that has been fetched and not started. -/
def twinFetched : Cmd := freshCmd 1 0 0 (some 7) [] 0 [0x100]

/-- A WAIT_HITCH of TARGET 4 and TIMEOUT_US 10, numbered 1 as well, that waits in the window of the BRANCH numbered 0. -/
def twinWaiting : Cmd :=
  { freshCmd 1 0 0 none [] 0 [BitVec.ofNat 128 (0x220 + field 0x50000000 64 32 + field 10 96 32), 4] with phase := .waiting, spec := some 0 }

/-- The window of the BRANCH numbered 0. -/
def twinWindow : Segment := { branch := 0, predict := true, confirmed := false, other := 0, stack := [], otherStack := [] }

def twinQueue : Queue :=
  { handle := mkHandle 2 0 0, owner := 0, ctx := 0, slot := 0, refs := { host := 1, dev := 0 }, sq := 0, cq := 0, sqOff := 0, cqOff := 0x10000,
    sqLog2 := 8, cqLog2 := 6, head := 0, tail := 0, err := none, flags := 0, cmds := [twinFetched, twinWaiting], lists := [],
    segs := [twinWindow], nextSeq := 2, prod := 0, cons := 0, owed := [], owedCount := 0, lastMark := none, bind := none }

/-- The hitch of the wait. -/
def twinHitch : Hitch :=
  { handle := 0x50000000, owner := 0, refs := { host := 1, dev := 1 }, value := 3, broken := 0, breaker := none, waiters := [.cmd 0 1 4 true] }

/-- 10 microseconds after the wait's start. -/
def twinState : State :=
  { State.reset with chip := { Chip.reset with dev := .ready, queues := [(0, twinQueue)], hitches := [(0, twinHitch)], clock := 10000 } }

/-- What the timeout of the wait leaves. -/
def twinAfter : Chip := arbitrate (waitTimeout twinState.chip (envOf twinState) 0) (envOf twinState)

theorem exec_twinState : exec (.waitTimeout 0) twinState = .next { twinState with chip := twinAfter } := rfl

theorem twinAfter_rotation : twinAfter.rotation.ctx = [] := rfl

theorem twinAfter_queue : (tget twinAfter.queues 0).map (fun x => x.cmds) = some [] := rfl

/-! ### No chip before the arbitration has the wait -/

/-- Arbitration that moved no rotation pointer and leaves a queue without commands found it so. -/
theorem cmdOf_of_unmoved {c : Chip} {e : Env} {q n : Nat} (hr : (arbitrate c e).rotation.ctx = [])
    (hq : (tget (arbitrate c e).queues q).map (fun x => x.cmds) = some []) : cmdOf c q n = none := by
  obtain ⟨z, hz, hempty⟩ := Option.map_eq_some_iff.1 hq
  have hkept : Kept lineup c (arbitrate c e) := (arbitrate_moves c e).resolve_left (fun h => h hr)
  obtain ⟨x, hx, -, hline⟩ := hkept.queues q z hz
  have hseqs : z.cmds.map (fun k => k.seq) = x.cmds.map (fun k => k.seq) := congrArg Prod.snd hline
  rw [hempty, List.map_nil] at hseqs
  have hnone : x.cmds = [] := List.map_eq_nil_iff.1 hseqs.symm
  simp [cmdOf, hx, hnone]

/-- Refutes O48: its last part fails in `twinState`, where two commands of a queue bear one sequence number. The premises name the wait by its
phase, the timeout ends the first command of its number, and no record of that number is left. -/
theorem not_waitsRegisterAndEnd : ¬ Obligations.WaitsRegisterAndEnd := by
  intro h
  obtain ⟨-, -, htimeout⟩ := h
  obtain ⟨c, hexec, k, hk, -⟩ := htimeout twinState 0 twinQueue twinWaiting rfl rfl ⟨by decide, by decide, by decide⟩ (by decide) (by decide)
  rw [exec_twinState] at hexec
  have hafter : twinAfter = arbitrate c (envOf twinState) := congrArg State.chip (Host.Outcome.next.inj hexec)
  have hnone : cmdOf c 0 twinWaiting.seq = none := cmdOf_of_unmoved (hafter ▸ twinAfter_rotation) (hafter ▸ twinAfter_queue)
  rw [hnone] at hk
  cases hk

end Sys2Proof.Machine
end

section
/-! PROOFS. BAR2 and memory windows (03 R111 to R115): what an access inside a window reads or stores, what a refused one leaves, and what
each write of a window's VALID does to its entry. -/

namespace Sys2Proof.Machine

/-! ### Counters and fills -/

/-- The counts of HBM bytes touch the counters alone. -/
theorem cntHbm_frame (c : Chip) (base a n : Nat) : ∃ v, cntHbm c base a n = { c with counters := v } := by
  have counted (l : List Nat) (c : Chip) :
      ∃ v, l.foldl (fun c s => cntFix c (base + s) (stackShare (a + n) s - stackShare a s)) c = { c with counters := v } := by
    induction l generalizing c with
    | nil => exact ⟨c.counters, rfl⟩
    | cons s r ih =>
      rw [List.foldl_cons, cntFix]
      split
      · exact ih c
      · exact ih { c with counters := _ }
  exact counted _ c

@[simp] theorem cntHbm_out (c : Chip) (base a n : Nat) : (cntHbm c base a n).out = c.out := by
  obtain ⟨v, hv⟩ := cntHbm_frame c base a n
  rw [hv]

/-- The end of a window's fill touches memory and the counters alone. -/
theorem zeroDev_frame (c : Chip) (a n : Nat) : ∃ m, zeroDev c a n = { c with memory := m } := by
  have healed (ls : List Nat) (c : Chip) : ∃ m, ls.foldl healLine c = { c with memory := m } := by
    induction ls generalizing c with
    | nil => exact ⟨c.memory, rfl⟩
    | cons l r ih =>
      simp only [List.foldl_cons, healLine]
      split
      · exact ih (setStack c _ _)
      · exact ih c
  simp only [zeroDev, clearPoison]
  split
  · obtain ⟨m, hm⟩ := healed (wholeLines a n) _
    exact ⟨m, hm⟩
  · exact ⟨_, rfl⟩

theorem zeroRange_frame (c : Chip) (a n : Nat) :
    ∃ m v, cntHbm (zeroDev c a n) 72 a n = { c with memory := m, counters := v } := by
  obtain ⟨m, hm⟩ := zeroDev_frame c a n
  obtain ⟨v, hv⟩ := cntHbm_frame (zeroDev c a n) 72 a n
  exact ⟨m, v, by rw [hv, hm]⟩

theorem zeroRanges_frame (rs : List (Nat × Nat)) (c : Chip) :
    ∃ m v, rs.foldl (fun c r => cntHbm (zeroDev c r.1 (r.2 - r.1)) 72 r.1 (r.2 - r.1)) c = { c with memory := m, counters := v } := by
  induction rs generalizing c with
  | nil => exact ⟨c.memory, c.counters, rfl⟩
  | cons r rs ih =>
    obtain ⟨m, v, h⟩ := zeroRange_frame c r.1 (r.2 - r.1)
    rw [List.foldl_cons, h]
    exact ih { c with memory := m, counters := v }

theorem memWf_zeroRanges (rs : List (Nat × Nat)) (c : Chip) (h : memWf c.memory.hbm = true) :
    memWf (rs.foldl (fun c r => cntHbm (zeroDev c r.1 (r.2 - r.1)) 72 r.1 (r.2 - r.1)) c).memory.hbm = true :=
  memWf_foldl _ (fun c r hc => by rw [memory_cntHbm]; exact memWf_zeroDev _ _ _ hc) _ _ h

/-! ### BAR2 reads -/

/-- A read that meets no poison gives the bytes, and counts them. -/
theorem bar2Read_window {c : Chip} {fn off n a : Nat} (hin : inBar2 c fn off n = true) (ha : bar2Addr c fn off n false = some a)
    (hclean : readPoison c a n = none) :
    bar2Read c fn off n = emit (cntHbm c 64 a n) (.bar2Data fn (loadDev c a n) false) := by
  have hbad : (linesOf a n).filter (fun l => linePoisoned c l && !pendingByte c (l * 64)) = [] := by
    rw [List.filter_eq_nil_iff]
    exact List.find?_eq_none.1 hclean
  simp only [bar2Read, hin, ha, hbad, Bool.not_true, Bool.false_eq_true, if_false, List.contains_nil, List.foldl_nil, List.isEmpty_nil]
  rw [List.zipIdx_map_fst]

theorem bar2Read_refused {c : Chip} {fn off n : Nat} (hin : inBar2 c fn off n = true) (ha : bar2Addr c fn off n false = none) :
    bar2Read c fn off n = emit (countMiss c fn) (.bar2Data fn (List.replicate n 0) false) := by
  simp only [bar2Read, hin, ha, Bool.not_true, Bool.false_eq_true, if_false]

/-- A miss counts once in the register of its function, which saturates. -/
theorem countMiss_toNat (c : Chip) (fn : Nat) :
    (tenantOf (countMiss c fn) fn).bar2Miss.toNat = min ((tenantOf c fn).bar2Miss.toNat + 1) 0xFFFFFFFF := by
  rw [countMiss, tenantOf_modTenant_same]
  exact satAdd_toNat _

theorem exec_bar2Read {s : State} {fn : Nat} (h : hostReaches s fn = true) (off n : Nat) :
    exec (.bar2Read fn off n) s = .next (afterAccess s (fun c _ => bar2Read c fn off n)) := by
  have hup : tornDown s fn = false := by
    simp only [hostReaches, Bool.and_eq_true, Bool.not_eq_true'] at h
    exact h.1.2
  simp only [exec, execBar2Read, hup, Bool.and_false, Bool.false_eq_true, if_false, hostChip_eq _ _ _ h]

/-- Settles O10: a read inside a window that meets no poison emits its bytes; a refused one emits zeros and counts its miss. -/
theorem bar2ReadGivesWindowBytes : Obligations.Bar2ReadGivesWindowBytes := by
  refine fun s fn off n h hin => ⟨fun a ha hclean => ?window, fun ha => ?refused⟩
  case window =>
    refine ⟨_, exec_bar2Read h off n, ?_⟩
    rw [afterAccess_chip, bar2Read_window hin ha hclean]
    simp
  case refused =>
    refine ⟨_, exec_bar2Read h off n, ?_⟩
    rw [afterAccess_chip, bar2Read_refused hin ha]
    exact ⟨rfl, countMiss_toNat s.chip fn, rfl⟩

/-! ### BAR2 writes -/

/-- A range without a lazily filled object has no granule to fill. -/
theorem fillTouched_of_none_lazy {c : Chip} {a n : Nat}
    (h : c.mems.all (fun p => !(p.2.lazy && overlap a n p.2.addr p.2.span)) = true) : fillTouched c a n = c := by
  have skipped (g : Chip → Nat × MemObj → Chip) (ps : List (Nat × MemObj)) (hps : ∀ p ∈ ps, g c p = c) : ps.foldl g c = c := by
    induction ps with
    | nil => rfl
    | cons p r ih =>
      rw [List.foldl_cons, hps p List.mem_cons_self]
      exact ih (fun p' hp' => hps p' (List.mem_cons_of_mem _ hp'))
  refine skipped _ c.mems (fun p hp => if_neg ?_)
  simpa only [Bool.not_eq_true', Bool.not_eq_true] using List.all_eq_true.1 h p hp

/-- A stamp's rise writes no device memory. -/
theorem memory_foldl_raiseStamp (ms : List Nat) (c : Chip) : (ms.foldl raiseStamp c).memory = c.memory := by
  induction ms generalizing c with
  | nil => rfl
  | cons m r ih => rw [List.foldl_cons, ih, memory_raiseStamp]

/-- HBM after a write in a writable window. -/
theorem hbm_bar2Write {c : Chip} {fn off a : Nat} {data : List Byte} (hin : inBar2 c fn off data.length = true)
    (ha : bar2Addr c fn off data.length true = some a)
    (hlazy : c.mems.all (fun p => !(p.2.lazy && overlap a data.length p.2.addr p.2.span)) = true) :
    (bar2Write c fn off data).memory.hbm = writeBytes c.memory.hbm a data := by
  have hfull : data.isEmpty = false := by cases data <;> simp_all [inBar2]
  simp only [bar2Write, hin, ha, Bool.not_true, Bool.false_eq_true, if_false, memory_foldl_raiseStamp, storeDev, memory_cntHbm, storeQuiet,
    hfull, hbm_clearPoison, fillTouched_of_none_lazy hlazy]

theorem bar2Write_refused {c : Chip} {fn off : Nat} {data : List Byte} (hin : inBar2 c fn off data.length = true)
    (ha : bar2Addr c fn off data.length true = none) : bar2Write c fn off data = countMiss c fn := by
  simp only [bar2Write, hin, ha, Bool.not_true, Bool.false_eq_true, if_false]

theorem exec_bar2Write {s : State} {fn : Nat} (h : hostReaches s fn = true) (off : Nat) (data : List Byte) :
    exec (.bar2Write fn off data) s = .next (afterAccess s (fun c _ => bar2Write c fn off data)) := by
  simp only [exec, execBar2Write, hostChip_eq _ _ _ h]

/-- Settles O11: a write inside a writable window writes its bytes and fills nothing; a refused one counts its miss. -/
theorem bar2WriteStoresBytes : Obligations.Bar2WriteStoresBytes := by
  refine ⟨fun s fn off a data h hin ha hlazy => ?window, fun s fn off data h hin ha => ?refused⟩
  case window =>
    refine ⟨_, exec_bar2Write h off data, ?_⟩
    rw [afterAccess_chip, hbm_bar2Write hin ha hlazy]
    refine ⟨fun i hi => ?_, fun x hx => ?_, memWf_writeBytes _ _ _⟩
    · rw [readByte_writeBytes, if_pos (by omega), Nat.add_sub_cancel_left]
    · rw [readByte_writeBytes, if_neg (by omega)]
  case refused =>
    refine ⟨_, exec_bar2Write h off data, ?_⟩
    rw [afterAccess_chip, bar2Write_refused hin ha]
    exact ⟨rfl, rfl, countMiss_toNat s.chip fn⟩

/-! ### Window entries -/

@[simp] theorem windowOf_setWindow (c : Chip) (t i : Nat) (w : Window) : windowOf (setWindow c t i w) t i = w := by
  simp [windowOf, setWindow, tget_tset_same]

@[simp] theorem tenantOf_changed (c : Chip) (t : Nat) : tenantOf (changed c t) t = { tenantOf c t with winChanged := true } :=
  tenantOf_modTenant_same c t (fun x => { x with winChanged := true })

/-- A change of a window leaves the entries. -/
@[simp] theorem windowOf_changed (c : Chip) (t i : Nat) : windowOf (changed c t) t i = windowOf c t i := by
  simp only [windowOf, tenantOf_changed]

@[simp] theorem memory_changed (c : Chip) (t : Nat) : (changed c t).memory = c.memory := rfl
@[simp] theorem memory_setWindow (c : Chip) (t i : Nat) (w : Window) : (setWindow c t i w).memory = c.memory := rfl

/-- VALID = 1 for an entry out of force: what its checks find decides. -/
theorem setValid_eq {c : Chip} {t i v : Nat} (ht : t < 32) (hi : i < 64) (hout : inForce (windowOf c t i) = false) :
    setValid c t i v
      = if windowErr c t i (withControl (windowOf c t i) v) ≠ 0 then
          setWindow c t i { withControl (windowOf c t i) v with err := windowErr c t i (withControl (windowOf c t i) v) }
        else if (withControl (windowOf c t i) v).host then
          changed (setWindow c t i { withControl (windowOf c t i) v with err := 0, valid := true }) t
        else setWindow c t i { withControl (windowOf c t i) v with err := 0, pending := true } := by
  have hrange : (32 ≤ t || 64 ≤ i) = false := by simp; omega
  simp only [setValid, hrange, hout, Bool.false_eq_true, if_false, bne_iff_ne]

/-- VALID = 0 for an entry in force. -/
theorem clearValid_valid {c : Chip} {t i : Nat} (ht : t < 32) (hi : i < 64) (hvalid : (windowOf c t i).valid = true)
    (hset : (windowOf c t i).pending = false) (v : Nat) :
    clearValid c t i v = changed (setWindow c t i { windowOf c t i with valid := false }) t := by
  have hrange : (32 ≤ t || 64 ≤ i) = false := by simp; omega
  simp only [clearValid, hrange, hvalid, hset, Bool.false_eq_true, if_false, if_true]

/-- The end of a pending window's fill: its range is zeroed, and the entry takes force. -/
theorem fillDone_pending {c : Chip} {t i : Nat} (h : (windowOf c t i).pending = true) :
    ∃ m v, fillDone c t i = changed (setWindow { c with memory := m, counters := v } t i
        { windowOf c t i with valid := true, pending := false }) t
      ∧ (memWf c.memory.hbm = true → memWf m.hbm = true) := by
  obtain ⟨m, v, hfill⟩ := zeroRanges_frame (fillRanges c t (windowOf c t i)) c
  refine ⟨m, v, by simp only [fillDone, h, Bool.not_true, Bool.false_eq_true, if_false, hfill], fun hwf => ?_⟩
  have := memWf_zeroRanges (fillRanges c t (windowOf c t i)) c hwf
  rwa [hfill] at this

theorem exec_windowSetValid {s : State} (h : hostReaches s 0 = true) (t i : Nat) (v : W64) :
    exec (.windowSetValid t i v) s = .next (afterAccess s (fun c _ => setValid c t i v.toNat)) := by
  simp only [exec, execWindowSetValid, hostChip_eq _ _ _ h]

theorem exec_windowClearValid {s : State} (h : hostReaches s 0 = true) (t i : Nat) (clear : WindowClear) :
    exec (.windowClearValid t i clear) s
      = .next (afterAccess s (fun c e => clearValid (noteWork c e t clear.stops) t i clear.control.toNat)) := by
  simp only [exec, execWindowClearValid, hostChip_eq _ _ _ h]

/-- Settles O15: the three outcomes of the checks at VALID = 1, the end of a fill, and VALID = 0 after the work of the tenant is noted. -/
theorem windowsTakeForce : Obligations.WindowsTakeForce := by
  refine ⟨fun s t i v w h ht hi hout hw => ?set, fun s t i h => ?filled, fun s t i v stops w h ht hi hw hvalid hset => ?clear⟩
  case set =>
    subst hw
    have hexec := exec_windowSetValid h t i v
    refine ⟨fun hok hdev => ⟨_, hexec, ?device⟩, fun hok hhost => ⟨_, hexec, ?host⟩, fun herr => ⟨_, hexec, ?failed⟩⟩
    all_goals rw [afterAccess_chip, setValid_eq ht hi hout]
    case device => simp [hok, hdev]
    case host => simp [hok, hhost]
    case failed => simp [herr]
  case filled =>
    obtain ⟨m, n, hfill, hwf⟩ := fillDone_pending h
    refine ⟨onChip s (fun c _ => fillDone c t i), rfl, ?_⟩
    simp only [onChip, hfill]
    exact ⟨by simp, by simp, hwf, rfl⟩
  case clear =>
    subst hw
    refine ⟨_, exec_windowClearValid h t i _, ?_⟩
    rw [afterAccess_chip, clearValid_valid ht hi hvalid hset]
    refine ⟨by simp, by simp, rfl, ?_⟩
    rintro rfl
    exact ⟨rfl, rfl⟩

end Sys2Proof.Machine
end

section
/-! PROOFS. What holds engines (06 R193, 08 R255) through the end of a command: references that drop, discarded work and records give
nothing an engine and take none from anything; only the residency tags of a destroyed context go. -/

namespace Sys2Proof.Machine

/-- Clusters and engines, without the residency tags of the teams. -/
def untagged (c : Chip) : Compute := { c.compute with tags := [] }

/-- Who holds engines stands in the untagged part. -/
theorem freed_of_untagged {c d : Chip} {q n : Nat} (h : untagged d = untagged c) (hf : freed c q n) : freed d q n := by
  have hholders : d.compute.holders = c.compute.holders := congrArg (fun x => x.holders) h
  have hgroom : d.compute.groom = c.compute.groom := congrArg (fun x => x.groom) h
  have houtrider : d.compute.outrider = c.compute.outrider := congrArg (fun x => x.outrider) h
  rw [freed, hholders, hgroom, houtrider]
  exact hf

theorem untagged_foldl {α : Type} {f : Chip → α → Chip} (hf : ∀ c x, untagged (f c x) = untagged c) (l : List α) (c : Chip) :
    untagged (l.foldl f c) = untagged c := by
  induction l generalizing c with
  | nil => rfl
  | cons x r ih => rw [List.foldl_cons, ih, hf]

/-! ### Updates of one object -/

@[simp] theorem untagged_modQueue (c : Chip) (q : Nat) (f : Queue → Queue) : untagged (modQueue c q f) = untagged c := by simp [untagged]
@[simp] theorem untagged_modContext (c : Chip) (k : Nat) (f : Context → Context) : untagged (modContext c k f) = untagged c := by simp [untagged]
@[simp] theorem untagged_modMem (c : Chip) (m : Nat) (f : MemObj → MemObj) : untagged (modMem c m f) = untagged c := by simp [untagged]
@[simp] theorem untagged_modHitch (c : Chip) (k : Nat) (f : Hitch → Hitch) : untagged (modHitch c k f) = untagged c := by simp [untagged]
@[simp] theorem untagged_modEvent (c : Chip) (i : Nat) (f : Event → Event) : untagged (modEvent c i f) = untagged c := by simp [untagged]
@[simp] theorem untagged_modToken (c : Chip) (i : Nat) (f : Token → Token) : untagged (modToken c i f) = untagged c := by simp [untagged]
@[simp] theorem untagged_cntFix (c : Chip) (i n : Nat) : untagged (cntFix c i n) = untagged c := by simp [untagged]
@[simp] theorem untagged_addUtil (c : Chip) (k : Nat) (f : Util → Util) : untagged (addUtil c k f) = untagged c := untagged_modContext _ _ _
@[simp] theorem untagged_updCmd (c : Chip) (q n : Nat) (f : Cmd → Cmd) : untagged (updCmd c q n f) = untagged c := untagged_modQueue _ _ _
@[simp] theorem untagged_demote (c : Chip) (q : Nat) : untagged (demote c q) = untagged c := untagged_modQueue _ _ _

@[simp] theorem untagged_cntEv (c : Chip) (ctx ev cl n : Nat) (m : CntMode) : untagged (cntEv c ctx ev cl n m) = untagged c := by
  unfold cntEv
  split
  · rfl
  · exact untagged_foldl (fun _ _ => untagged_cntFix _ _ _) _ _

@[simp] theorem untagged_stampOutputs (c : Chip) (k : Cmd) : untagged (stampOutputs c k) = untagged c :=
  untagged_foldl (fun _ _ => untagged_modMem _ _ _) _ _

/-! ### References and destruction -/

@[simp] theorem untagged_setRefs (c : Chip) (h : Handle) (r : Refs) : untagged (setRefs c h r) = untagged c := by
  unfold setRefs
  split <;> simp

@[simp] theorem untagged_removeObj (c : Chip) (h : Handle) : untagged (removeObj c h).1 = untagged c := by
  unfold removeObj
  split
  case h_1 => rfl
  case h_2 => simp only; split <;> rfl
  case h_3 => rfl
  case h_4 =>
    simp only
    split
    · rfl
    · split
      · rfl
      · split
        · rfl
        · exact untagged_modHitch _ _ _
  case h_5 => rfl

@[simp] theorem untagged_destroyN (n : Nat) (c : Chip) (h : Handle) : untagged (destroyN n c h) = untagged c := by
  induction n generalizing c h with
  | zero => rfl
  | succ n ih =>
    unfold destroyN
    split
    case h_2 => rfl
    case h_1 o r ho =>
      split
      · rfl
      · have dropped (hs : List Handle) (d : Chip) : untagged (hs.foldl (fun c g =>
            match objOf c g with
            | some (_, r) => destroyN n (setRefs c g { r with dev := r.dev - 1 }) g
            | none => c) d) = untagged d := by
          refine untagged_foldl (fun c g => ?_) hs d
          split
          · rw [ih, untagged_setRefs]
          · rfl
        have removed := (dropped (removeObj (raiseReuse c (spaceOf (hType h)) (hIndex h)) h).2 _).trans
          (untagged_removeObj (raiseReuse c (spaceOf (hType h)) (hIndex h)) h)
        simp only
        split <;> exact removed

@[simp] theorem untagged_dropRef (c : Chip) (h : Handle) : untagged (dropRef c h) = untagged c := by
  unfold dropRef
  split
  · split
    · exact untagged_modQueue _ _ _
    · rw [destroyIfFree, untagged_destroyN, untagged_setRefs]
  · rfl

@[simp] theorem untagged_dropRefs (c : Chip) (hs : List Handle) : untagged (dropRefs c hs) = untagged c := untagged_foldl untagged_dropRef hs c

/-! ### Work that is discarded -/

@[simp] theorem untagged_cntCmd (c : Chip) (q : Nat) (k : Cmd) (ctx ev cl n : Nat) : untagged (cntCmd c q k ctx ev cl n) = untagged c := by
  unfold cntCmd
  split
  · rfl
  · split <;> simp

@[simp] theorem untagged_accrueCyc (c : Chip) (q : Nat) (k : Cmd) (ts : List Nat) (discarded : Bool) :
    untagged (accrueCyc c q k ts discarded) = untagged c := by
  simp only [accrueCyc]
  split
  · rfl
  · split
    · rw [untagged_foldl (fun c t => untagged_foldl (fun c i => untagged_cntEv _ _ _ _ _ _) _ _)]
      simp
    · rw [untagged_addUtil]
      exact untagged_foldl (fun c t => untagged_foldl (fun c i => untagged_cntCmd _ _ _ _ _ _ _) _ _) _ _

@[simp] theorem untagged_accrueBusy (c : Chip) (q : Nat) (k : Cmd) (bytes : Nat) : untagged (accrueBusy c q k bytes) = untagged c := by
  simp only [accrueBusy]
  split
  · exact untagged_addUtil _ _ _
  · split
    all_goals
      rw [untagged_cntCmd]
      split <;> simp

@[simp] theorem untagged_unregister (c : Chip) (q n h : Nat) : untagged (unregister c q n h) = untagged c := by
  unfold unregister
  split
  · rfl
  · split
    · rw [untagged_dropRef, untagged_modHitch]
    · rfl

@[simp] theorem untagged_spoil (c : Chip) (k : Cmd) : untagged (spoil c k) = untagged c := by
  unfold spoil
  refine untagged_foldl (fun c p => ?_) _ _
  rfl

@[simp] theorem untagged_abandon (c : Chip) (q : Nat) (k : Cmd) : untagged (abandon c q k) = untagged c := by
  simp only [abandon, untagged_spoil]
  have waiter : untagged (if k.phase == .waiting then unregister c q k.seq (hIndex (fieldHandle k.bits 95)) else c) = untagged c := by
    split <;> simp
  generalize (if k.phase == .waiting then unregister c q k.seq (hIndex (fieldHandle k.bits 95)) else c) = d at waiter ⊢
  refine Eq.trans ?_ waiter
  split
  · rfl
  · rw [untagged_accrueCyc]
    split <;> simp

@[simp] theorem untagged_forgetCmd (c : Chip) (q : Nat) (k : Cmd) : untagged (forgetCmd c q k) = untagged c := by
  simp only [forgetCmd, untagged_dropRefs]
  exact untagged_modQueue _ _ _

@[simp] theorem untagged_rewindCmd (c : Chip) (q : Nat) (k : Cmd) : untagged (rewindCmd c q k) = untagged c := by
  simp only [rewindCmd, untagged_updCmd]
  exact untagged_abandon _ _ _

@[simp] theorem untagged_discardFrom (c : Chip) (q b : Nat) : untagged (discardFrom c q b) = untagged c := by
  unfold discardFrom
  split
  · rfl
  · simp only [untagged_cntFix, untagged_modQueue]
    rw [untagged_foldl]
    · exact untagged_modQueue _ _ _
    · intro c k
      split
      · simp [discardCmd]
      · split <;> simp

@[simp] theorem untagged_discardWindows (c : Chip) (q : Nat) : untagged (discardWindows c q) = untagged c := by
  unfold discardWindows
  split
  · rfl
  · split
    · rfl
    · simp only
      split <;> simp

/-! ### Failure and completion -/

@[simp] theorem untagged_stopList (c : Chip) (q s : Nat) : untagged (stopList c q s) = untagged c := by
  unfold stopList
  split
  · rfl
  · exact (untagged_foldl (fun c k => untagged_forgetCmd c q k) _ _).trans (untagged_modQueue _ _ _)

@[simp] theorem untagged_enterError (c : Chip) (q code origin : Nat) : untagged (enterError c q code origin) = untagged c := by
  unfold enterError
  split
  · rfl
  · split <;> simp

@[simp] theorem untagged_takeFailure (c : Chip) (q : Nat) (k : Cmd) : untagged (takeFailure c q k) = untagged c := by
  simp only [takeFailure]
  split <;> simp

@[simp] theorem untagged_complete (c : Chip) (e : Env) (q : Nat) (k : Cmd) (st det : Nat) (f : Option FaultInfo) :
    untagged (complete c e q k st det f) = untagged c := by
  cases hst : isFailure st with
  | false => rw [complete_ok hst, untagged_updCmd]
  | true =>
    rw [complete_failure hst]
    split <;> simp

@[simp] theorem untagged_endToken (c : Chip) (e : Env) (k : Cmd) : untagged (endToken c e k) = untagged c := by
  unfold endToken
  split
  · simp only
    split
    · split
      · split
        · rw [untagged_dropRef]
          exact untagged_modToken _ _ _
        · exact untagged_modToken _ _ _
      · exact untagged_modToken _ _ _
    · exact untagged_modToken _ _ _
  · rfl

/-! ### Engines given up -/

theorem tget_filter_ne {α : Type} [BEq α] [LawfulBEq α] (t : Tab α) (v : α) (i : Nat) : tget (t.filter (fun p => !(p.2 == v))) i ≠ some v := by
  induction t with
  | nil => simp [tget]
  | cons p r ih =>
    obtain ⟨j, w⟩ := p
    by_cases hw : w = v
    · simpa [hw] using ih
    · by_cases hj : j = i
      · simp [hw, hj, tget]
      · simpa [hw, hj, tget] using ih

/-- A command that gives up its engines holds none. -/
theorem freed_freeEngines (c : Chip) (q : Nat) (k : Cmd) (tag : Bool) : freed (freeEngines c q k tag) q k.seq := by
  have given (tags : Tab (Nat × Nat)) : freed { c with compute := { c.compute with
      holders := c.compute.holders.filter (fun p => !(p.2 == (q, k.seq))), groom := c.compute.groom.filter (fun p => !(p.2 == (q, k.seq))),
      outrider := c.compute.outrider.filter (fun p => !(p.2 == (q, k.seq))), tags := tags } } q k.seq :=
    fun t => ⟨tget_filter_ne _ _ _, tget_filter_ne _ _ _, tget_filter_ne _ _ _⟩
  simp only [freeEngines]
  split
  · split
    · exact freed_of_untagged (untagged_dropRef _ _) (given _)
    · exact given _
  · exact given _

end Sys2Proof.Machine
end

section
/-! PROOFS. The commands of one sequence number through a failure of theirs (06 R220, R221, 13 R389, R390): windows that open behind them
are discarded and a list ends, and what a failed command says of itself stands. An attempt on engines thus ends as its completion says. -/

namespace Sys2Proof.Machine

/-! ### The commands of a number -/

/-- The commands of queue x that bear number n. -/
def numbered (n : Nat) (x : Queue) : List Cmd := x.cmds.filter (fun k => k.seq == n)

/-- The same, and the number that the next command takes. -/
def numberedNext (n : Nat) (x : Queue) : List Cmd × Nat := (numbered n x, x.nextSeq)

theorem mem_numbered {n : Nat} {x : Queue} {k : Cmd} : k ∈ numbered n x ↔ k ∈ x.cmds ∧ k.seq = n := by simp [numbered]

theorem CmdsSat.of_numbered {x y : Queue} {n : Nat} {P : Cmd → Prop} (h : CmdsSat x n P) (hy : numbered n y = numbered n x) : CmdsSat y n P := by
  have hmem (k : Cmd) : k ∈ y.cmds ∧ k.seq = n ↔ k ∈ x.cmds ∧ k.seq = n := by rw [← mem_numbered, hy, mem_numbered]
  obtain ⟨⟨k, hk⟩, hP⟩ := h
  refine ⟨⟨k, (hmem k).2 hk⟩, fun j hj hjn => ?_⟩
  have hx := (hmem j).1 ⟨hj, hjn⟩
  exact hP j hx.1 hx.2

/-- A map that moves no element into or out of a part, and keeps that part. -/
theorem filter_map_fixed {α : Type} {p : α → Bool} {g : α → α} (hp : ∀ a, p (g a) = p a) (hg : ∀ a, p a = true → g a = a) (l : List α) :
    (l.map g).filter p = l.filter p := by
  rw [List.filter_map, show p ∘ g = p from funext hp]
  exact (List.map_congr_left (fun a ha => hg a (List.mem_filter.1 ha).2)).trans (List.map_id _)

theorem numbered_modCmd {n m : Nat} (hm : m ≠ n) {f : Cmd → Cmd} (hf : ∀ k, k.seq = m → (f k).seq = m) (x : Queue) :
    numbered n (modCmd x m f) = numbered n x := by
  refine filter_map_fixed (fun k => ?_) (fun k hk => ?_) _
  · by_cases hk : k.seq = m
    · simp [hk, hf k hk]
    · simp [hk]
  · have hk : k.seq ≠ m := by simp at hk; omega
    simp [hk]

/-- New numbers go to later commands, and none of them is an old one. -/
theorem filter_renumber {n b : Nat} (hb : n < b) (ks : List Cmd) {m : Nat} (hm : n < m) :
    (renumber b m ks).filter (fun k => k.seq == n) = ks.filter (fun k => k.seq == n) := by
  induction ks generalizing m with
  | nil => rfl
  | cons k r ih =>
    unfold renumber
    split
    case isTrue h =>
      have hlater : b < k.seq := by simp at h; exact h.1
      have hk : (k.seq == n) = false := by simp; omega
      have hm' : (m == n) = false := by simp; omega
      simp only [List.filter_cons, hk, hm', Bool.false_eq_true, if_false]
      exact ih (by omega)
    case isFalse => simp only [List.filter_cons, ih hm]

theorem numbered_renumberQueue {n b : Nat} (hb : n < b) {x : Queue} (hx : n < x.nextSeq) : numbered n (renumberQueue x b) = numbered n x :=
  filter_renumber hb x.cmds hx

/-! ### Discarded work of other commands -/

namespace Kept

variable {c d : Chip} {q n : Nat} {k : Cmd}

theorem numberedNext (h : Kept standing c d) : Kept (numberedNext n) c d := h.map (Machine.numberedNext n)
theorem numbered (h : Kept (Machine.numberedNext n) c d) : Kept (numbered n) c d := h.map Prod.fst

theorem updCmd_other {m : Nat} (hm : m ≠ n) {f : Cmd → Cmd} (hf : ∀ k, k.seq = m → (f k).seq = m) :
    Kept (Machine.numberedNext n) c (Machine.updCmd c q m f) :=
  modQueue (fun x _ => ⟨rfl, Prod.ext (numbered_modCmd hm hf x) rfl⟩)

theorem cntCmd_other (hk : k.seq ≠ n) (ctx ev cl m : Nat) : Kept (Machine.numberedNext n) c (Machine.cntCmd c q k ctx ev cl m) := by
  unfold Machine.cntCmd
  split
  · exact refl c
  · split
    · exact of_core (syncCore_cntEv _ _ _ _ _ _)
    · exact (of_core (syncCore_cntEv _ _ _ _ _ _)).trans (updCmd_other hk (fun _ h => h))

/-- The cycles of a discarded attempt are no command's. -/
theorem accrueCyc_discarded {α : Type} {key : Queue → α} (c : Chip) (q : Nat) (k : Cmd) (ts : List Nat) :
    Kept key c (Machine.accrueCyc c q k ts true) := by
  simp only [Machine.accrueCyc]
  split
  · exact refl c
  · refine of_core ((syncCore_foldl (fun c t => syncCore_foldl (fun c i => syncCore_cntEv _ _ _ _ _ _) _ _) _ _).trans ?_)
    simp

theorem accrueBusy_other (hk : k.seq ≠ n) (bytes : Nat) : Kept (Machine.numberedNext n) c (Machine.accrueBusy c q k bytes) := by
  simp only [Machine.accrueBusy]
  split
  · exact of_core (syncCore_addUtil _ _ _)
  · split
    all_goals
      refine Kept.trans (of_core ?_) (cntCmd_other hk _ _ _ _)
      split <;> simp

theorem abandon_other (hk : k.seq ≠ n) : Kept (Machine.numberedNext n) c (Machine.abandon c q k) := by
  have waiter : Kept (Machine.numberedNext n) c
      (if k.phase == .waiting then Machine.unregister c q k.seq (hIndex (fieldHandle k.bits 95)) else c) :=
    ite (unregister _ _ _ _).numberedNext (refl c)
  simp only [Machine.abandon]
  refine Kept.trans ?_ (of_core (syncCore_spoil _ _))
  refine waiter.trans (ite (of_core rfl) (Kept.trans ?_ (accrueCyc_discarded _ _ _ _)))
  exact ite (refl _) (accrueBusy_other hk _)

theorem forgetCmd_other (hk : k.seq ≠ n) : Kept (Machine.numberedNext n) c (Machine.forgetCmd c q k) := by
  simp only [Machine.forgetCmd]
  refine Kept.trans ?_ (dropRefs _ _).numberedNext
  refine Kept.trans (d := Machine.modQueue c q _) ?_ (of_core rfl)
  refine modQueue (fun x _ => ⟨rfl, Prod.ext ?_ rfl⟩)
  simp only [Machine.numberedNext, Machine.numbered, List.filter_filter]
  refine List.filter_congr (fun j _ => ?_)
  by_cases hj : j.seq = n
  · simp [hj, hk.symm]
  · simp [hj]

theorem rewindCmd_other (hk : k.seq ≠ n) : Kept (Machine.numberedNext n) c (Machine.rewindCmd c q k) := by
  refine Kept.trans (d := { Machine.abandon c q k with logFree := _ }) ?_ (updCmd_other hk (fun _ _ => rfl))
  exact (abandon_other hk).trans (of_core rfl)

/-- A window behind number n is discarded: what bears the number stays. -/
theorem discardFrom_after {b : Nat} (hb : n < b) (hnext : ∀ x, tget c.queues q = some x → n < x.nextSeq) :
    Kept (Machine.numbered n) c (Machine.discardFrom c q b) := by
  unfold Machine.discardFrom
  split
  · exact refl c
  · rename_i x hx
    refine Kept.trans ?_ (of_core (syncCore_cntFix _ _ _))
    have one (ks : List Cmd) (hks : ∀ k ∈ ks, k.seq ≠ n) (c : Chip) : Kept (Machine.numberedNext n) c (ks.foldl (fun c k =>
        if k.list.isSome then Machine.discardCmd c q k else if k.started then Machine.rewindCmd c q k else c) c) := by
      induction ks generalizing c with
      | nil => exact refl c
      | cons k r ih =>
        have hk := hks k (by simp)
        refine Kept.trans ?_ (ih (fun j hj => hks j (List.mem_cons_of_mem _ hj)) _)
        exact ite ((abandon_other hk).trans (forgetCmd_other hk)) (ite (rewindCmd_other hk) (refl c))
    have closed : Kept (Machine.numberedNext n) c
        (Machine.modQueue c q (fun x => { x with segs := x.segs.filter (fun s => s.branch < b) })) :=
      modQueue (fun _ _ => ⟨rfl, rfl⟩)
    have gone := closed.trans (one (x.cmds.filter (fun k => b < k.seq)) (fun k hk => by
      have := (List.mem_filter.1 hk).2
      simp at this
      omega) _)
    refine gone.numbered.trans (modQueue (fun z hz => ⟨rfl, ?_⟩))
    obtain ⟨y, hy, -, hkey⟩ := gone.queues q z hz
    have hz : z.nextSeq = y.nextSeq := congrArg Prod.snd hkey
    exact numbered_renumberQueue hb (hz ▸ hnext y hy)

/-- Every open window stands behind number n: the discard of all leaves what bears the number. -/
theorem discardWindows_after (h : ∀ x, tget c.queues q = some x → n < x.nextSeq ∧ ∀ g ∈ x.segs, n < g.branch) :
    Kept (Machine.numbered n) c (Machine.discardWindows c q) := by
  unfold Machine.discardWindows
  split
  · exact refl c
  · rename_i x hx
    obtain ⟨hnext, hsegs⟩ := h x hx
    split
    · exact refl c
    · rename_i s r hs
      have shut : Kept (Machine.numbered n) c (Machine.discardFrom c q s.branch) :=
        discardFrom_after (hsegs s (by simp [hs])) (fun x' hx' => (h x' hx').1)
      simp only
      split
      · exact shut
      · exact shut.trans (modQueue (fun _ _ => ⟨rfl, rfl⟩))

end Kept

/-! ### A failed command stands -/

/-- The queue enters error; a completed command before every open window stands (13 R389). -/
theorem enterError_numbered {c : Chip} {q n st : Nat} {x : Queue} (hq : tget c.queues q = some x) (hhost : x.refs.host ≠ 0)
    (hnext : n < x.nextSeq) (hsegs : ∀ g ∈ x.segs, n < g.branch) (h : CmdsSat x n (completedWith st)) (code origin : Nat) :
    ∃ y, tget (enterError c q code origin).queues q = some y ∧ y.refs.host ≠ 0 ∧ CmdsSat y n (completedWith st) := by
  simp only [enterError, hq]
  split
  case isTrue => exact ⟨x, hq, hhost, h⟩
  case isFalse =>
    have hset : tget (modQueue c q (fun x => { x with err := some (code, origin) })).queues q = some { x with err := some (code, origin) } := by
      rw [tget_modQueue, if_pos rfl, hq]
      rfl
    have kept : Kept (numbered n) (modQueue c q (fun x => { x with err := some (code, origin) }))
        (discardWindows (modQueue c q (fun x => { x with err := some (code, origin) })) q) := by
      refine Kept.discardWindows_after (fun y hy => ?_)
      rw [hset] at hy
      cases hy
      exact ⟨hnext, hsegs⟩
    obtain ⟨y, hy, hyhost, hkey⟩ := kept.find hset hhost
    obtain ⟨z, hz, hrefs, -, hs⟩ := demote_cmds hy ((h.congr rfl).of_numbered hkey)
    exact ⟨z, hz, by rwa [hrefs, hyhost], hs⟩

/-- A failure takes hold of the queue and of a list; the completed command stands. -/
theorem takeFailure_numbered {c : Chip} {q n st : Nat} {x : Queue} (hq : tget c.queues q = some x) (hhost : x.refs.host ≠ 0)
    (hnext : n < x.nextSeq) (hsegs : ∀ g ∈ x.segs, n < g.branch) (h : CmdsSat x n (completedWith st)) (k : Cmd) :
    ∃ y, tget (takeFailure c q k).queues q = some y ∧ y.refs.host ≠ 0 ∧ CmdsSat y n (completedWith st) := by
  obtain ⟨y, hy, hyhost, hys⟩ := enterError_numbered hq hhost hnext hsegs h k.status (originOf c (ctxOfQueue c q) k)
  simp only [takeFailure]
  split
  · rename_i l _
    obtain ⟨z, hz, -, hzs⟩ := stopList_cmds hy hyhost hys l
    obtain ⟨z', hz', hzhost, -⟩ := (Kept.stopList _ q l).find hy hyhost
    obtain rfl : z' = z := by simpa [hz] using hz'.symm
    exact ⟨z', hz', by rwa [hzhost], hzs⟩
  · exact ⟨y, hy, hyhost, hys⟩

/-- A completion, with whatever status: the command says so, in a queue that the host still holds (05 R155). -/
theorem complete_numbered {c : Chip} {q : Nat} {x : Queue} {k : Cmd} (hq : tget c.queues q = some x) (hk : ∃ j ∈ x.cmds, j.seq = k.seq)
    (hknown : staysKnown x k) (e : Env) (st det : Nat) (f : Option FaultInfo) :
    ∃ y, tget (complete c e q k st det f).queues q = some y ∧ y.refs.host ≠ 0 ∧ CmdsSat y k.seq (completedWith st) := by
  obtain ⟨hhost, hnext, hsegs⟩ := hknown
  have done := QueueWork.updCmd hq k.seq (fun _ => completed c e q k st det f)
  have hs : CmdsSat (modCmd x k.seq (fun _ => completed c e q k st det f)) k.seq (completedWith st) :=
    cmdsSat_modCmd hk rfl (completedWith_completed c e q k st det f)
  cases hst : isFailure st with
  | false =>
    rw [complete_ok hst]
    exact ⟨_, done.queue, hhost, hs⟩
  | true =>
    rw [complete_failure hst]
    split
    case isTrue hspec => exact takeFailure_numbered done.queue hhost hnext (hsegs (by simpa using hspec)) hs _
    case isFalse =>
      obtain ⟨y, hy, hrefs, -, hys⟩ := demote_cmds done.queue hs
      exact ⟨y, hy, by rw [hrefs]; exact hhost, hys⟩

/-! ### The end of an attempt -/

/-- An accepted request that ends moves its token, index spaces, and references. -/
theorem endToken_kept (c : Chip) (e : Env) (k : Cmd) : ∃ d, d.queues = c.queues ∧ Kept standing d (endToken c e k) := by
  unfold endToken
  split
  case h_1 =>
    simp only
    split
    · split
      · split
        · refine ⟨_, ?_, Kept.dropRef _ _⟩
          exact modToken_queues c _ _
        · refine ⟨_, ?_, Kept.refl _⟩
          exact modToken_queues c _ _
      · exact ⟨_, modToken_queues c _ _, Kept.refl _⟩
    · exact ⟨_, modToken_queues c _ _, Kept.refl _⟩
  case h_2 => exact ⟨c, rfl, Kept.refl c⟩

theorem completeJob_cmdSat {c : Chip} {q : Nat} {x : Queue} {k : Cmd} (hq : tget c.queues q = some x) (hk : ∃ j ∈ x.cmds, j.seq = k.seq)
    (hknown : staysKnown x k) (e : Env) (st det : Nat) (f : Option FaultInfo) :
    cmdSat (completeJob c e q k st det f) q k.seq (completedWith st) := by
  simp only [completeJob]
  generalize hk' : ({ k with engineNs := _ } : Cmd) = k'
  obtain ⟨hseq, hspec⟩ : k'.seq = k.seq ∧ k'.spec = k.spec := by rw [← hk']; exact ⟨rfl, rfl⟩
  rw [← hseq] at hk ⊢
  have hknown' : staysKnown x k' := by simpa only [staysKnown, hseq, hspec] using hknown
  obtain ⟨y, hy, hyhost, hs⟩ := complete_numbered hq hk hknown' e st det f
  obtain ⟨d, hd, kept⟩ := endToken_kept (complete c e q k' st det f) e k'
  obtain ⟨z, hz, -, hkey⟩ := kept.find (hd ▸ hy) hyhost
  exact cmdSat_of_cmdsSat hz (hs.congr (congrArg (fun x => x.cmds) hkey))

@[simp] theorem closeRun_seq (c : Chip) (k : Cmd) : (closeRun c k).seq = k.seq := by
  unfold closeRun
  split <;> rfl

@[simp] theorem closeRun_spec (c : Chip) (k : Cmd) : (closeRun c k).spec = k.spec := by
  unfold closeRun
  split <;> rfl

theorem Kept.freeEngines (c : Chip) (q : Nat) (k : Cmd) (tag : Bool) : Kept Machine.lineup c (Machine.freeEngines c q k tag) := by
  simp only [Machine.freeEngines]
  split
  · split
    · refine Kept.trans ?_ (dropRef _ _).lineup
      exact of_core rfl
    · exact of_core rfl
  · exact of_core rfl

theorem endAttempt_seq (c : Chip) (q : Nat) (k : Cmd) (bytes : Nat) (discarded : Bool) : (endAttempt c q k bytes discarded).2.seq = k.seq := by
  simp only [endAttempt]
  split <;> simp

theorem endAttempt_spec (c : Chip) (q : Nat) (k : Cmd) (bytes : Nat) (discarded : Bool) : (endAttempt c q k bytes discarded).2.spec = k.spec := by
  simp only [endAttempt]
  split <;> simp

/-- The end of an attempt on engines makes its accounts and gives its engines up. -/
theorem endAttempt_chip {k : Cmd} (hon : k.onEngine = true) (c : Chip) (q bytes : Nat) (discarded : Bool) :
    Kept lineup c (endAttempt c q k bytes discarded).1 ∧ freed (endAttempt c q k bytes discarded).1 q k.seq := by
  simp only [endAttempt, hon, if_true]
  refine ⟨?_, freed_of_untagged (untagged_updCmd _ _ _ _) ?_⟩
  · refine Kept.trans ?_ (Kept.updCmd (fun _ _ => rfl))
    refine Kept.trans ?_ (Kept.freeEngines _ _ _ _)
    exact (Kept.accrueCyc _ _ _ _ _).trans (Kept.accrueBusy _ _ _ _)
  · rw [← closeRun_seq c k]
    exact freed_freeEngines _ _ _ _

/-- What an attempt on engines is: a command of its queue that holds them. -/
theorem attemptAt_holds {c : Chip} {q n : Nat} {x : Queue} {k : Cmd} (h : attemptAt c q n x k) :
    k.onEngine = true ∧ k.seq = n ∧ k ∈ x.cmds := by
  obtain ⟨hq, hattempt, -⟩ := h
  have found (j : Cmd) (hj : cmdOf c q n = some j) : j.seq = n ∧ j ∈ x.cmds := by
    simp only [cmdOf, hq, Option.bind_some] at hj
    exact ⟨by simpa using List.find?_some hj, List.mem_of_find?_eq_some hj⟩
  unfold attemptOf at hattempt
  split at hattempt
  case h_2 => cases hattempt
  case h_1 j hj =>
    split at hattempt
    case h_3 => cases hattempt
    all_goals
      rename_i hphase
      cases hattempt
      exact ⟨by simp [Cmd.onEngine, hphase], found _ hj⟩

theorem untagged_stampEnd (c : Chip) (k : Cmd) (st : Nat) : untagged (stampEnd c k st) = untagged c := by
  unfold stampEnd
  split <;> simp

theorem syncCore_stampEnd (c : Chip) (k : Cmd) (st : Nat) : syncCore (stampEnd c k st) = syncCore c := by
  unfold stampEnd
  split <;> simp

/-- An engine command ends with its attempt: it says its status, and holds no engine (05 R155, R159). -/
theorem completeEngine_ends {c : Chip} {q n : Nat} {x : Queue} {k : Cmd} (h : attemptAt c q n x k) (e : Env) (st det : Nat)
    (f : Option FaultInfo) :
    cmdSat (completeEngine c e q k st det f) q n (completedWith st) ∧ freed (completeEngine c e q k st det f) q n := by
  obtain ⟨hon, rfl, hmem⟩ := attemptAt_holds h
  obtain ⟨hq, -, hknown⟩ := h
  obtain ⟨hhost, hnext, hsegs⟩ := hknown
  obtain ⟨kept, hfreed⟩ := endAttempt_chip hon c q (movedBytes k) false
  have hseq := endAttempt_seq c q k (movedBytes k) false
  have hspec := endAttempt_spec c q k (movedBytes k) false
  simp only [completeEngine]
  generalize endAttempt c q k (movedBytes k) false = r at kept hfreed hseq hspec ⊢
  constructor
  · obtain ⟨y, hy, hyhost, hkey⟩ := kept.find hq hhost
    have hy' : tget (stampEnd r.1 r.2 st).queues q = some y := by rw [(syncCore_eq_iff.1 (syncCore_stampEnd _ _ _)).2.1, hy]
    have hseqs : y.cmds.map (fun k => k.seq) = x.cmds.map (fun k => k.seq) := congrArg Prod.snd hkey
    have hynext : y.nextSeq = x.nextSeq := congrArg (fun p => p.1.nextSeq) hkey
    have hysegs : y.segs = x.segs := congrArg (fun p => p.1.segs) hkey
    have hthere : ∃ j ∈ y.cmds, j.seq = k.seq := List.mem_map.1 (hseqs ▸ List.mem_map_of_mem hmem)
    rw [← hseq] at hthere ⊢
    refine completeJob_cmdSat hy' hthere ?_ e st det f
    rw [staysKnown, hseq, hspec, hyhost, hynext, hysegs]
    exact ⟨hhost, hnext, hsegs⟩
  · refine freed_of_untagged ?_ hfreed
    simp only [completeJob, untagged_endToken, untagged_complete, untagged_stampEnd]

end Sys2Proof.Machine
end

section
/-! PROOFS. The host link and its functions (03 R96 to R101, 13 R403): what the tenants' part holds after a function comes, goes or is
reset, and a transfer whose host read the link lost. -/

namespace Sys2Proof.Machine

/-! ### Tenants -/

/-- A map of a table's values that may look at the keys. -/
theorem tget_mapKeyed {α β : Type} (t : Tab α) (f : Nat → α → β) (i : Nat) :
    tget (t.map (fun p => (p.1, f p.1 p.2))) i = (tget t i).map (f i) := by
  induction t with
  | nil => rfl
  | cons p r ih =>
    obtain ⟨j, v⟩ := p
    by_cases h : j = i
    · simp [tget, h]
    · simpa [tget, h] using ih

theorem tenantOf_modTenant (c : Chip) (t : Nat) (f : Tenant → Tenant) (i : Nat) :
    tenantOf (modTenant c t f) i = if i = t then f (tenantOf c t) else tenantOf c i := by
  by_cases h : i = t
  · rw [h, tenantOf_modTenant_same, if_pos rfl]
  · rw [if_neg h, tenantOf, modTenant_tenants, tget_tset_other _ _ _ _ (Ne.symm h), tenantOf]

/-- One change of each of the functions 1 to n. -/
theorem tenantOf_modVfs (f : Tenant → Tenant) (n : Nat) (c : Chip) (fn : Nat) :
    tenantOf ((List.range n).foldl (fun c i => modTenant c (i + 1) f) c) fn
      = if 1 ≤ fn ∧ fn ≤ n then f (tenantOf c fn) else tenantOf c fn := by
  induction n with
  | zero => rw [if_neg (by omega)]; rfl
  | succ n ih =>
    rw [List.range_succ, List.foldl_append, List.foldl_cons, List.foldl_nil, tenantOf_modTenant]
    by_cases hlast : fn = n + 1
    · rw [if_pos hlast, if_pos (by omega), ← hlast, ih, if_neg (by omega)]
    · rw [if_neg hlast, ih]
      by_cases hin : 1 ≤ fn ∧ fn ≤ n
      · rw [if_pos hin, if_pos (by omega)]
      · rw [if_neg hin, if_neg (by omega)]

theorem memory_modVfs (f : Tenant → Tenant) (l : List Nat) (c : Chip) : (l.foldl (fun c i => modTenant c (i + 1) f) c).memory = c.memory := by
  induction l generalizing c with
  | nil => rfl
  | cons i r ih => rw [List.foldl_cons, ih, modTenant_memory]

/-! ### The link -/

/-- A link that may train comes up as it trained, and what waited leaves in order (03 R96). -/
theorem linkRises_up {s : State} {speed width : Nat} (hdev : s.chip.dev ≠ .off) (hdown : s.chip.linkUp = false) (hh : s.halter.hclk = true)
    (hs : s.halter.sysclk = true) (hr : s.halter.refclk = true) (hlo : 1 ≤ speed) (hhi : speed ≤ 6) (hw : width ∈ [1, 2, 4, 8, 16]) (flit : Bool) :
    ∃ v, linkRises s speed width flit
      = { s with link := { s.link with speed := speed, width := width, flit := flit },
                 chip := { s.chip with linkUp := true, out := s.chip.out ++ s.chip.heldOut, heldOut := [], ctt := v } } := by
  have hwidth : [1, 2, 4, 8, 16].contains width = true := by simpa using hw
  have hoff : (s.chip.dev == .off) = false := by simpa using hdev
  simp only [linkRises, hoff, hdown, hh, hs, hr, decide_eq_true hlo, decide_eq_true hhi, hwidth, Bool.and_self, Bool.not_true, Bool.or_self,
    Bool.false_eq_true, if_false]
  split
  · exact ⟨_, rfl⟩
  · exact ⟨_, rfl⟩

/-- A link that goes down loses the host reads that the row tells, and what waited for engines then takes those that came free. -/
theorem linkFalls_up {s : State} (h : s.chip.linkUp = true) (lost : List Stop) :
    linkFalls s lost = arbitrated s (lost.foldl (fun c l => loseRead c (envOf s) l) { s.chip with linkUp := false }) := by
  simp only [linkFalls, h, Bool.not_true, Bool.false_eq_true, if_false]
  rfl

/-- A fault finds an attempt that is on its engines. -/
theorem struck_of_attemptOf {c : Chip} {q n : Nat} {k : Cmd} (h : attemptOf c q n = some k) (partner : Bool) : struck k partner = true := by
  unfold attemptOf at h
  split at h
  case h_2 => cases h
  case h_1 =>
    split at h
    case h_3 => cases h
    all_goals
      rename_i hphase
      cases h
      simp [struck, hphase]

/-- A transfer from a HOST object whose read is lost ends with TIMEOUT (03 R96, 13 R387). -/
theorem loseRead_host {c : Chip} {stop : Stop} {k : Cmd} {sm sh dm dh : Nat} {m : MemObj} (h : attemptOf c stop.q stop.seq = some k)
    (hjob : k.job = .outride sm sh dm dh) (hm : tget c.mems sm = some m) (hhost : m.kind = .host) (e : Env) :
    loseRead c e stop = completeEngine c e stop.q k stTimeout 0 (some (faultInfo c 6 3 m.handle 1 0 0)) := by
  simp only [loseRead, h, hjob, hm, hhost, struck_of_attemptOf h, beq_self_eq_true, Bool.and_self, if_true]

/-! ### Functions that come and go -/

theorem vfEnableSet_eq {s : State} {n : Nat} (h : configured s = true) (hvf : s.link.vfEnable = false) (hn : n ≤ 31) :
    vfEnableSet s n = { s with link := { s.link with vfEnable := true, numVfs := n },
                               chip := (List.range n).foldl (fun c i => modTenant c (i + 1) (fun t => { t with present := true })) s.chip } := by
  simp only [vfEnableSet, h, hvf, Nat.not_lt.2 hn, Bool.not_true, decide_false, Bool.or_self, Bool.false_eq_true, if_false]

/-- Whatever the removal of the functions and the arbitration leave, the VFs are then hidden. -/
theorem vfEnableClear_eq {s : State} (h : configured s = true) (hvf : s.link.vfEnable = true) (stops : List Stop) :
    ∃ c, vfEnableClear s stops = { s with link := { s.link with vfEnable := false }, chip := hideVfs c } := by
  simp only [vfEnableClear, onChip, h, hvf, Bool.not_true, Bool.or_self, Bool.false_eq_true, if_false]
  exact ⟨_, rfl⟩

/-- After VF Enable is cleared no VF is present (03 R98). -/
theorem tenantOf_hideVfs (c : Chip) {fn : Nat} (h : fn ≠ 0) : (tenantOf (hideVfs c) fn).present = false := by
  have hfn : (fn == 0) = false := by simpa using h
  rw [tenantOf, hideVfs, tget_mapKeyed c.tenants (fun i x => if i == 0 then x else { x with present := false })]
  cases tget c.tenants fn with
  | none => simpa [Tenant.reset] using h
  | some x => simp [hfn]

/-- A teardown that ends moves TEARDOWN only. -/
theorem tenantOf_settleTeardown (c : Chip) (t : Nat) : ∃ b, tenantOf (settleTeardown c) t = { tenantOf c t with teardown := b } := by
  rw [tenantOf, settleTeardown, tget_mapKeyed c.tenants (fun i x =>
    if x.teardown && (List.range 7).all (fun k => usedOf c i k == 0) then { x with teardown := false } else x), tenantOf]
  cases tget c.tenants t with
  | none => exact ⟨_, rfl⟩
  | some x =>
    simp only [Option.map_some, Option.getD_some]
    split
    · exact ⟨_, rfl⟩
    · exact ⟨_, rfl⟩

/-- A tenant torn down has agreed nothing and has no descriptor (13 R403). -/
theorem tenantOf_teardown (c : Chip) (e : Env) {t : Nat} (ht : t ≠ 0) (stops : List Stop) :
    (tenantOf (teardown c e t stops) t).agreed = none ∧ (tenantOf (teardown c e t stops) t).descs.pages = []
      ∧ ∀ p ∈ (tenantOf (teardown c e t stops) t).descs.slots, p.2.live = none := by
  have hpf : (t == 0) = false := by simpa using ht
  obtain ⟨d, hd⟩ : ∃ d, teardown c e t stops
      = settleTeardown (modTenant (clearTenantCounters (dropDescs d t) t) t (fun x => { x with agreed := none })) := by
    simp only [teardown, hpf, Bool.false_eq_true, if_false]
    exact ⟨_, rfl⟩
  obtain ⟨b, hb⟩ := tenantOf_settleTeardown (modTenant (clearTenantCounters (dropDescs d t) t) t (fun x => { x with agreed := none })) t
  have hdropped : tenantOf (clearTenantCounters (dropDescs d t) t) t = tenantOf (dropDescs d t) t := rfl
  rw [hd, hb, tenantOf_modTenant_same, hdropped, dropDescs, tenantOf_modTenant_same]
  refine ⟨rfl, rfl, fun p hp => ?_⟩
  obtain ⟨p', -, rfl⟩ := List.mem_map.1 hp
  cases hlive : p'.2.live <;> simp [hlive]

/-- The reset of a VF's configuration space: its request channel and MSI-X as after reset, its requests gone (12 R380, 04 R137). -/
theorem tenantOf_resetFunction (c : Chip) (fn : Nat) :
    tenantOf (resetFunction c fn) fn = { tenantOf c fn with
      msix := [], msixEnable := false, functionMask := false, chan := Channel.reset, latch := [], devCtl := 0x2810, aer := [], dbLatch := [] } :=
  tenantOf_modTenant_same _ fn _

theorem arrivals_resetFunction (c : Chip) (fn : Nat) : ∀ f ∈ (resetFunction c fn).arrivals, f ≠ fn := by
  intro f hf
  simpa using (List.mem_filter.1 hf).2

/-- An FLR of a VF that is present tears it down and resets its function. -/
theorem flr_eq {s : State} {fn : Nat} (h : configured s = true) (hlo : 1 ≤ fn) (hhi : fn ≤ 31) (hpresent : (tenantOf s.chip fn).present = true)
    (stops : List Stop) : flr s fn stops = arbitrated s (resetFunction (teardown s.chip (envOf s) fn stops) fn) := by
  have hvf : (fn == 0) = false := by simp; omega
  simp only [flr, h, hvf, Nat.not_lt.2 hhi, hpresent, Bool.not_true, decide_false, Bool.or_self, Bool.false_eq_true, if_false]
  rfl

/-- The size of PF0's BAR2 is taken while its MSE is 0 (03 R101). -/
theorem setBar2Size_pf0 {c : Chip} {log2 : Nat} (hmse : (tenantOf c 0).memSpace = false) (hlo : 28 ≤ log2) (hhi : log2 ≤ 38) :
    setBar2Size c 0 log2 = modTenant c 0 (fun t => { t with bar2Log2 := log2 }) := by
  simp only [setBar2Size, hmse, Nat.not_lt.2 hlo, Nat.not_lt.2 hhi, beq_self_eq_true, decide_false, Bool.or_self, Bool.false_eq_true, if_true,
    if_false]

/-! ### The rows -/

/-- Settles O33: a link that comes up lets out what waited; one that falls ends the transfers that it struck, as the end of an attempt on
engines says; the rows of the functions are read at the tenants that they change. -/
theorem linkAndFunctionEvents : Obligations.LinkAndFunctionEvents := by
  refine ⟨fun s speed width flit hdev hdown hh hs hr hlo hhi hw => ?up, fun s h => ?down, fun s stop x k sm sh dm dh m h hat hjob hm hhost => ?lost,
    fun s n h hvf hn => ?enable, fun s stops h hvf => ?disable, fun s fn stops h hlo hhi hpresent => ?flr, fun s log2 h hmse hlo hhi => ?size⟩
  case up =>
    obtain ⟨v, hrise⟩ := linkRises_up hdev hdown hh hs hr hlo hhi hw flit
    refine ⟨_, rfl, ?_⟩
    rw [hrise]
    exact ⟨rfl, rfl, rfl, rfl, rfl, rfl, rfl⟩
  case down => exact congrArg Host.Outcome.next (linkFalls_up h [])
  case lost =>
    have hat' : attemptAt { s.chip with linkUp := false } stop.q stop.seq x k := hat
    refine ⟨_, congrArg Host.Outcome.next (linkFalls_up h [stop]), ?_⟩
    rw [List.foldl_cons, List.foldl_nil, loseRead_host hat'.2.1 hjob hm hhost]
    exact completeEngine_ends hat' _ _ _ _
  case enable =>
    refine ⟨_, congrArg Host.Outcome.next (vfEnableSet_eq h hvf hn), rfl, fun fn hlo hhi => ?_, fun fn hfn => ?_, memory_modVfs _ _ _⟩
    · rw [tenantOf_modVfs, if_pos ⟨hlo, hhi⟩]
    · rw [tenantOf_modVfs, if_neg (by omega)]
  case disable =>
    obtain ⟨c, hclear⟩ := vfEnableClear_eq h hvf stops
    exact ⟨_, congrArg Host.Outcome.next hclear, rfl, fun fn hlo _ => tenantOf_hideVfs c (by omega)⟩
  case flr =>
    obtain ⟨hagreed, hpages, hslots⟩ := tenantOf_teardown s.chip (envOf s) (t := fn) (by omega) stops
    refine ⟨_, congrArg Host.Outcome.next (flr_eq h hlo hhi hpresent stops), ?_⟩
    rw [tenantOf_resetFunction]
    exact ⟨hagreed, rfl, rfl, rfl, hpages, hslots, arrivals_resetFunction _ _⟩
  case size =>
    refine ⟨onChip s (fun c _ => setBar2Size c 0 log2), congrArg Host.Outcome.next (if_pos (by simp [h])), ?_⟩
    simp only [onChip, setBar2Size_pf0 hmse hlo hhi]
    exact ⟨tenantOf_modTenant_same _ 0 _, fun fn hfn => by rw [tenantOf_modTenant, if_neg hfn]⟩

end Sys2Proof.Machine
end

section
/-! PROOFS. LOAD_PROGRAM (07 R225 to R231): the request is taken with a reference on its source, whose bytes are read once; the verdict on
them either answers it or lets a creation put the program object at the next index. -/

namespace Sys2Proof.Machine

/-! ### What the taking of a request leaves -/

@[simp] theorem setRefs_allocs (c : Chip) (h : Handle) (r : Refs) : (setRefs c h r).allocs = c.allocs := by
  unfold setRefs
  split <;> simp

@[simp] theorem takeRef_allocs (c : Chip) (h : Handle) : (takeRef c h).allocs = c.allocs := by
  unfold takeRef
  split
  · exact setRefs_allocs _ _ _
  · rfl

/-- A request that is taken moves no index space and no memory (02 R81). -/
theorem taken_stores (s : State) (fn : Nat) :
    (taken s fn).chip.allocs = s.chip.allocs ∧ (taken s fn).chip.memory = s.chip.memory := by
  have held (hs : List Handle) (c : Chip) : (hs.foldl takeRef c).allocs = c.allocs ∧ (hs.foldl takeRef c).memory = c.memory := by
    induction hs generalizing c with
    | nil => exact ⟨rfl, rfl⟩
    | cons h r ih => simpa using ih (takeRef c h)
  exact held _ (takeRequest s.chip fn)

/-! ### The operation -/

/-- An index is chosen by the index spaces alone. -/
theorem takeIndex_of_allocs {b c d : Chip} {sp i : Nat} (hb : b.allocs = c.allocs) (h : takeIndex c sp = some (i, d)) :
    takeIndex b sp = some (i, { b with allocs := d.allocs }) := by
  have hspace : allocOf b sp = allocOf c sp := by rw [allocOf, allocOf, hb]
  simp only [takeIndex] at h
  simp only [takeIndex, hspace, hb]
  split at h
  case isTrue hroom =>
    rw [if_pos hroom]
    cases h
    rfl
  case isFalse hroom =>
    rw [if_neg hroom]
    split at h
    case h_1 => cases h
    case h_2 =>
      cases h
      rfl

/-- The counters are none of a quota's concern. -/
theorem quotaRoom_counters (c : Chip) (v : Counters) (t k m : Nat) : quotaRoom { c with counters := v } t k m = quotaRoom c t k m := rfl

/-- A new program object that holds the bytes bs (07 R225). -/
def bornProgram (c : Chip) (fn r : Nat) (bs : List Byte) (h : Handle) : MemObj :=
  { handle := h, owner := rqOwner fn r, refs := firstRefs, kind := .program, double := false, size := bits r 255 192, addr := 0,
    home := homeOf (fieldHandle r 127), stamp := 1, pub := 0, lazy := false, filled := [], born := bornNow c,
    charge := ceilDiv (bits r 255 192) 65536, image := some { bytes := bs, poisoned := [] } }

/-- The container versions that an image lists, none without an image (07 R226). -/
def versionsOf (i : Option FwImage) : List W32 := (i.map (fun i => i.cvers)).getD []

/-- The verdict on the n bytes at a, under the running image and the features of function fn (07 R226, R231). -/
def verdictAt (c : Chip) (e : Env) (fn a n : Nat) : Option Nat :=
  containerVerdict (versionsOf e.image) (featuresOf c fn) (loadDev c a n) n

/-- The request names n readable bytes at a, of device object m, with a sound descriptor and window and no poison (07 R225). -/
structure Loadable (c : Chip) (fn r m a n : Nat) (o : MemObj) : Prop where
  aligned : bits r 191 128 % 64 = 0
  source : deviceObj c (rqOwner fn r) (fieldHandle r 95) = some (m, o)
  home : homeOk c (rqOwner fn r) (fieldHandle r 127) = true
  length : n = bits r 255 192
  inside : bits r 191 128 + n ≤ o.size
  address : a = o.at o.pub (bits r 191 128)
  clean : readPoison c a n = none

/-- LOAD_PROGRAM goes by the verdict on the bytes; the read is counted (07 R225, R226). -/
theorem loadProgram_eq {c : Chip} {fn r m a n : Nat} {o : MemObj} (h : Loadable c fn r m a n o) (e : Env) :
    ∃ v, loadProgram c e fn r = (verdictAt c e fn a n).elim
      (create { c with counters := v } (rqOwner fn r) 4 [(2, 1), (6, ceilDiv n 65536)]
        (fun d i h => (putMem d i (bornProgram d fn r (loadDev c a n) h), 0)))
      (fun code => ({ c with counters := v }, { st := stProgram, det := code, res := 0 })) := by
  obtain ⟨hoff, hsrc, hhome, rfl, hin, rfl, hclean⟩ := h
  obtain ⟨v, hcount⟩ := cntHbm_frame c 64 (o.at o.pub (bits r 191 128)) (bits r 255 192)
  have hfeat : featuresOf { c with counters := v } fn = featuresOf c fn := rfl
  refine ⟨v, ?_⟩
  simp only [loadProgram, hoff, hsrc, hhome, Nat.not_lt.2 hin, requestRead, hclean, hcount, hfeat, bne_self_eq_false, Bool.not_true,
    Bool.false_eq_true, if_false]
  have hverdict : verdictAt c e fn (o.at o.pub (bits r 191 128)) (bits r 255 192) = containerVerdict (versionsOf e.image) _ _ _ := rfl
  rw [hverdict]
  cases e.image
  all_goals
    simp only [versionsOf, Option.map_none, Option.map_some, Option.getD_none, Option.getD_some]
    cases containerVerdict _ _ _ _ <;> rfl

/-- A verdict that names a code answers the request and makes nothing (07 R226). -/
theorem loadProgram_rejected {c : Chip} {e : Env} {fn r m a n code : Nat} {o : MemObj} (h : Loadable c fn r m a n o)
    (hcode : verdictAt c e fn a n = some code) :
    ∃ b, loadProgram c e fn r = (b, { st := stProgram, det := code, res := 0 }) ∧ b.mems = c.mems ∧ b.allocs = c.allocs := by
  obtain ⟨v, hload⟩ := loadProgram_eq h e
  rw [hcode, Option.elim_some] at hload
  exact ⟨_, hload, rfl, rfl⟩

/-- A sound container within its quotas becomes the program object at the next index (07 R225, R230). -/
theorem loadProgram_accepted {c d : Chip} {e : Env} {fn r m a n i : Nat} {o : MemObj} (h : Loadable c fn r m a n o)
    (hsound : verdictAt c e fn a n = none) (hobj : quotaRoom c (rqOwner fn r) 2 1 = true)
    (hbytes : quotaRoom c (rqOwner fn r) 6 (ceilDiv n 65536) = true) (hi : takeIndex c 3 = some (i, d)) :
    ∃ b g, loadProgram c e fn r = (b, okReply (field (mkHandle 4 (reuseOf d 3 i) i).toNat 64 32))
      ∧ b.mems = tset c.mems i (bornProgram g fn r (loadDev c a n) (mkHandle 4 (reuseOf d 3 i) i)) ∧ b.memory = c.memory := by
  obtain ⟨v, hload⟩ := loadProgram_eq h e
  have hquota : [(2, 1), (6, ceilDiv n 65536)].all (fun p => quotaRoom { c with counters := v } (rqOwner fn r) p.1 p.2) = true := by
    simp only [List.all_cons, List.all_nil, quotaRoom_counters, hobj, hbytes, Bool.and_true]
  have htaken : takeIndex { c with counters := v } 3 = some (i, { c with counters := v, allocs := d.allocs }) :=
    takeIndex_of_allocs (c := c) rfl hi
  have hmade := create_eq (ty := 4) (fun d i h => (putMem d i (bornProgram d fn r (loadDev c a n) h), 0)) hquota htaken
  rw [hsound, Option.elim_none] at hload
  exact ⟨_, _, hload.trans hmade, rfl, rfl⟩

/-- Settles O24: the request is answered by the verdict on its bytes, which it has read; where that is none, the creation takes the next
index of the memory objects and puts the program object there. -/
theorem loadProgramFollowsVerdict : Obligations.LoadProgramFollowsVerdict := by
  intro s fn r m n o bs v h hoff hsrc hhome hn hin hclean hbs hv
  have hreadable : Loadable (taken s fn).chip fn r m (o.at o.pub (bits r 191 128)) n o := ⟨hoff, hsrc, hhome, hn, hin, rfl, hclean⟩
  have hverdict : verdictAt (taken s fn).chip (envOf s) fn (o.at o.pub (bits r 191 128)) n = v := by
    rw [hv, hbs, verdictAt]
    cases hrunning : s.farrier.running <;> simp only [envOf, hrunning] <;> rfl
  obtain ⟨hallocs, hmemory⟩ := taken_stores s fn
  constructor
  · intro code hcode
    obtain ⟨c, hload, hmems, hindices⟩ := loadProgram_rejected hreadable (hverdict.trans hcode)
    exact ⟨c, next_served h (congrArg some hload), hmems, hindices.trans hallocs⟩
  · intro i d hsound hobj hbytes hi
    obtain ⟨c, g, hload, hmems, hkept⟩ := loadProgram_accepted hreadable (hverdict.trans hsound) hobj hbytes hi
    refine ⟨c, _, next_served h (congrArg some hload), by rw [hmems]; exact tget_tset_same _ _ _, rfl, rfl, rfl, rfl, hn.symm, ?_, rfl,
      fun j hj => ?_, hkept.trans hmemory⟩
    · rw [hbs]
      rfl
    · rw [hmems, tget_tset_other _ _ _ _ hj.symm]

end Sys2Proof.Machine
end

section
/-! PROOFS. What a failed command says when its attempt ends, to the last field (05 R155, 06 R220, 13 R389, R390): the discard of windows and
the end of a list touch no command that has completed, so the completed command stands as it was put. -/

namespace Sys2Proof.Machine

/-! ### Completed commands of a number -/

/-- Every command numbered n in queue q, if the queue is there, has completed. -/
def doneAt (c : Chip) (q n : Nat) : Prop := ∀ x, tget c.queues q = some x → ∀ k ∈ x.cmds, k.seq = n → k.phase = .completed

/-- Number n has been given out in queue q, and every open window of the queue stands behind it. -/
def beforeWindows (c : Chip) (q n : Nat) : Prop := ∀ x, tget c.queues q = some x → n < x.nextSeq ∧ ∀ g ∈ x.segs, n < g.branch

theorem doneAt.of_kept {c d : Chip} {q n : Nat} (h : doneAt c q n) (kept : Kept (numbered n) c d) : doneAt d q n := by
  intro z hz k hk hkn
  obtain ⟨x, hx, -, hkey⟩ := kept.queues q z hz
  have hkx : k ∈ numbered n x := hkey ▸ mem_numbered.2 ⟨hk, hkn⟩
  exact h x hx k (mem_numbered.1 hkx).1 hkn

theorem doneAt.of_cmdsSat {c : Chip} {q n : Nat} {x : Queue} {P : Cmd → Prop} (hq : tget c.queues q = some x) (h : CmdsSat x n P)
    (hP : ∀ k, P k → k.phase = .completed) : doneAt c q n := by
  intro y hy k hk hkn
  obtain rfl : x = y := by simpa [hq] using hy
  exact hP k (h.2 k hk hkn)

namespace Kept

variable {c : Chip} {q n : Nat}

theorem foldl_mem {α β : Type} {key : Queue → α} {g : Chip → β → Chip} {l : List β} (hg : ∀ b ∈ l, ∀ c, Kept key c (g c b)) (c : Chip) :
    Kept key c (l.foldl g c) := by
  induction l generalizing c with
  | nil => exact refl c
  | cons b r ih => exact (hg b (by simp) c).trans (ih (fun b hb => hg b (List.mem_cons_of_mem _ hb)) _)

/-- Only commands that wait for resources go back (06 R190). -/
theorem demote_done (h : doneAt c q n) : Kept (Machine.numbered n) c (Machine.demote c q) := by
  refine modQueue (fun x hx => ⟨rfl, ?_⟩)
  simp only [Machine.numbered, List.filter_map]
  refine Eq.trans (List.map_congr_left (g := id) (fun k hk => ?_)) ((List.map_id _).trans (List.filter_congr (fun k _ => ?_)))
  · have hkn : k.seq = n := by
      have := (List.mem_filter.1 hk).2
      simp only [Function.comp_apply] at this
      split at this <;> simpa using this
    rw [h x hx k (List.mem_filter.1 hk).1 hkn]
    rfl
  · simp only [Function.comp_apply]
    split <;> rfl

/-- Only unstarted commands of a list leave with it (13 R390). -/
theorem stopList_done (h : doneAt c q n) (s : Nat) : Kept (Machine.numbered n) c (Machine.stopList c q s) := by
  unfold Machine.stopList
  split
  · exact refl c
  · rename_i x hx
    have marked : Kept (Machine.numbered n) c
        (Machine.modQueue c q (fun x => modList x s (fun l => { l with ended := true, ctl := false }))) := modQueue (fun _ _ => ⟨rfl, rfl⟩)
    refine marked.trans (foldl_mem (fun k hk c => (forgetCmd_other (fun hkn => ?_)).numbered) _)
    obtain ⟨hmem, hbody⟩ := List.mem_filter.1 hk
    simp [Cmd.started, h x hx k hmem hkn] at hbody

/-- A queue enters error: its windows close behind the number (06 R221, 13 R389). -/
theorem enterError_done (h : doneAt c q n) (hw : beforeWindows c q n) (code origin : Nat) :
    Kept (Machine.numbered n) c (Machine.enterError c q code origin) := by
  unfold Machine.enterError
  split
  · exact refl c
  · refine ite (refl c) ?_
    have marked : Kept (Machine.numbered n) c (Machine.modQueue c q (fun x => { x with err := some (code, origin) })) :=
      modQueue (fun _ _ => ⟨rfl, rfl⟩)
    have shut := marked.trans (discardWindows_after (fun y hy => by
      rw [tget_modQueue, if_pos rfl] at hy
      obtain ⟨x, hx, rfl⟩ := Option.map_eq_some_iff.1 hy
      exact hw x hx))
    exact shut.trans (demote_done (h.of_kept shut))

theorem takeFailure_done (h : doneAt c q n) (hw : beforeWindows c q n) (k : Cmd) : Kept (Machine.numbered n) c (Machine.takeFailure c q k) := by
  have entered := enterError_done h hw k.status (originOf c (ctxOfQueue c q) k)
  simp only [Machine.takeFailure]
  split
  · exact entered.trans (stopList_done (h.of_kept entered) _)
  · exact entered

end Kept

/-! ### The completed command stands -/

/-- A completion, with whatever status: what the command then is stands in a queue that the host still holds (05 R155). -/
theorem complete_stands {c : Chip} {q : Nat} {x : Queue} {k : Cmd} (hq : tget c.queues q = some x) (hk : ∃ j ∈ x.cmds, j.seq = k.seq)
    (hknown : staysKnown x k) (e : Env) (st det : Nat) (f : Option FaultInfo) :
    ∃ y, tget (complete c e q k st det f).queues q = some y ∧ y.refs.host ≠ 0
      ∧ CmdsSat y k.seq (fun i => i = completed c e q k st det f) := by
  obtain ⟨hhost, hnext, hsegs⟩ := hknown
  have put := QueueWork.updCmd hq k.seq (fun _ => completed c e q k st det f)
  have hs : CmdsSat (modCmd x k.seq (fun _ => completed c e q k st det f)) k.seq (fun i => i = completed c e q k st det f) :=
    cmdsSat_modCmd hk rfl rfl
  have hdone := doneAt.of_cmdsSat put.queue hs (fun i hi => by rw [hi]; rfl)
  have find {d : Chip} (kept : Kept (numbered k.seq) (updCmd c q k.seq (fun _ => completed c e q k st det f)) d) :
      ∃ y, tget d.queues q = some y ∧ y.refs.host ≠ 0 ∧ CmdsSat y k.seq (fun i => i = completed c e q k st det f) := by
    obtain ⟨y, hy, hyhost, hkey⟩ := kept.find put.queue hhost
    exact ⟨y, hy, by rwa [hyhost], hs.of_numbered hkey⟩
  cases hst : isFailure st with
  | false =>
    rw [complete_ok hst]
    exact find (Kept.refl _)
  | true =>
    rw [complete_failure hst]
    split
    case isTrue hspec =>
      refine find (Kept.takeFailure_done hdone (fun y hy => ?_) _)
      rw [put.queue] at hy
      cases hy
      exact ⟨hnext, hsegs (by simpa using hspec)⟩
    case isFalse => exact find (Kept.demote_done hdone)

/-- COMPLETED with a status and a DETAIL (05 R155). -/
def endedWith (st det : Nat) (k : Cmd) : Prop := completedWith st k ∧ k.detail = det

theorem completeJob_ends {c : Chip} {q : Nat} {x : Queue} {k : Cmd} (hq : tget c.queues q = some x) (hk : ∃ j ∈ x.cmds, j.seq = k.seq)
    (hknown : staysKnown x k) (e : Env) (st det : Nat) (f : Option FaultInfo) :
    cmdSat (completeJob c e q k st det f) q k.seq (endedWith st det) := by
  simp only [completeJob]
  generalize hk' : ({ k with engineNs := _ } : Cmd) = k'
  obtain ⟨hseq, hspec⟩ : k'.seq = k.seq ∧ k'.spec = k.spec := by rw [← hk']; exact ⟨rfl, rfl⟩
  rw [← hseq] at hk ⊢
  have hknown' : staysKnown x k' := by simpa only [staysKnown, hseq, hspec] using hknown
  obtain ⟨y, hy, hyhost, hs⟩ := complete_stands hq hk hknown' e st det f
  obtain ⟨d, hd, kept⟩ := endToken_kept (complete c e q k' st det f) e k'
  obtain ⟨z, hz, -, hkey⟩ := kept.find (hd ▸ hy) hyhost
  obtain ⟨i, hi, rfl⟩ := cmdSat_of_cmdsSat hz (hs.congr (congrArg (fun x => x.cmds) hkey))
  exact ⟨_, hi, completedWith_completed _ _ _ _ _ _ _, rfl⟩

/-! ### The end of an attempt -/

/-- The command k of queue x is on its engines and bears the number n of a command there, where it stays known; its own entry in the queue
may lag behind it. -/
structure OnEngines (c : Chip) (q n : Nat) (x : Queue) (k : Cmd) : Prop where
  queue : tget c.queues q = some x
  entry : ∃ j ∈ x.cmds, j.seq = n
  seq : k.seq = n
  holds : k.onEngine = true
  known : staysKnown x k

theorem OnEngines.of_attemptAt {c : Chip} {q n : Nat} {x : Queue} {k : Cmd} (h : attemptAt c q n x k) : OnEngines c q n x k := by
  obtain ⟨hon, hseq, hmem⟩ := attemptAt_holds h
  obtain ⟨hq, -, hknown⟩ := h
  exact ⟨hq, ⟨k, hmem, hseq⟩, hseq, hon, hknown⟩

/-- Work that keeps the queues' line-up, and the command's number, window and phase, leaves the command on its engines. -/
theorem OnEngines.of_kept {c d : Chip} {q n : Nat} {x : Queue} {k j : Cmd} (h : OnEngines c q n x k) (kept : Kept lineup c d)
    (hseq : j.seq = k.seq) (hspec : j.spec = k.spec) (hon : j.onEngine = true) : ∃ y, OnEngines d q n y j := by
  obtain ⟨hq, ⟨i, hi, hin⟩, hkn, -, hhost, hnext, hsegs⟩ := h
  obtain ⟨y, hy, hyhost, hkey⟩ := kept.find hq hhost
  have hseqs : y.cmds.map (fun k => k.seq) = x.cmds.map (fun k => k.seq) := congrArg Prod.snd hkey
  have hynext : y.nextSeq = x.nextSeq := congrArg (fun p => p.1.nextSeq) hkey
  have hysegs : y.segs = x.segs := congrArg (fun p => p.1.segs) hkey
  refine ⟨y, hy, ?_, hseq.trans hkn, hon, ?_⟩
  · exact List.mem_map.1 (hseqs ▸ hin ▸ List.mem_map_of_mem hi)
  · rw [staysKnown, hseq, hspec, hyhost, hynext, hysegs]
    exact ⟨hhost, hnext, hsegs⟩

/-- An engine command ends with its attempt: it says its status and DETAIL, and holds no engine (05 R155, R159). -/
theorem OnEngines.completeEngine {c : Chip} {q n : Nat} {x : Queue} {k : Cmd} (h : OnEngines c q n x k) (e : Env) (st det : Nat)
    (f : Option FaultInfo) :
    freed (completeEngine c e q k st det f) q n ∧ cmdSat (completeEngine c e q k st det f) q n (endedWith st det) := by
  obtain rfl := h.seq
  obtain ⟨kept, hfreed⟩ := endAttempt_chip h.holds c q (movedBytes k) false
  have hseq := endAttempt_seq c q k (movedBytes k) false
  have hspec := endAttempt_spec c q k (movedBytes k) false
  simp only [Machine.completeEngine]
  generalize endAttempt c q k (movedBytes k) false = r at kept hfreed hseq hspec ⊢
  constructor
  · refine freed_of_untagged ?_ hfreed
    simp only [completeJob, untagged_endToken, untagged_complete, untagged_stampEnd]
  · have stamped : Kept lineup c (stampEnd r.1 r.2 st) := kept.trans (Kept.of_core (syncCore_stampEnd _ _ _))
    obtain ⟨y, hy⟩ := h.of_kept stamped rfl rfl h.holds
    rw [← hseq]
    refine completeJob_ends hy.queue (hseq ▸ hy.entry) ?_ e st det f
    simpa only [staysKnown, hseq, hspec] using hy.known

/-- The same, where no word is said of its DETAIL. -/
theorem OnEngines.completeEngine_status {c : Chip} {q n : Nat} {x : Queue} {k : Cmd} (h : OnEngines c q n x k) (e : Env) (st det : Nat)
    (f : Option FaultInfo) :
    freed (Machine.completeEngine c e q k st det f) q n ∧ cmdSat (Machine.completeEngine c e q k st det f) q n (completedWith st) := by
  obtain ⟨hfreed, i, hi, hst, -⟩ := h.completeEngine e st det f
  exact ⟨hfreed, i, hi, hst⟩

end Sys2Proof.Machine
end

section
/-! PROOFS. What a launch's body leaves of its command (07 R236 to R243): words write scratch, memory, counters and the registers of clusters,
and of the command what it has accrued, logged and written; its number, its window and its phase stay, and so does the line-up of the queues. -/

namespace Sys2Proof.Machine

/-- From p to r the line-up of the queues stays, and the command keeps its number, window and phase. -/
structure SameAttempt (p r : Chip × Cmd) : Prop where
  kept : Kept lineup p.1 r.1
  seq : r.2.seq = p.2.seq
  spec : r.2.spec = p.2.spec
  phase : r.2.phase = p.2.phase

theorem OnEngines.of_same {c : Chip} {q n : Nat} {x : Queue} {k : Cmd} {r : Chip × Cmd} (h : OnEngines c q n x k) (same : SameAttempt (c, k) r) :
    ∃ y, OnEngines r.1 q n y r.2 := by
  refine h.of_kept same.kept same.seq same.spec ?_
  rw [Cmd.onEngine, same.phase]
  exact h.holds

/-! ### Stores of an attempt -/

theorem syncCore_emitHost (c : Chip) (o : Output) : syncCore (emitHost c o) = syncCore c := by
  unfold emitHost
  split <;> rfl

theorem syncCore_hostWrites (c : Chip) (fn a : Nat) (bs : List Byte) (outrider : Bool) : syncCore (hostWrites c fn a bs outrider) = syncCore c :=
  syncCore_foldl (fun _ _ => syncCore_emitHost _ _) _ _

theorem syncCore_objStore (c : Chip) (m half off : Nat) (bs : List Byte) : syncCore (objStore c m half off bs) = syncCore c := by
  unfold objStore
  split
  · exact syncCore_storeDev _ _ _
  · rfl

theorem Kept.noteRead (c : Chip) (q : Nat) (k : Cmd) (m : MemObj) (half off n : Nat) :
    Kept Machine.lineup c (Machine.noteRead c q k m half off n) :=
  ite (refl c) ((of_core (syncCore_cntHbm _ _ _ _)).trans (cntCmd _ _ _ _ _ _ _))

theorem Kept.noteWrite (c : Chip) (q : Nat) (k : Cmd) (m : MemObj) (n : Nat) : Kept Machine.lineup c (Machine.noteWrite c q k m n) :=
  ite (refl c) (cntCmd _ _ _ _ _ _ _)

namespace SameAttempt

variable {p r w : Chip × Cmd} {c d : Chip} {k : Cmd}

theorem refl (p : Chip × Cmd) : SameAttempt p p := ⟨Kept.refl _, rfl, rfl, rfl⟩

theorem trans (h : SameAttempt p r) (g : SameAttempt r w) : SameAttempt p w :=
  ⟨h.kept.trans g.kept, g.seq.trans h.seq, g.spec.trans h.spec, g.phase.trans h.phase⟩

theorem of_kept (h : Kept lineup c d) : SameAttempt (c, k) (d, k) := ⟨h, rfl, rfl, rfl⟩

theorem of_core (h : syncCore d = syncCore c) : SameAttempt (c, k) (d, k) := of_kept (Kept.of_core h)

theorem foldl {α : Type} {g : Chip × Cmd → α → Chip × Cmd} (hg : ∀ p a, SameAttempt p (g p a)) (l : List α) (p : Chip × Cmd) :
    SameAttempt p (l.foldl g p) := by
  induction l generalizing p with
  | nil => exact refl p
  | cons a r ih => exact (hg p a).trans (ih _)

theorem writeScratch (c : Chip) (k : Cmd) (carried i off : Nat) (bs : List Byte) : SameAttempt (c, k) (writeScratch c k carried i off bs) := by
  unfold Machine.writeScratch
  split
  · exact refl _
  · refine foldl (fun p line => ?_) _ _
    refine ⟨Kept.of_core rfl, ?_, ?_, ?_⟩
    all_goals
      dsimp only
      split <;> rfl

theorem scratchRead (c : Chip) (q : Nat) (k : Cmd) (carried p off len : Nat) :
    SameAttempt (c, k) ((scratchRead c q k carried p off len).1, (scratchRead c q k carried p off len).2.1) :=
  ⟨(Kept.cntCmdFix _ _ _ _ _).trans (Kept.cntCmd _ _ _ _ _ _ _), rfl, rfl, rfl⟩

theorem attemptWrite (c : Chip) (q : Nat) (k : Cmd) (m half off : Nat) (bs : List Byte) :
    SameAttempt (c, k) (attemptWrite c q k m half off bs) := by
  unfold Machine.attemptWrite
  split
  · exact refl _
  · split
    · exact refl _
    · rename_i o _
      have stored : syncCore (if o.kind == .device then objStore c m half off bs
          else hostWrites c k.owner (o.addr + off) bs (k.opcode == opOutride)) = syncCore c := by
        split
        · exact syncCore_objStore _ _ _ _ _
        · exact syncCore_hostWrites _ _ _ _ _
      have noted : SameAttempt (c, k) (c, noteSpec k o half off bs.length) := by
        unfold noteSpec
        split
        · exact ⟨Kept.refl _, rfl, rfl, rfl⟩
        · exact refl _
      refine noted.trans ⟨(Kept.of_core stored).trans (Kept.noteWrite _ _ _ _ _), ?_, ?_, ?_⟩
      all_goals
        simp only [markWrite]
        cases cmdOf _ q (noteSpec k o half off bs.length).seq <;> rfl

theorem argRead (c : Chip) (q : Nat) (k : Cmd) (args : List ArgVal) (i off len : Nat) :
    SameAttempt (c, k) ((argRead c q k args i off len).1, (argRead c q k args i off len).2.1) := by
  unfold Machine.argRead
  split
  · split
    · exact refl _
    · refine ⟨?_, rfl, rfl, rfl⟩
      dsimp only
      split
      · exact Kept.noteRead _ _ _ _ _ _ _
      · exact Kept.refl _
  · exact refl _

theorem argWrite (c : Chip) (q : Nat) (k : Cmd) (args : List ArgVal) (i off : Nat) (bs : List Byte) :
    SameAttempt (c, k) ((argWrite c q k args i off bs).1, (argWrite c q k args i off bs).2.1) := by
  unfold Machine.argWrite
  split
  · split
    · exact refl _
    · split
      · exact refl _
      · exact attemptWrite _ _ _ _ _ _ _
  · exact refl _

/-! ### Words and bodies -/

theorem setClusterCore (c : Chip) (k : Cmd) (p : Nat) (x : Core) : SameAttempt (c, k) (setClusterCore c p x, k) := of_core rfl

theorem wordOn (c : Chip) (q : Nat) (k : Cmd) (l : Launch) (i p : Nat) (w : BodyOp × W32) :
    SameAttempt (c, k) ((wordOn c q k l i p w).1, (wordOn c q k l i p w).2.1) := by
  simp only [Machine.wordOn]
  split
  case h_1 => exact refl _
  case h_2 =>
    split
    case h_1 => exact (scratchRead _ _ _ _ _ _ _).trans (setClusterCore _ _ _ _)
    case h_2 =>
      split
      · exact refl _
      · exact writeScratch _ _ _ _ _ _
    case h_3 =>
      split
      · exact argRead _ _ _ _ _ _ _
      · exact (argRead _ _ _ _ _ _ _).trans (setClusterCore _ _ _ _)
    case h_4 => exact argWrite _ _ _ _ _ _ _
    case h_5 => exact setClusterCore _ _ _ _

theorem runCluster (q : Nat) (l : Launch) (i p n : Nat) (c : Chip) (k : Cmd) :
    SameAttempt (c, k) ((runCluster q l i p n c k).1, (runCluster q l i p n c k).2.1) := by
  induction n generalizing c k with
  | zero => exact refl _
  | succ n ih =>
    simp only [Machine.runCluster]
    split
    · exact refl _
    · split
      · exact setClusterCore _ _ _ _
      · have word := wordOn c q k l i p
        split
        · exact (word _).trans (ih _ _)
        · exact word _

theorem runClusters (q : Nat) (l : Launch) (ws : List (Nat × Nat)) (c : Chip) (k : Cmd) :
    SameAttempt (c, k) ((runClusters q l ws c k).1, (runClusters q l ws c k).2.1) := by
  induction ws generalizing c k with
  | nil => exact refl _
  | cons w ws ih =>
    simp only [Machine.runClusters]
    split
    · exact ih _ _
    · rename_i x _
      have ran := runCluster q l x.1 x.2 w.2 c k
      split
      · exact ran.trans (ih _ _)
      · exact ran

/-- The body of a launch, up to an event. -/
theorem runBody (c : Chip) (q : Nat) (k : Cmd) (run : BodyRun) : SameAttempt (c, k) ((runBody c q k run).1, (runBody c q k run).2.1) := by
  unfold Machine.runBody
  split
  · exact refl _
  · exact (runClusters q _ run.words c k).trans ⟨Kept.refl _, rfl, rfl, rfl⟩

/-! ### Frames -/

theorem pushFrame (c : Chip) (k : Cmd) (l : Launch) (h : Shadow) : SameAttempt (c, k) (pushFrame c k l h) := by
  unfold Machine.pushFrame
  split
  · split
    · exact writeScratch _ _ _ _ _ _
    · exact refl _
  · split
    · exact of_core rfl
    · exact refl _

end SameAttempt

/-! ### Exceptions and traps -/

/-- The frames of the halted cores are pushed; then the launch ends (07 R246 to R248). -/
theorem exceptionEnd_pushed {c : Chip} {q n : Nat} {x : Queue} {k : Cmd} (h : OnEngines c q n x k) (l : Launch) (vs : List Shadow) :
    ∃ y, OnEngines (vs.foldl (fun s v => pushFrame s.1 s.2 l v) (c, k)).1 q n y (vs.foldl (fun s v => pushFrame s.1 s.2 l v) (c, k)).2 :=
  h.of_same (SameAttempt.foldl (fun s v => SameAttempt.pushFrame s.1 s.2 l v) vs (c, k))

/-- Every stack pointer is valid: PROGRAM_FAULT with the cause of the first (07 R245, R248). -/
theorem exceptionEnd_valid {c : Chip} {q n : Nat} {x : Queue} {k : Cmd} (h : OnEngines c q n x k) (e : Env) (l : Launch) (w : Shadow)
    (r : List Shadow) (hsp : ∀ v ∈ w :: r, spValid l.image v.sp.toNat = true) :
    freed (exceptionEnd c e q k l w r) q n ∧ cmdSat (exceptionEnd c e q k l w r) q n (endedWith stProgram w.cause) := by
  obtain ⟨y, hy⟩ := exceptionEnd_pushed h l (w :: r)
  simp only [exceptionEnd, if_pos (List.all_eq_true.2 hsp)]
  exact hy.completeEngine e stProgram w.cause _

/-- A stack pointer is not valid: DOUBLE_FAULT (07 R247, R248). -/
theorem exceptionEnd_double {c : Chip} {q n : Nat} {x : Queue} {k : Cmd} (h : OnEngines c q n x k) (e : Env) (l : Launch) (w : Shadow)
    (r : List Shadow) (hsp : ∃ v ∈ w :: r, spValid l.image v.sp.toNat = false) :
    freed (exceptionEnd c e q k l w r) q n ∧ cmdSat (exceptionEnd c e q k l w r) q n (completedWith stDouble) := by
  obtain ⟨y, hy⟩ := exceptionEnd_pushed h l (w :: r)
  have hbad : ¬ (w :: r).all (fun v => spValid l.image v.sp.toNat) = true := by
    rw [Bool.not_eq_true, List.all_eq_false]
    simpa using hsp
  simp only [exceptionEnd, if_neg hbad]
  exact hy.completeEngine_status e stDouble 0 _

/-- The row of an event of a command on its engines. -/
theorem next_attemptAt {s : State} {q seq : Nat} {x : Queue} {k : Cmd} (h : attemptAt s.chip q seq x k) (f : Chip → Env → Queue → Cmd → Chip) :
    (.next (onAttempt s q seq f) : Host.Outcome State Fault Refusal) = .next (arbitrated s (f s.chip (envOf s) x k)) := by
  rw [onAttempt_attemptAt h]

section
variable {c d : Chip} {q : Nat} {k j : Cmd} {run : BodyRun} {l : Launch}

/-- Cores halt after a body whose other words completed. -/
theorem coreHalts_eq {halts : List CoreHalt} {w : Shadow} {r : List Shadow} (hl : launchOf c k = some l) (hrun : runBody c q k run = (d, j, .ok))
    (hw : (halts.foldr (insertHalt k) []).filterMap (haltShadow d j l) = w :: r) (e : Env) :
    coreHalts c e q k halts run = exceptionEnd d e q j l w r := by
  simp only [coreHalts, hl, hrun, hw]

theorem yieldExceeded_eq {i : Nat} {p : Nat × Nat} (hl : launchOf c k = some l) (hrun : runBody c q k run = (d, j, .ok))
    (hp : (launchClusters d k.teams).find? (fun y => y.1 == i) = some p) (hlate : (clusterCore d p.2).yieldAt + 131072 ≤ cycleNow d)
    (e : Env) (off : W32) : yieldExceeded c e q k i off run = exceptionEnd d e q j l (shadowOf d j i p.2 off 0x43 0) [] := by
  simp only [yieldExceeded, hl, hrun, hp, if_neg (Nat.not_lt.2 hlate)]

/-- Only a launch has a program's launch data. -/
theorem isLaunchJob_of_launchOf (hl : launchOf c k = some l) : isLaunchJob k := by
  unfold launchOf at hl
  split at hl
  case h_1 prog teams carried scratch args si so seed mask safe hjob => exact ⟨prog, teams, carried, scratch, args, si, so, seed, mask, safe, hjob⟩
  case h_2 => cases hl

theorem launchTrap_eq (hl : launchOf c k = some l) (hrun : runBody c q k run = (d, j, .ok)) (htrap : trapped j = true) (e : Env) :
    launchTrap c e q k run = trapEnd d e q j := by
  obtain ⟨prog, teams, carried, scratch, args, si, so, seed, mask, safe, hjob⟩ := isLaunchJob_of_launchOf hl
  simp only [launchTrap, hjob, hrun, afterRun, htrap, if_true]

end

/-- Settles O57: the body leaves the launch on its engines; each event then ends its attempt with the status that its cores' stack pointers,
its yield spacing or its flags give. -/
theorem launchesEndByException : Obligations.LaunchesEndByException := by
  intro s q seq x k j run l d hat hl hrun
  have hran : ∃ y, OnEngines d q seq y j := by
    have ran := (OnEngines.of_attemptAt hat).of_same (SameAttempt.runBody s.chip q k run)
    rwa [hrun] at ran
  obtain ⟨y, hy⟩ := hran
  refine ⟨fun halts w r hw => ⟨fun hsp => ?valid, fun hsp => ?double⟩, fun i off p hp hlate => ?yield, fun htrap => ?trap⟩
  case valid =>
    refine ⟨_, next_attemptAt hat _, ?_⟩
    rw [coreHalts_eq hl hrun hw]
    exact exceptionEnd_valid hy _ l w r hsp
  case double =>
    refine ⟨_, next_attemptAt hat _, ?_⟩
    rw [coreHalts_eq hl hrun hw]
    exact exceptionEnd_double hy _ l w r hsp
  case yield =>
    refine ⟨_, next_attemptAt hat _, ?_⟩
    rw [yieldExceeded_eq hl hrun hp hlate]
    split
    case isTrue hsp => exact exceptionEnd_valid hy _ l _ [] (List.forall_mem_singleton.2 hsp)
    case isFalse hsp => exact exceptionEnd_double hy _ l _ [] ⟨_, List.mem_singleton_self _, (Bool.not_eq_true _).mp hsp⟩
  case trap =>
    refine ⟨_, next_attemptAt hat _, ?_⟩
    rw [launchTrap_eq hl hrun htrap]
    exact hy.completeEngine_status _ stTrap 0 _

end Sys2Proof.Machine
end

section
/-! PROOFS. The background filler (10 R315): with one memory object that is still pending, the next fill zeroes the object's first pending
granule and marks it filled. -/

namespace Sys2Proof.Machine

/-- A fill marks its granule in the object, whatever else it does to memory and the counters. -/
theorem fillAt_mems {c : Chip} {m : Nat} {o : MemObj} (ho : tget c.mems m = some o) (g a n : Nat) :
    (fillAt c m g a n).mems = tset c.mems m { o with filled := insertNat o.filled g } := by
  obtain ⟨d, hzero⟩ := zeroDev_frame c a n
  obtain ⟨v, hcount⟩ := cntHbm_frame (cntFix (zeroDev c a n) 17 1) 72 a n
  have hmems : (cntHbm (cntFix (zeroDev c a n) 17 1) 72 a n).mems = c.mems := by rw [hcount, cntFix_mems, hzero]
  simp only [fillAt, modMem, hmems, ho]

theorem fillGranule_pending {c : Chip} {m g : Nat} {o : MemObj} (ho : tget c.mems m = some o) (hlazy : o.lazy = true)
    (hpend : o.filled.contains g = false) : fillGranule c m g = fillAt c m g (o.addr + g * 65536) 65536 := by
  simp only [fillGranule, ho, hlazy, hpend, Bool.not_true, Bool.or_self, Bool.false_eq_true, if_false]

/-- The only memory object is the oldest one, and its first pending granule is filled. -/
theorem fillNext_single {c : Chip} {m g : Nat} {o : MemObj} (hmems : c.mems = [(m, o)]) (hlazy : o.lazy = true)
    (hleft : o.filled.length < o.span / 65536) (hfirst : (List.range (o.span / 65536)).find? (fun i => !o.filled.contains i) = some g) :
    fillNext c = fillAt c m g (o.addr + g * 65536) 65536 := by
  have ho : tget c.mems m = some o := by simp [hmems, tget]
  have hpend : o.filled.contains g = false := by simpa using List.find?_some hfirst
  have hold : c.mems.filter (fun p => p.2.lazy && p.2.filled.length < p.2.span / 65536) = [(m, o)] := by simp [hmems, hlazy, hleft]
  simp only [fillNext, hold, List.foldl_cons, List.foldl_nil, hfirst, fillGranule_pending ho hlazy hpend]

theorem exec_backgroundFill {s : State} (h : s.halter.power = .active ∨ s.halter.power = .idle) :
    exec .backgroundFill s = .next (onChip s (fun c _ => fillNext c)) := by
  have hworks : (s.halter.power == .active || s.halter.power == .idle) = true := by simpa using h
  simp only [exec, execBackgroundFill, hworks, if_true]

/-- Settles O12: the filler takes the object's first pending granule; its fill clears the granule's range and marks it. -/
theorem backgroundFillZeroesOneGranule : Obligations.BackgroundFillZeroesOneGranule := by
  intro s m g o hpower hmems hlazy hleft hfirst
  have ho : tget s.chip.mems m = some o := by simp [hmems, tget]
  refine ⟨_, exec_backgroundFill hpower, fun x => ?_, ?_⟩
  · rw [onChip_chip, fillNext_single hmems hlazy hleft hfirst, hbm_fillAt, readByte_clearRange]
  · rw [onChip_chip, fillNext_single hmems hlazy hleft hfirst, fillAt_mems ho, hmems]
    simp [tset]

end Sys2Proof.Machine
end

section
/-! PROOFS. Errors found in memory (10 R323 to R326): the record of an error touches the error queue and Rein alone, the counts of a day
are lists of keys and times, and a patrol's finding is the error itself. -/

namespace Sys2Proof.Machine

/-! ### Records and checkpoints -/

theorem contains_insertNat_self (l : List Nat) (k : Nat) : (insertNat l k).contains k = true := by
  rw [contains_insertNat, beq_self_eq_true, Bool.or_true]

@[simp] theorem checkpoint_memory (c : Chip) (e : Env) : (checkpoint c e).memory = c.memory := by unfold checkpoint; split <;> rfl
@[simp] theorem checkpoint_queues (c : Chip) (e : Env) : (checkpoint c e).queues = c.queues := by unfold checkpoint; split <;> rfl
@[simp] theorem checkpoint_clock (c : Chip) (e : Env) : (checkpoint c e).clock = c.clock := by unfold checkpoint; split <;> rfl
@[simp] theorem checkpoint_errq (c : Chip) (e : Env) : (checkpoint c e).errq = c.errq := by unfold checkpoint; split <;> rfl
@[simp] theorem checkpoint_counters (c : Chip) (e : Env) : (checkpoint c e).counters = c.counters := by unfold checkpoint; split <;> rfl

theorem raiseSource_frame (c : Chip) (i : Nat) : ∃ r, raiseSource c i = { c with rein := r } := by
  simp only [raiseSource, pendHost, pendCore]
  split
  · exact ⟨c.rein, rfl⟩
  · split <;> split <;> exact ⟨_, rfl⟩

theorem postGlobalErr_frame (c : Chip) (r : ErrRec) (n : W32) :
    ∃ q x, postGlobalErr c r n = { c with errq := q, rein := x } ∧ q.seq = c.errq.seq := by
  have raised (q : ErrorQueue) (hseq : q.seq = c.errq.seq) :
      ∃ q' x, raiseSource { c with errq := q } 0 = { c with errq := q', rein := x } ∧ q'.seq = c.errq.seq := by
    obtain ⟨x, hx⟩ := raiseSource_frame { c with errq := q } 0
    exact ⟨q, x, hx, hseq⟩
  simp only [postGlobalErr]
  split
  · exact raised _ rfl
  · split
    · exact ⟨c.errq, c.rein, rfl, rfl⟩
    · exact raised _ rfl

/-- No tenant has a copy of a record if its tenant, if any, has set no error ring. -/
theorem postTenantErr_of_no_ring {c : Chip} {r : ErrRec} (h : ∀ t, r.tenant = some t → (tenantOf c t).errorRing = none) (n : W32) :
    postTenantErr c r n = c := by
  cases ht : r.tenant with
  | none => simp only [postTenantErr, ht]
  | some t => simp only [postTenantErr, ht, h t ht]

/-- A record with no tenant's copy takes the next SEQ, and touches the error queue and Rein alone. -/
theorem postError_frame {c : Chip} {r : ErrRec} (h : ∀ t, r.tenant = some t → (tenantOf c t).errorRing = none) :
    ∃ q x, postError c r = { c with errq := q, rein := x } ∧ q.seq = c.errq.seq + 1 := by
  have hcopy := postTenantErr_of_no_ring (c := { c with errq := { c.errq with seq := c.errq.seq + 1 } })
    (r := { r with gait := if r.gait == 0 then c.gait else r.gait }) h c.errq.seq
  simp only [postError, hcopy]
  exact postGlobalErr_frame _ _ _

theorem mem_of_tget {α : Type} {t : Tab α} {k : Nat} {v : α} (h : tget t k = some v) : (k, v) ∈ t := by
  induction t with
  | nil => cases h
  | cons p r ih =>
    obtain ⟨i, w⟩ := p
    by_cases hi : i = k
    · simp_all [tget]
    · exact List.mem_cons_of_mem _ (ih (by simpa [tget, hi] using h))

/-- A function that the table of tenants does not list has set no ring either. -/
theorem errorRing_of_all_none {c : Chip} (h : c.tenants.all (fun p => p.2.errorRing.isNone) = true) (t : Nat) :
    (tenantOf c t).errorRing = none := by
  cases ht : tget c.tenants t with
  | none => simp [tenantOf, ht, Tenant.reset]
  | some x => simpa [tenantOf, ht] using List.all_eq_true.1 h _ (mem_of_tget ht)

/-! ### Uncorrectable errors -/

/-- A line is detected, at the latest now; a first detection posts a record. -/
theorem detectPoison_frame {c : Chip} (h : ∀ t, (tenantOf c t).errorRing = none) (line loc : Nat) :
    ∃ d q x, detectPoison c line loc = { c with memory := { c.memory with detected := d }, errq := q, rein := x }
      ∧ d.contains line = true := by
  simp only [detectPoison]
  split
  case isTrue hknown => exact ⟨c.memory.detected, c.errq, c.rein, rfl, hknown⟩
  case isFalse =>
    have posted (r : ErrRec) := postError_frame (c := { c with memory := { c.memory with detected := insertNat c.memory.detected line } })
      (r := r) (fun t _ => h t)
    exact ⟨_, (posted _).imp fun q => Exists.imp fun x hx => ⟨hx.1, contains_insertNat_self _ _⟩⟩

/-- Errors of the last 24 hours with key n. -/
def countToday (c : Chip) (log : List (Nat × Nat)) (n : Nat) : Nat :=
  (log.filter (fun p => c.clock < p.2 + day)).countP (fun p => p.1 == n)

/-- Up to the third error in a day, a channel's errors are only logged. -/
theorem countUe_few {c : Chip} {s ch : Nat} (h : countToday c c.memory.ueLog (32 * s + ch) < 3) (e : Env) :
    countUe c e s ch = checkpoint { c with memory := { c.memory with
      ueLog := (32 * s + ch, c.clock) :: c.memory.ueLog.filter (fun p => c.clock < p.2 + day) } } e := by
  have hfew : ¬ 4 ≤ ((32 * s + ch, c.clock) :: c.memory.ueLog.filter (fun p => c.clock < p.2 + day)).countP
      (fun p => p.1 == 32 * s + ch) := by
    rw [countToday] at h
    rw [List.countP_cons_of_pos (by simp)]
    omega
  simp only [countUe, if_neg hfew]

/-- A line newly poisoned, counted for its stack. -/
def poisonedLine (c : Chip) (line : Nat) : Chip :=
  cntFix { c with memory := { c.memory with poison := insertNat c.memory.poison line } } (88 + stackOf (line * 64)) 1

@[simp] theorem poisonedLine_memory (c : Chip) (line : Nat) :
    (poisonedLine c line).memory = { c.memory with poison := insertNat c.memory.poison line } := by rw [poisonedLine, cntFix_memory]
@[simp] theorem poisonedLine_queues (c : Chip) (line : Nat) : (poisonedLine c line).queues = c.queues := by rw [poisonedLine, cntFix_queues]
@[simp] theorem poisonedLine_clock (c : Chip) (line : Nat) : (poisonedLine c line).clock = c.clock := by rw [poisonedLine, cntFix_clock]
@[simp] theorem tenantOf_poisonedLine (c : Chip) (line t : Nat) : tenantOf (poisonedLine c line) t = tenantOf c t := by
  simp only [tenantOf, poisonedLine, cntFix_tenants]

theorem poisonHbm_clean {c : Chip} {a : Nat} (h : linePoisoned c (a / 64) = false) (e : Env) (loc : Nat) :
    poisonHbm c e a loc
      = countUe (detectPoison (poisonedLine c (a / 64)) (a / 64) loc) e (stackOf (a / 64 * 64)) (channelOf (a / 64 * 64)) := by
  simp only [poisonHbm, h, Bool.false_eq_true, if_false, poisonedLine]

/-- The first error of a line, whose channel has seen few in the day. -/
theorem poisonHbm_first {c : Chip} {a : Nat} (hclean : linePoisoned c (a / 64) = false)
    (hfew : countToday c c.memory.ueLog (32 * stackOf (a / 64 * 64) + channelOf (a / 64 * 64)) < 3)
    (hring : ∀ t, (tenantOf c t).errorRing = none) (e : Env) (loc : Nat) :
    (poisonHbm c e a loc).memory.poison = insertNat c.memory.poison (a / 64)
      ∧ (poisonHbm c e a loc).memory.detected.contains (a / 64) = true
      ∧ (poisonHbm c e a loc).memory.hbm = c.memory.hbm ∧ (poisonHbm c e a loc).queues = c.queues := by
  obtain ⟨d, q, x, hdetect, hd⟩ := detectPoison_frame (c := poisonedLine c (a / 64)) (by simpa using hring) (a / 64) loc
  rw [poisonHbm_clean hclean, hdetect, countUe_few (by simpa [countToday] using hfew)]
  simp only [checkpoint_memory, checkpoint_queues, poisonedLine_memory, poisonedLine_queues, true_and, and_true]
  exact hd

theorem uncorrectable_hbmObject {c : Chip} {a : Nat} (hon : c.dev ≠ .off) (ha : a < hbmBytes c) (e : Env) :
    uncorrectable c e (.hbmObject a) none = poisonHbm c e a 0 := by
  simp only [uncorrectable, beq_iff_eq, hon, if_false, if_neg (Nat.not_le.2 ha), hbmFault]

/-- The row of an error at a device address. -/
theorem exec_uncorrectableError_hbmObject (s : State) (a : Nat) (hit : Option Stop) :
    exec (.uncorrectableError (.hbmObject a) hit) s = .next (arbitrated s (uncorrectable s.chip (envOf s) (.hbmObject a) hit)) := rfl

/-! ### Correctable errors of control SRAM -/

/-- The log of correctable errors once an error with these keys joins those of the last 24 hours. -/
def ceLogWith (c : Chip) (keys : List Nat) : List (Nat × Nat) :=
  keys.map (fun n => (n, c.clock)) ++ c.memory.ceLog.filter (fun p => c.clock < p.2 + day)

/-- Rows and columns of an error that now reach their third in the day. -/
def ceFull (c : Chip) (keys : List Nat) : List Nat :=
  keys.filter (fun n => 3 ≤ (ceLogWith c keys).countP (fun p => p.1 == n))

/-- An error of control SRAM counted and logged. -/
def ceNoted (c : Chip) (e : Env) (keys : List Nat) : Chip :=
  checkpoint { cntFix c 96 1 with memory := { c.memory with ceLog := ceLogWith c keys } } e

/-- The chip that is then repaired: a row or column that has its third error starts anew. -/
def ceCleared (c : Chip) (e : Env) (keys : List Nat) : Chip :=
  { ceNoted c e keys with memory := { (ceNoted c e keys).memory with
      ceLog := (ceLogWith c keys).filter (fun p => !(ceFull c keys).contains p.1) } }

theorem correctable_control {c : Chip} (hon : c.dev ≠ .off) (e : Env) (b row col : Nat) (noSpare : Bool) :
    correctable c e (.control b row col) noSpare
      = if (ceFull c (ceKeys c (.control b row col))).isEmpty then ceNoted c e (ceKeys c (.control b row col)) else
          arbitrate (checkpoint (if noSpare then walkEntry (ceCleared c e (ceKeys c (.control b row col))) e 4
            else postRepairAt (ceCleared c e (ceKeys c (.control b row col))) 2) e) e := by
  have hon' : ¬(c.dev == .off || !true) = true := by simpa using hon
  exact if_neg hon'

theorem ceKeys_control_nodup (c : Chip) (b row col : Nat) : (ceKeys c (.control b row col)).Nodup := by
  simp only [ceKeys, List.nodup_cons, List.mem_singleton, List.not_mem_nil, not_false_eq_true, List.nodup_nil, and_true]
  omega

/-- An error counts once for each of its keys, beside the errors of the day. -/
theorem countP_ceLogWith (c : Chip) (keys : List Nat) (n : Nat) :
    (ceLogWith c keys).countP (fun p => p.1 == n) = keys.count n + countToday c c.memory.ceLog n := by
  rw [ceLogWith, List.countP_append, List.countP_map, countToday]
  rfl

/-- A first error in the day reaches no third one. -/
theorem ceFull_of_empty_log {c : Chip} {keys : List Nat} (hkeys : keys.Nodup) (hlog : c.memory.ceLog = []) : ceFull c keys = [] := by
  refine List.filter_eq_nil_iff.2 (fun n _ => ?_)
  have honce : keys.count n ≤ 1 := List.nodup_iff_count.1 hkeys n
  have hnone : countToday c c.memory.ceLog n = 0 := by rw [countToday, hlog]; rfl
  rw [countP_ceLogWith, hnone, decide_eq_true_eq]
  omega

/-- The third error in the day of a row or column. -/
theorem mem_ceFull {c : Chip} {keys : List Nat} {n : Nat} (hn : n ∈ keys) (htwo : 2 ≤ countToday c c.memory.ceLog n) : n ∈ ceFull c keys := by
  refine List.mem_filter.2 ⟨hn, ?_⟩
  have hcounted : 0 < keys.count n := List.count_pos_iff.2 hn
  rw [countP_ceLogWith, decide_eq_true_eq]
  omega

/-- An event of no tenant takes the next SEQ, and touches the error queue and Rein alone. -/
theorem postEvent_frame (c : Chip) (cls engine p0 p1 p2 : Nat) :
    ∃ q x, postEvent c cls engine p0 p1 p2 = { c with errq := q, rein := x } ∧ q.seq = c.errq.seq + 1 :=
  postError_frame (fun _ ht => by cases ht)

/-- A repair posts one record. -/
theorem postRepairAt_frame (c : Chip) (kind : Nat) :
    ∃ f q x, postRepairAt c kind = { c with free := f, errq := q, rein := x } ∧ q.seq = c.errq.seq + 1 := by
  obtain ⟨q, x, hpost, hseq⟩ := postEvent_frame (locIndex c).2 0x21 7 kind (locIndex c).1 0
  obtain ⟨y, hy⟩ := raiseSource_frame { (locIndex c).2 with errq := q, rein := x } 15
  exact ⟨c.free + 1, q, y, by rw [postRepairAt, postRepair, hpost, hy]; rfl, hseq⟩

theorem exec_correctableError (s : State) (loc : CeLoc) (noSpare : Bool) :
    exec (.correctableError loc noSpare) s = .next (onChip s (fun c e => correctable c e loc noSpare)) := rfl

/-! ### The rows -/

/-- Settles O60: the line of an uncorrectable error is poisoned and detected; a first correctable error is only counted and logged; the third
of a row or column posts one repair and leaves the log; a patrol's finding is the row of its error. -/
theorem memoryErrorsAreNoted : Obligations.MemoryErrorsAreNoted := by
  refine ⟨fun s a hon ha hclean hfew hring => ?uncorrectable, fun s b row col noSpare hon hlog => ?logged,
    fun s b row col n hon hn htwo => ?repaired, fun s => ⟨rfl, fun _ _ => rfl, fun _ _ => rfl⟩⟩
  case uncorrectable =>
    refine ⟨_, exec_uncorrectableError_hbmObject s a none, ?_⟩
    obtain ⟨hpoison, hdetected, hhbm, hqueues⟩ := poisonHbm_first hclean hfew (errorRing_of_all_none hring) (envOf s) 0
    rw [uncorrectable_hbmObject hon ha]
    exact ⟨hpoison ▸ contains_insertNat_self _ _, hdetected, hhbm, hqueues⟩
  case logged =>
    refine ⟨_, exec_correctableError s _ _, ?_⟩
    rw [onChip_chip, correctable_control hon _ b row col _, ceFull_of_empty_log (ceKeys_control_nodup _ b row col) hlog]
    simp [ceNoted, ceLogWith, hlog, cntFix, tget_tset_same]
  case repaired =>
    have hfull := mem_ceFull hn htwo
    have hsome : (ceFull s.chip (ceKeys s.chip (.control b row col))).isEmpty = false := List.isEmpty_eq_false_iff_exists_mem.2 ⟨n, hfull⟩
    simp only [exec_correctableError, onChip, correctable_control hon _ b row col _, hsome, Bool.false_eq_true, if_false]
    refine ⟨_, rfl, ?_⟩
    obtain ⟨f, q, x, hrepair, hseq⟩ := postRepairAt_frame (ceCleared s.chip (envOf s) (ceKeys s.chip (.control b row col))) 2
    rw [hrepair]
    simp only [checkpoint_errq, checkpoint_memory, hseq]
    refine ⟨by simp [ceCleared, ceNoted], fun p hp hpn => ?_⟩
    have := (List.mem_filter.1 hp).2
    simp [hpn, hfull] at this

end Sys2Proof.Machine
end

section
/-! PROOFS. Ports and frames (11 R333 to R345): what a change of one port leaves of the others and of the rest, what a wake from DOZE leaves to
the row that raised it, and what a frame that leaves touches. -/

namespace Sys2Proof.Machine

/-! ### Saturating counts -/

theorem satAdd_eq_min (a b m : Nat) : satAdd a b m = min (a + b) m := by
  unfold satAdd
  split <;> omega

/-- A 64-bit count that saturates. -/
theorem satAdd_toNat_64 (a : W64) : (BitVec.ofNat 64 (satAdd a.toNat 1 0xFFFFFFFFFFFFFFFF)).toNat = min (a.toNat + 1) 0xFFFFFFFFFFFFFFFF := by
  rw [satAdd_eq_min, BitVec.toNat_ofNat, Nat.mod_eq_of_lt (by omega)]

/-! ### One port -/

theorem portOf_setPort (s : State) (q p : Nat) (x : Port) : portOf (setPort s q x).fabric p = if p = q then x else portOf s.fabric p := by
  simp only [setPort, portOf, tget_tset]
  split <;> rfl

@[simp] theorem portOf_setPort_same (s : State) (q : Nat) (x : Port) : portOf (setPort s q x).fabric q = x := by
  rw [portOf_setPort, if_pos rfl]

@[simp] theorem retime_chip (s : State) : (retime s).chip = s.chip := by simp only [retime]
@[simp] theorem retime_flash (s : State) : (retime s).flash = s.flash := by simp only [retime]
@[simp] theorem retime_farrier (s : State) : (retime s).farrier = s.farrier := by simp only [retime]
@[simp] theorem retime_gov (s : State) : (retime s).gov = s.gov := by simp only [retime]
@[simp] theorem retime_beats (s : State) : (retime s).beats = s.beats := by simp only [retime]
@[simp] theorem retime_ports (s : State) : (retime s).fabric.ports = s.fabric.ports := by simp only [retime]; split <;> rfl
@[simp] theorem retime_plan (s : State) : (retime s).fabric.plan = s.fabric.plan := by simp only [retime]; split <;> rfl
@[simp] theorem retime_delay (s : State) : (retime s).fabric.delay = s.fabric.delay := by simp only [retime]; split <;> rfl
@[simp] theorem retime_parent (s : State) : (retime s).fabric.parent = parentOf s.fabric (placeNow s) := by
  simp only [retime]
  split <;> rfl

/-- A parent that stays keeps its measurement. -/
theorem retime_measured {s : State} (h : parentOf s.fabric (placeNow s) = s.fabric.parent) :
    (retime s).fabric.measured = s.fabric.measured := by
  simp only [retime, h, beq_self_eq_true, if_true]

@[simp] theorem portOf_retime (s : State) (p : Nat) : portOf (retime s).fabric p = portOf s.fabric p := by
  simp only [portOf, retime_ports]

/-- A change of a port, with all that follows it, changes no other port. -/
theorem portOf_changePort (s : State) (q p : Nat) (x : Port) :
    portOf (changePort s q x).fabric p = if p = q then x else portOf s.fabric p := by
  have hports : portOf (retime (setPort s q x)).fabric p = if p = q then x else portOf s.fabric p := by
    rw [portOf_retime, portOf_setPort]
  simp only [changePort]
  split
  · exact hports
  · exact hports

@[simp] theorem portOf_changePort_same (s : State) (q : Nat) (x : Port) : portOf (changePort s q x).fabric q = x := by
  rw [portOf_changePort, if_pos rfl]

/-- A port that trains anew is in TRAINING and untrained; the others stay. -/
theorem portOf_retrain (s : State) (q p : Nat) :
    portOf (retrain s q).fabric p = if p = q then
      { portOf s.fabric q with state := 1, trained := false, heard := false, trainAt := s.chip.clock, streak := 0, retraining := none,
                               errs := [], hops := none, aligned := false } else portOf s.fabric p :=
  portOf_changePort _ _ _ _

/-! ### Frames that leave -/

/-- Frames that leave touch the output, the free values and the links alone. -/
theorem pumpFrames_frame (x : Port) (q : Nat) (fs : List TxFrame) (blocked : List Nat) (c : Chip) :
    ∃ o n l, pumpFrames x q fs blocked c = { c with out := o, free := n, links := l } := by
  induction fs generalizing blocked c with
  | nil => exact ⟨c.out, c.free, c.links, rfl⟩
  | cons f r ih =>
    simp only [pumpFrames]
    split
    case isTrue =>
      obtain ⟨o, n, l, h⟩ := ih blocked _
      exact ⟨o, n, l, h⟩
    case isFalse =>
      obtain ⟨o, n, l, h⟩ := ih (f.chan :: blocked) _
      exact ⟨o, n, l, h⟩

theorem sendFrame_frame (c : Chip) (f : Fabric) (q chan : Nat) (body : Output) (w : Option (Nat × Nat)) :
    ∃ o n l, sendFrame c f q chan body w = { c with out := o, free := n, links := l } := by
  obtain ⟨o, n, l, h⟩ := pumpFrames_frame (portOf f q) q _ [] _
  exact ⟨o, n, l, h⟩

/-- A MGMT frame of a trained port with a credit. -/
theorem sendMgmt_sends {s : State} {q : Nat} (hlive : portsLive s q = true) (htrained : (portOf s.fabric q).trained = true)
    (hroom : roomFor s.fabric s.chip q 2) (o : Output) :
    ∃ c, sendMgmt s q o = { s with chip := c } ∧ sends s.chip c q 2 o := by
  refine ⟨sendFrame s.chip s.fabric q 2 o none, ?_, sendFrame_sends hroom o none⟩
  simp only [sendMgmt, hlive, htrained, Bool.and_self, if_true]
  rfl

/-- A routed frame at a hop whose entry names a port. -/
theorem sendTo_port {c : Chip} {f : Fabric} {p : Place} {dest out : Nat} (hroute : (route f p dest).1 = out) (hport : out < 4) (chan : Nat)
    (body : Nat → Output) (w : Option (Nat × Nat)) : sendTo c f p chan dest body w = sendFrame c f out chan (body out) w := by
  simp only [sendTo, hroute, hport, if_true]

/-! ### A wake from DOZE -/

/-- The clock and the device state, which no wake changes. -/
def moment (c : Chip) : Nat × DevState := (c.clock, c.dev)

theorem moment_foldl {α : Type} {f : Chip → α → Chip} (hf : ∀ c x, moment (f c x) = moment c) (l : List α) (c : Chip) :
    moment (l.foldl f c) = moment c := by
  induction l generalizing c with
  | nil => rfl
  | cons x r ih => rw [List.foldl_cons, ih, hf]

theorem moment_rein (c : Chip) (r : Rein) : moment { c with rein := r } = moment c := rfl
@[simp] theorem moment_raiseSource (c : Chip) (i : Nat) : moment (raiseSource c i) = moment c := by simp [moment]
@[simp] theorem moment_settleLevel (c : Chip) (i : Nat) : moment (settleLevel c i) = moment c := by simp [moment]

@[simp] theorem moment_sendFrame (c : Chip) (f : Fabric) (q chan : Nat) (body : Output) (w : Option (Nat × Nat)) :
    moment (sendFrame c f q chan body w) = moment c := by
  obtain ⟨o, n, l, h⟩ := sendFrame_frame c f q chan body w
  rw [h]
  rfl

theorem moment_sendFreeze (c : Chip) (f : Fabric) (ports : List Nat) (tf : Nat) (id slice : W16) :
    moment (sendFreeze c f ports tf id slice) = moment c := by
  simp only [sendFreeze]
  split
  · rfl
  · exact moment_foldl (fun c p => moment_sendFrame _ _ _ _ _ _) ports c

theorem moment_originate (c : Chip) (e : Env) (tf source : Nat) (bcast : Bool) : moment (originate c e tf source bcast) = moment c := by
  simp only [originate]
  split
  · rw [moment_sendFreeze]
    rfl
  · rfl

theorem moment_triggerFreeze (c : Chip) (e : Env) (tf source : Nat) (bcast : Bool) : moment (triggerFreeze c e tf source bcast) = moment c := by
  simp only [triggerFreeze]
  split
  case isTrue => rfl
  case isFalse =>
    split
    · exact moment_originate _ _ _ _ _
    · split
      · exact moment_originate _ _ _ _ _
      · rfl

theorem moment_pinOccurrence (c : Chip) (e : Env) (i t : Nat) (beat : Bool) : moment (pinOccurrence c e i t beat) = moment c := by
  have hraised : moment (if (srcCfg c i).sense ≤ 1 then settleLevel c i else raiseSource c i) = moment c := by split <;> simp
  simp only [pinOccurrence]
  generalize (if (srcCfg c i).sense ≤ 1 then settleLevel c i else raiseSource c i) = d at hraised ⊢
  rw [← hraised]
  split
  all_goals
    split
    · exact moment_triggerFreeze _ _ _ _ _
    · rfl

/-- A pin takes its sampled level. -/
theorem moment_sampled (c : Chip) (p : Nat) (level : Bool) : moment (settleLevel (countFrom (setLevel c p level) p c.gait) p) = moment c :=
  (moment_settleLevel _ _).trans rfl

theorem moment_restartSensing (s : State) (levels : Option (List Nat)) : moment (restartSensing s levels).chip = moment s.chip := by
  rw [restartSensing, onChip_chip]
  refine (moment_foldl (fun c p => ?occurs) _ _).trans ((moment_rein _ _).trans ((moment_foldl (fun c p => ?samples) _ _).trans ?drawn))
  case occurs => exact moment_pinOccurrence _ _ _ _ _
  case samples => exact moment_sampled _ _ _
  case drawn => split <;> rfl

/-- A wake of the device by a row is nothing that the row's ports see: the fabric, the fuses, the clock and what keeps the ports live stay. -/
theorem ungated_kept (s : State) :
    (ungated s).fabric = s.fabric ∧ (ungated s).fuses = s.fuses ∧ (ungated s).halter.zrefclk = s.halter.zrefclk
      ∧ moment (ungated s).chip = moment s.chip := by
  by_cases hdoze : s.halter.power = .doze
  · simp only [ungated, wake, hdoze, beq_self_eq_true, if_true]
    exact ⟨rfl, rfl, rfl, moment_restartSensing _ _⟩
  · simp only [ungated, beq_iff_eq, hdoze, if_false, and_self]

@[simp] theorem ungated_fabric (s : State) : (ungated s).fabric = s.fabric := (ungated_kept s).1
@[simp] theorem ungated_clock (s : State) : (ungated s).chip.clock = s.chip.clock := congrArg Prod.fst (ungated_kept s).2.2.2

@[simp] theorem placeNow_ungated (s : State) : placeNow (ungated s) = placeNow s := by
  obtain ⟨hfabric, hfuses, -, -⟩ := ungated_kept s
  simp only [placeNow, hfabric, hfuses]

@[simp] theorem portsLive_ungated (s : State) (q : Nat) : portsLive (ungated s) q = portsLive s q := by
  obtain ⟨-, -, hclock, hmoment⟩ := ungated_kept s
  have hdev : (ungated s).chip.dev = s.chip.dev := congrArg Prod.snd hmoment
  simp only [portsLive, hclock, hdev]

theorem ungated_of_active {s : State} (h : s.halter.power = .active) : ungated s = s := by
  simp only [ungated, h]
  rfl

end Sys2Proof.Machine
end

section
/-! PROOFS. Requests on the cabling plan, port reports, routes and ports (11 R338, R343 to R345, 17 R494): a new plan changes the fabric and the
flash copy that it takes, an entry is forced or freed alone, and one port trains anew. -/

namespace Sys2Proof.Machine

/-! ### A request that holds no object -/

theorem requestHolds_unnamed {s : State} {fn op r : Nat} (h : served s fn op r = true) (hop : [0x16, 0x1A, 0x22, 0x78].contains op = false) :
    requestHolds s.chip fn r = [] := by
  simp only [served, Bool.and_eq_true, beq_iff_eq] at h
  obtain ⟨⟨⟨⟨⟨-, hrq⟩, -⟩, -⟩, -⟩, -⟩ := h
  simp only [requestHolds, hrq, hop, Bool.false_and, Bool.false_eq_true, if_false]

theorem taken_unnamed {s : State} {fn op r : Nat} (h : served s fn op r = true) (hop : [0x16, 0x1A, 0x22, 0x78].contains op = false) :
    taken s fn = { s with chip := takeRequest s.chip fn } := by
  rw [← taken_chip h hop, taken]

/-- It drops no reference at its end. -/
theorem ended_unnamed {s : State} {fn op r : Nat} (h : served s fn op r = true) (hop : [0x16, 0x1A, 0x22, 0x78].contains op = false)
    (u : State) (p : Reply) : ended s u fn r p = finish u fn r p := by
  rw [ended, requestHolds_unnamed h hop]
  rfl

/-! ### A new plan -/

/-- What a new plan leaves of the device outside its ports. -/
structure PlanKept (s t : State) : Prop where
  plan : t.fabric.plan = s.fabric.plan
  flash : t.flash = s.flash
  gov : t.gov = s.gov
  beats : t.beats = s.beats
  farrier : t.farrier = s.farrier

namespace PlanKept

variable {s t u : State}

theorem refl (s : State) : PlanKept s s := ⟨rfl, rfl, rfl, rfl, rfl⟩

theorem trans (h : PlanKept s t) (g : PlanKept t u) : PlanKept s u :=
  ⟨g.plan.trans h.plan, g.flash.trans h.flash, g.gov.trans h.gov, g.beats.trans h.beats, g.farrier.trans h.farrier⟩

theorem onChip (s : State) (f : Chip → Env → Chip) : PlanKept s (onChip s f) := ⟨rfl, rfl, rfl, rfl, rfl⟩

theorem setPort (s : State) (q : Nat) (x : Port) : PlanKept s (setPort s q x) := ⟨rfl, rfl, rfl, rfl, rfl⟩

theorem retime (s : State) : PlanKept s (retime s) := ⟨retime_plan s, retime_flash s, retime_gov s, retime_beats s, retime_farrier s⟩

theorem replanPort (s : State) (q : Nat) : PlanKept s (replanPort s q) := by
  unfold Machine.replanPort
  extract_lets
  split
  · exact setPort _ _ _
  · exact (setPort _ _ _).trans (onChip _ _)

theorem replanPorts (qs : List Nat) (s : State) : PlanKept s (qs.foldl Machine.replanPort s) := by
  induction qs generalizing s with
  | nil => exact refl s
  | cons q r ih => exact (replanPort s q).trans (ih _)

theorem replan (s : State) (b : List Byte) : PlanKept { s with fabric := { s.fabric with plan := b } } (replan s b) := by
  rw [Machine.replan]
  exact ((replanPorts (List.range 4) _).trans (retime _)).trans (onChip _ _)

end PlanKept

/-- One of the two copies in flash takes the new plan (17 R494). -/
theorem writePlan_flash (s : State) (b : List Byte) : (writePlan s b).flash.plan0 = b ∨ (writePlan s b).flash.plan1 = b := by
  simp only [writePlan]
  split
  · exact .inr rfl
  · exact .inl rfl

/-- A plan taken is the current one and stands in flash. -/
theorem replan_writePlan (s : State) (b : List Byte) :
    (replan (writePlan s b) b).fabric.plan = b
      ∧ ((replan (writePlan s b) b).flash.plan0 = b ∨ (replan (writePlan s b) b).flash.plan1 = b)
      ∧ (replan (writePlan s b) b).gov = s.gov ∧ (replan (writePlan s b) b).beats = s.beats
      ∧ (replan (writePlan s b) b).farrier = s.farrier := by
  have kept := PlanKept.replan (writePlan s b) b
  refine ⟨kept.plan, ?_, kept.gov, kept.beats, kept.farrier⟩
  rw [kept.flash]
  exact writePlan_flash s b

/-- A record that can be read whole is judged by its bytes. -/
theorem setCablingPlan_read {s : State} {r m : Nat} {o : MemObj} {c d : Chip} {h rest : List Byte} (halign : bits r 191 128 % 64 = 0)
    (hobj : deviceObj (taken s 0).chip 0 (fieldHandle r 95) = some (m, o)) (hheader : bits r 191 128 + 64 ≤ o.size)
    (hread : requestRead (taken s 0).chip (o.at o.pub (bits r 191 128)) 64 = (c, some h)) (hform : badPlanHeader h = false)
    (hwhole : bits r 191 128 + planLen h ≤ o.size)
    (hrest : requestRead c (o.at o.pub (bits r 191 128 + 64)) (planLen h - 64) = (d, some rest)) :
    setCablingPlan (taken s 0) r = if planLegal (h ++ rest) then
        .now (replan (writePlan { s with chip := d } (h ++ rest)) (h ++ rest)) (okReply 0)
      else .now { s with chip := d } (refuse 1) := by
  simp only [setCablingPlan, halign, bne_self_eq_false, Bool.false_eq_true, if_false, hobj, if_neg (Nat.not_lt.2 hheader), hread, hform,
    if_neg (Nat.not_lt.2 hwhole), hrest]
  simp only [taken]

theorem exec_setCablingPlan {s : State} {r : Nat} (h : served s 0 0x78 r = true) {u : State} {p : Reply}
    (hplan : setCablingPlan (taken s 0) r = .now u p) : exec (.setCablingPlan 0) s = .next (ended s u 0 r p) := by
  show Host.Outcome.next (onRequest s 0 (fun o => o == 0x78) setCablingPlan) = _
  rw [served_on h _ rfl, hplan]

/-! ### The other requests -/

theorem exec_getPortReport {s : State} {r : Nat} (h : served s 0 0x79 r = true) :
    exec (.getPortReport 0) s = .next (answered s 0 r (takeRequest s.chip 0) (getPortReport s r)) := by
  show Host.Outcome.next (onRequest s 0 (fun o => o == 0x79) (fun s r => .now s (getPortReport s r))) = _
  rw [served_on h _ rfl, taken_unnamed h rfl]
  rfl

theorem exec_setRoute {s : State} {r : Nat} (h : served s 0 0x7A r = true) :
    exec (.setRoute 0) s = .next (finish { s with chip := takeRequest s.chip 0, fabric := { s.fabric with
      forced := if bit r 72 then insertNat s.fabric.forced (bits r 71 64) else removeNat s.fabric.forced (bits r 71 64) } }
        0 r (okReply 0)) := by
  show Host.Outcome.next (onRequest s 0 (fun o => o == 0x7A) setRoute) = _
  rw [served_on h _ rfl, taken_unnamed h rfl]
  simp only [setRoute, ended_unnamed h rfl]

theorem route_forced {f : Fabric} {d : Nat} (h : f.forced.contains d = true) (p : Place) : route f p d = (7, 3) := by
  simp only [route, h, if_true]

theorem exec_rediscover {s : State} {r : Nat} (h : served s 0 0x7B r = true) (hclock : s.halter.zrefclk = true) :
    exec (.rediscover 0) s = .next (finish (retrain { s with chip := takeRequest s.chip 0 } (bits r 65 64)) 0 r (okReply 0)) := by
  have hon : s.chip.dev ≠ .off := by
    simp only [served, Bool.and_eq_true, bne_iff_ne] at h
    obtain ⟨⟨⟨⟨⟨⟨⟨⟨⟨hon, -⟩, -⟩, -⟩, -⟩, -⟩, -⟩, -⟩, -⟩, -⟩ := h
    exact hon
  have hport : bits r 65 64 < 4 := Nat.mod_lt _ (by decide)
  have hlive : portsLive { s with chip := takeRequest s.chip 0 } (bits r 65 64) = true := by
    simp only [portsLive, Bool.and_eq_true, bne_iff_ne, decide_eq_true_eq]
    exact ⟨⟨hon, hclock⟩, hport⟩
  show Host.Outcome.next (onRequest s 0 (fun o => o == 0x7B) rediscover) = _
  rw [served_on h _ rfl, taken_unnamed h rfl]
  simp only [rediscover, hlive, if_true, ended_unnamed h rfl]

/-- Settles O32: a record that is read whole is judged by its bytes, and a legal one is the plan and a flash copy from then on; a report
gives the port's own fields; a route's entry is forced or freed alone; a port that is rediscovered trains anew. -/
theorem cablingAndPortRequests : Obligations.CablingAndPortRequests := by
  refine ⟨fun s r m o c d h rest hs halign hobj hheader hread hform hwhole hrest => ?plan, fun s r hs => exec_getPortReport hs,
    fun s r hs => ⟨_, exec_setRoute hs, rfl, rfl, fun hdrop p => ?drop, fun hfree => ?free, fun d hd => ?others⟩,
    fun s r hs hclock => ⟨_, exec_rediscover hs hclock, ?training, ?untrained, fun q hq => ?elsewhere⟩⟩
  case plan =>
    have hjudged := setCablingPlan_read halign hobj hheader hread hform hwhole hrest
    refine ⟨fun hlegal => ?legal, fun hbad => ?illegal⟩
    case legal =>
      rw [hlegal, if_pos rfl] at hjudged
      exact ⟨_, exec_setCablingPlan hs hjudged, replan_writePlan _ _⟩
    case illegal =>
      rw [hbad, if_neg Bool.false_ne_true] at hjudged
      exact exec_setCablingPlan hs hjudged
  case drop => exact route_forced (by simp only [hdrop, if_true, contains_insertNat, beq_self_eq_true, Bool.or_true]) p
  case free =>
    simp only [hfree, Bool.false_eq_true, if_false, contains_removeNat, beq_self_eq_true, Bool.not_true, Bool.and_false]
  case others =>
    have hne : (d == bits r 71 64) = false := by simpa using hd
    cases bit r 72 with
    | true => simp only [if_true, contains_insertNat, hne, Bool.or_false]
    | false => simp only [Bool.false_eq_true, if_false, contains_removeNat, hne, Bool.not_false, Bool.and_true]
  case training => rw [portOf_retrain, if_pos rfl]
  case untrained => rw [portOf_retrain, if_pos rfl]
  case elsewhere => rw [portOf_retrain, if_neg hq]

end Sys2Proof.Machine
end

section
/-! PROOFS. The events of a port (11 R333 to R340): HELLO, training, silence and loss of signal are one change of the port each; a lane failure
and a frame error move fields of the port that no other part of the event reads. -/

namespace Sys2Proof.Machine

/-! ### HELLO, training, silence, loss of signal -/

theorem helloIn_illegal {h : W256} (hh : hLegal h = false) (s : State) (q : Nat) : helloIn s q h = s := by
  simp only [helloIn, hh, Bool.not_false, Bool.or_true, if_true]

/-- The port that a trained port becomes under a legal HELLO. -/
def greeted (s : State) (q : Nat) (h : W256) : Port :=
  { portOf s.fabric q with hello := some h, heard := true, state := classify (placeNow s) q h }

theorem portOf_helloIn {s : State} {q : Nat} {h : W256} (hlive : portsLive s q = true) (hh : hLegal h = true)
    (htrained : (portOf s.fabric q).trained = true) (p : Nat) :
    portOf (helloIn s q h).fabric p = if p = q then greeted s q h else portOf s.fabric p := by
  have hport := portOf_changePort s q p (greeted s q h)
  simp only [greeted, htrained] at hport ⊢
  simp only [helloIn, hlive, hh, htrained, settled, Bool.not_true, Bool.or_self, Bool.false_eq_true, if_false, Bool.true_or, if_true,
    Option.getD_some]
  split
  · exact hport
  · exact hport

/-- A port whose training, or retraining, completes. -/
def trainedAs (s : State) (q : Nat) : Port :=
  let x := portOf s.fabric q
  { x with trained := true, streak := 0, retraining := none, trainAt := if x.state == 0 then s.chip.clock else x.trainAt,
           state := if x.heard then classify (placeNow s) q (x.hello.getD 0) else 1 }

theorem portOf_portTrained {s : State} {q : Nat} (hlive : portsLive s q = true) : portOf (portTrained s q).fabric q = trainedAs s q := by
  simp only [portTrained, hlive, Bool.not_true, Bool.false_eq_true, if_false, onChip_fabric, portOf_changePort_same, trainedAs, settled]

theorem portMissing_silent {s : State} {q : Nat} (hlive : portsLive s q = true) (hstate : (portOf s.fabric q).state = 1)
    (hheard : (portOf s.fabric q).heard = false) (htrained : (portOf s.fabric q).trained = false)
    (hlong : (portOf s.fabric q).trainAt + 500000000 ≤ s.chip.clock) :
    portMissing s q
      = changePort s q { portOf s.fabric q with state := if (partner (placeNow s) q).isSome then 3 else 0 } := by
  simp only [portMissing, hlive, hstate, hheard, htrained, Nat.not_lt.2 hlong, decide_false, bne_self_eq_false, Bool.not_true,
    Bool.or_self, Bool.false_eq_true, if_false]

theorem signalLoss_trained {s : State} {q : Nat} (hlive : portsLive s q = true) (htrained : (portOf s.fabric q).trained = true) :
    signalLoss s q = retrain s q := by
  simp only [signalLoss, hlive, htrained, Bool.and_self, if_true]

theorem discoveryDone_allUp {s : State} (hon : s.chip.dev ≠ .off) (hup : ∀ q, q < 4 → (portOf s.fabric q).state = 2)
    (hopen : s.chip.ctt.topoValid = false) :
    discoveryDone s = { s with chip := { s.chip with ctt := { s.chip.ctt with topoValid := true } } } := by
  have hall : (List.range 4).all (fun q => (portOf s.fabric q).state != 1
      && ((portOf s.fabric q).state != 0 || decide ((portOf s.fabric q).trainAt + 500000000 ≤ s.chip.clock))) = true := by
    rw [List.all_eq_true]
    intro q hq
    simp [hup q (List.mem_range.1 hq)]
  simp only [discoveryDone, hall, hopen, beq_iff_eq, hon, Bool.or_false, Bool.not_true, if_false]

/-! ### Lane failures -/

/-- A port after a lane failure: the first takes the spare, a later one halves the port, which retrains (11 R334). -/
def afterLane (x : Port) (clock : Nat) : Port :=
  if x.spareInUse then { x with half := true, retraining := some clock }
  else { x with spareInUse := true, laneSwaps := BitVec.ofNat 32 (satAdd x.laneSwaps.toNat 1 0xFFFFFFFF) }

theorem portOf_laneFails {s : State} {q : Nat} (hlive : portsLive s q = true) (htrained : (portOf s.fabric q).trained = true) :
    portOf (laneFails s q).fabric q = afterLane (portOf s.fabric q) s.chip.clock := by
  simp only [laneFails, hlive, htrained, Bool.not_true, Bool.or_self, Bool.false_eq_true, if_false, afterLane]
  cases (portOf s.fabric q).spareInUse with
  | false => simp only [Bool.not_false, if_true, Bool.false_eq_true, if_false, onChip_fabric, portOf_setPort_same]
  | true => simp only [Bool.not_true, Bool.false_eq_true, if_false, if_true, onChip_fabric, portOf_setPort_same]

theorem afterLane_spareInUse (x : Port) (clock : Nat) : (afterLane x clock).spareInUse = true := by
  cases h : x.spareInUse <;> simp [afterLane, h]

/-- What a lane failure leaves of the counts of frame errors, with a retraining that has begun at this moment. -/
theorem afterLane_kept (x : Port) (clock : Nat) :
    (afterLane x clock).retries = x.retries ∧ (afterLane x clock).state = x.state ∧ (afterLane x clock).bursts = x.bursts
      ∧ (afterLane x clock).streak = x.streak ∧ (x.retraining = some clock → (afterLane x clock).retraining = some clock) := by
  cases h : x.spareInUse <;> simp [afterLane, h]

/-! ### Frame errors -/

/-- How often in a row frame n of the port has now failed. -/
def failedRow (x : Port) (n : Nat) : Nat := if x.streak != 0 && x.seqNo == n then x.streak + 1 else 1

/-- Frame errors of the last second, with one more of this lane. -/
def errsWith (x : Port) (clock lane : Nat) : List (Nat × Nat) :=
  (lane, clock) :: x.errs.filter (fun p => clock < p.2 + 1000000000)

/-- The port after a frame error, before any lane of it fails: the eighth in a row is a burst, and the port retrains (11 R335). -/
def afterError (x : Port) (clock n lane : Nat) : Port :=
  let y := { x with seqNo := n, streak := failedRow x n % 8, errs := errsWith x clock lane,
                    retries := BitVec.ofNat 64 (satAdd x.retries.toNat 1 0xFFFFFFFFFFFFFFFF) }
  if failedRow x n < 8 then y
  else { y with bursts := BitVec.ofNat 32 (satAdd x.bursts.toNat 1 0xFFFFFFFF), retraining := some clock }

/-- The state after a frame error, before any lane of the port fails. -/
def errorNoted (s : State) (q n lane : Nat) (f : TxFrame) : State :=
  onChip (setPort s q (afterError (portOf s.fabric q) s.chip.clock n lane))
    (fun c _ => if failedRow (portOf s.fabric q) n < 8 then emit c f.body else raiseSource (emit c f.body) (24 + q))

theorem errorNoted_out (s : State) (q n lane : Nat) (f : TxFrame) : (errorNoted s q n lane f).chip.out = s.chip.out ++ [f.body] := by
  simp only [errorNoted, onChip_chip, setPort_chip]
  split <;> simp

theorem errorNoted_moment (s : State) (q n lane : Nat) (f : TxFrame) : moment (errorNoted s q n lane f).chip = moment s.chip := by
  simp only [errorNoted, onChip_chip, setPort_chip]
  split <;> simp [moment]

/-- A frame error resends its frame; one too many of its lane is a lane failure. -/
theorem crcError_eq {s : State} {q n : Nat} {f : TxFrame} (hlive : portsLive s q = true) (htrained : (portOf s.fabric q).trained = true)
    (hsettled : (portOf s.fabric q).retraining = none) (hframe : (linkTxOf s.chip q).sent.find? (fun g => g.seqNo == n) = some f)
    (lane : Nat) :
    crcError s q n lane
      = if (errsWith (portOf s.fabric q) s.chip.clock lane).countP (fun p => p.1 == lane) ≤ 1024 then errorNoted s q n lane f
        else laneFails (setPort (errorNoted s q n lane f) q { afterError (portOf s.fabric q) s.chip.clock n lane with
          errs := (errsWith (portOf s.fabric q) s.chip.clock lane).filter (fun p => p.1 != lane) }) q := by
  have hguard : (!portsLive s q || !(portOf s.fabric q).trained || (portOf s.fabric q).retraining.isSome) = false := by
    simp only [hlive, htrained, hsettled, Option.isSome_none, Bool.not_true, Bool.or_self]
  simp only [crcError, hframe, hguard, Bool.false_eq_true, if_false]
  by_cases hrow : failedRow (portOf s.fabric q) n < 8
  · simp only [failedRow] at hrow
    simp only [errorNoted, afterError, failedRow, hrow, if_true, errsWith, laneErrors, portOf_setPort_same]
    rfl
  · simp only [failedRow] at hrow
    simp only [errorNoted, afterError, failedRow, hrow, if_false, errsWith, laneErrors, portOf_setPort_same, onChip_fabric]
    rfl

theorem afterError_trained (x : Port) (clock n lane : Nat) : (afterError x clock n lane).trained = x.trained := by
  simp only [afterError]
  split <;> rfl

theorem afterError_state (x : Port) (clock n lane : Nat) : (afterError x clock n lane).state = x.state := by
  simp only [afterError]
  split <;> rfl

theorem afterError_retries (x : Port) (clock n lane : Nat) :
    (afterError x clock n lane).retries.toNat = min (x.retries.toNat + 1) 0xFFFFFFFFFFFFFFFF := by
  have hcount := satAdd_toNat_64 x.retries
  simp only [afterError]
  split
  · exact hcount
  · exact hcount

/-- The eighth failure of one frame in a row. -/
theorem afterError_burst {x : Port} {n : Nat} (hseven : x.streak = 7) (hsame : x.seqNo = n) (clock lane : Nat) :
    (afterError x clock n lane).bursts.toNat = min (x.bursts.toNat + 1) 0xFFFFFFFF ∧ (afterError x clock n lane).streak = 0
      ∧ (afterError x clock n lane).retraining = some clock := by
  have hrow : failedRow x n = 8 := by simp [failedRow, hseven, hsame]
  simp only [afterError, hrow]
  exact ⟨satAdd_toNat x.bursts, rfl, rfl⟩

section
variable {s : State} {q n : Nat} {f : TxFrame}

theorem portOf_errorNoted (s : State) (q n lane : Nat) (f : TxFrame) :
    portOf (errorNoted s q n lane f).fabric q = afterError (portOf s.fabric q) s.chip.clock n lane := portOf_setPort_same _ _ _

/-- The lane failure after a frame error finds the port as the error left it, at the same moment. -/
theorem portOf_laneFails_errorNoted (hlive : portsLive s q = true) (htrained : (portOf s.fabric q).trained = true) (lane : Nat)
    (errs : List (Nat × Nat)) :
    portOf (laneFails (setPort (errorNoted s q n lane f) q { afterError (portOf s.fabric q) s.chip.clock n lane with errs := errs }) q).fabric q
      = afterLane { afterError (portOf s.fabric q) s.chip.clock n lane with errs := errs } s.chip.clock := by
  have hmoment := errorNoted_moment s q n lane f
  have hclock : (errorNoted s q n lane f).chip.clock = s.chip.clock := congrArg Prod.fst hmoment
  have hdev : (errorNoted s q n lane f).chip.dev = s.chip.dev := congrArg Prod.snd hmoment
  rw [portOf_laneFails ?live ?trained, portOf_setPort_same, setPort_chip, hclock]
  case live =>
    simp only [portsLive, setPort_chip, setPort_halter, hdev]
    exact hlive
  case trained => rw [portOf_setPort_same, afterError_trained, htrained]

variable (hlive : portsLive s q = true) (htrained : (portOf s.fabric q).trained = true) (hsettled : (portOf s.fabric q).retraining = none)
  (hframe : (linkTxOf s.chip q).sent.find? (fun g => g.seqNo == n) = some f)
include hlive htrained hsettled hframe

/-- A frame error counts, and a burst retrains the port, whether or not its lane fails too. -/
theorem crcError_counts (lane : Nat) :
    let x := portOf (crcError s q n lane).fabric q
    let y := afterError (portOf s.fabric q) s.chip.clock n lane
    x.retries = y.retries ∧ x.state = y.state ∧ x.bursts = y.bursts ∧ x.streak = y.streak
      ∧ (y.retraining = some s.chip.clock → x.retraining = some s.chip.clock) := by
  rw [crcError_eq hlive htrained hsettled hframe lane]
  split
  · rw [portOf_errorNoted]
    exact ⟨rfl, rfl, rfl, rfl, id⟩
  · rw [portOf_laneFails_errorNoted hlive htrained]
    exact afterLane_kept _ _

/-- A lane with fewer than 1,024 errors before this one does not fail. -/
theorem crcError_few {lane : Nat} (hfew : laneErrors (portOf s.fabric q) lane < 1024) : crcError s q n lane = errorNoted s q n lane f := by
  have hold : ((portOf s.fabric q).errs.filter (fun p => s.chip.clock < p.2 + 1000000000)).countP (fun p => p.1 == lane)
      ≤ laneErrors (portOf s.fabric q) lane := List.filter_sublist.countP_le
  have hcount : (errsWith (portOf s.fabric q) s.chip.clock lane).countP (fun p => p.1 == lane) ≤ 1024 := by
    rw [errsWith, List.countP_cons_of_pos (by simp)]
    omega
  rw [crcError_eq hlive htrained hsettled hframe lane, if_pos hcount]

/-- The 1,025th error of a lane in a second fails the lane. -/
theorem crcError_many {lane : Nat}
    (hmany : 1024 ≤ (portOf s.fabric q).errs.countP (fun p => p.1 == lane && s.chip.clock < p.2 + 1000000000)) :
    (portOf (crcError s q n lane).fabric q).spareInUse = true := by
  have hcount : ¬ (errsWith (portOf s.fabric q) s.chip.clock lane).countP (fun p => p.1 == lane) ≤ 1024 := by
    rw [errsWith, List.countP_cons_of_pos (by simp), List.countP_filter]
    omega
  rw [crcError_eq hlive htrained hsettled hframe lane, if_neg hcount, portOf_laneFails_errorNoted hlive htrained]
  exact afterLane_spareInUse _ _

end

/-! ### The rows -/

/-- Settles O43: HELLO, training, silence and loss of signal change their port alone; a lane failure and a frame error are computed on the
port as it was, and a wake that the row raises is nothing that the port sees. -/
theorem portEvents : Obligations.PortEvents := by
  refine ⟨fun s q hlive htrained hroom => ?greets, fun s q h hlive => ⟨fun hh htrained => ?hello, fun hh => ?reserved⟩,
    fun s q hlive => ?trained, fun s q hlive hstate hheard huntrained hlong => ?missing, fun s q => rfl, fun s q hlive htrained => ?loss,
    fun s hon hup hopen => ?discovery, fun s q hlive htrained => ⟨fun hspare => ?spare, fun hspare => ?halved⟩,
    fun s u q n lane f hu hlive htrained hsettled hframe => ?frame⟩
  case greets =>
    obtain ⟨c, hc, hsends⟩ := sendMgmt_sends hlive htrained hroom (.hello q (helloOut s q))
    exact ⟨c, congrArg _ hc, hsends⟩
  case hello =>
    have hport := portOf_helloIn (s := ungated s) (q := q) (h := h) ((portsLive_ungated s q).trans hlive) hh (by rwa [ungated_fabric])
    refine ⟨_, rfl, ?_, ?_, fun p hp => ?_⟩
    · rw [hport, if_pos rfl, greeted]
    · rw [hport, if_pos rfl, greeted, placeNow_ungated]
    · rw [hport, if_neg hp, ungated_fabric]
  case reserved =>
    show Host.Outcome.next (helloIn (ungated s) q h) = _
    rw [helloIn_illegal hh]
  case trained =>
    have hport := portOf_portTrained (s := ungated s) (q := q) ((portsLive_ungated s q).trans hlive)
    refine ⟨_, rfl, ?_, ?_, ?_⟩
    all_goals rw [hport, trainedAs]
    rw [ungated_fabric, placeNow_ungated]
  case missing =>
    refine ⟨_, rfl, ?_⟩
    rw [portMissing_silent ((portsLive_ungated s q).trans hlive) (by rwa [ungated_fabric]) (by rwa [ungated_fabric]) (by rwa [ungated_fabric])
      (by rwa [ungated_fabric, ungated_clock]), portOf_changePort_same, placeNow_ungated]
  case loss =>
    refine ⟨_, rfl, ?_, ?_⟩
    all_goals rw [signalLoss_trained ((portsLive_ungated s q).trans hlive) (by rwa [ungated_fabric]), portOf_retrain, if_pos rfl]
  case discovery =>
    refine ⟨_, rfl, ?_, ?_⟩
    all_goals rw [discoveryDone_allUp hon hup hopen]
  case spare =>
    have hport := portOf_laneFails (s := ungated s) (q := q) ((portsLive_ungated s q).trans hlive) (by rwa [ungated_fabric])
    simp only [ungated_fabric, afterLane, hspare, Bool.false_eq_true, if_false] at hport
    refine ⟨_, rfl, ?_, ?_, ?_⟩
    all_goals rw [hport]
    exact satAdd_toNat _
  case halved =>
    have hport := portOf_laneFails (s := ungated s) (q := q) ((portsLive_ungated s q).trans hlive) (by rwa [ungated_fabric])
    simp only [ungated_fabric, ungated_clock, afterLane, hspare, if_true] at hport
    refine ⟨_, rfl, ?_, ?_⟩
    all_goals rw [hport]
  case frame =>
    subst hu
    have hlive' : portsLive (ungated s) q = true := (portsLive_ungated s q).trans hlive
    have htrained' : (portOf (ungated s).fabric q).trained = true := by rwa [ungated_fabric]
    have hsettled' : (portOf (ungated s).fabric q).retraining = none := by rwa [ungated_fabric]
    obtain ⟨hretries, hstate, hbursts, hstreak, hretrains⟩ := crcError_counts hlive' htrained' hsettled' hframe lane
    have hfew := crcError_few hlive' htrained' hsettled' hframe (lane := lane)
    have hmany := crcError_many hlive' htrained' hsettled' hframe (lane := lane)
    simp only [ungated_fabric, ungated_clock] at hretries hstate hbursts hstreak hretrains hfew hmany
    refine ⟨_, rfl, ?_, ?_, fun h => ?_, fun hseven hsame => ?_, hmany⟩
    · rw [hretries, afterError_retries]
    · rw [hstate, afterError_state]
    · rw [hfew h, errorNoted_out]
    · obtain ⟨hburst, hzero, hretrain⟩ := afterError_burst hseven hsame s.chip.clock lane
      exact ⟨hbursts ▸ hburst, hstreak ▸ hzero, hretrains hretrain⟩

end Sys2Proof.Machine
end

section
/-! PROOFS. Frames of other chips (11 R345, R350, R351) and of the gait counter (R356 to R358): where a routed frame goes, what the target of a
remote request answers and stores, and what a time frame or a reply makes of the offset. -/

namespace Sys2Proof.Machine

/-! ### Routed frames -/

theorem dropRoute_eq (c : Chip) :
    dropRoute c = { c with dropRoute := BitVec.ofNat 64 (min (c.dropRoute.toNat + 1) 0xFFFFFFFFFFFFFFFF) } := by
  rw [dropRoute, satAdd_eq_min]

theorem dropSlice_eq (c : Chip) :
    dropSlice c = { c with dropSlice := BitVec.ofNat 64 (min (c.dropSlice.toNat + 1) 0xFFFFFFFFFFFFFFFF) } := by
  rw [dropSlice, satAdd_eq_min]

/-- An entry that names neither a port nor this chip drops its frames. -/
theorem sendTo_dropped {f : Fabric} {p : Place} {dest : Nat} (h : 4 < (route f p dest).1) (c : Chip) (chan : Nat) (body : Nat → Output)
    (w : Option (Nat × Nat)) : sendTo c f p chan dest body w = dropRoute c := by
  have hport : ¬ (route f p dest).1 < 4 := by omega
  have hself : (route f p dest).1 ≠ 4 := by omega
  simp only [sendTo, hport, if_false, beq_iff_eq, hself]

theorem frameHop_up {s : State} {q : Nat} (hlive : portsLive s q = true) (hup : (portOf s.fabric q).state = 2) (f : Frame) :
    frameHop s q f = { s with
      chip := if f.slice.toNat != (placeNow s).slice then dropSlice s.chip
        else sendTo s.chip s.fabric (placeNow s) (if f.rsp then 1 else 0) (f.dest % 256) (fun p => .forwarded p f) none } := by
  simp only [frameHop, hlive, hup, bne_self_eq_false, Bool.not_true, Bool.or_self, Bool.false_eq_true, if_false]
  rfl

/-! ### Device writes where nothing is filled lazily -/

theorem healLines_frame (ls : List Nat) (c : Chip) : ∃ m, ls.foldl healLine c = { c with memory := m } := by
  induction ls generalizing c with
  | nil => exact ⟨c.memory, rfl⟩
  | cons l r ih =>
    simp only [List.foldl_cons, healLine]
    split
    · exact ih (setStack c _ _)
    · exact ih c

theorem clearPoison_frame (c : Chip) (a n : Nat) : ∃ m, clearPoison c a n = { c with memory := m } := by
  simp only [clearPoison]
  split
  · exact healLines_frame _ _
  · exact ⟨_, rfl⟩

/-- A write touches memory and the counters alone, and its bytes are in HBM. -/
theorem storeDev_frame {c : Chip} (hlazy : ∀ o ∈ c.mems, o.2.lazy = false) (a : Nat) (bs : List Byte) :
    ∃ m v, storeDev c a bs = { c with memory := m, counters := v } ∧ m.hbm = writeBytes c.memory.hbm a bs := by
  have hnone : c.mems.all (fun p => !(p.2.lazy && overlap a bs.length p.2.addr p.2.span)) = true := by
    rw [List.all_eq_true]
    intro p hp
    rw [hlazy p hp, Bool.false_and, Bool.not_false]
  have hquiet : ∃ m, storeQuiet c a bs = { c with memory := m } ∧ m.hbm = writeBytes c.memory.hbm a bs := by
    rw [storeQuiet, fillTouched_of_none_lazy hnone]
    cases bs with
    | nil => exact ⟨c.memory, rfl, rfl⟩
    | cons b r =>
      obtain ⟨m, hm⟩ := clearPoison_frame { c with memory := { c.memory with hbm := writeBytes c.memory.hbm a (b :: r) } } a (b :: r).length
      refine ⟨m, hm, ?_⟩
      have hhbm := hbm_clearPoison { c with memory := { c.memory with hbm := writeBytes c.memory.hbm a (b :: r) } } a (b :: r).length
      rw [hm] at hhbm
      exact hhbm
  obtain ⟨m, hm, hhbm⟩ := hquiet
  obtain ⟨v, hv⟩ := cntHbm_frame (storeQuiet c a bs) 72 a bs.length
  exact ⟨m, v, by rw [storeDev, hv, hm], hhbm⟩

/-! ### Remote requests -/

/-- What a target answers with goes out on the port that its route back names (11 R345, R350). -/
theorem exec_remoteRequest {s : State} {r : RemoteReq} {p : Nat} (hdev : s.chip.dev = .ready) (hactive : s.halter.power = .active)
    (hslice : r.slice.toNat = (placeNow s).slice) (hself : (route s.fabric (placeNow s) (placeNow s).num).1 = 4)
    (hroute : (route s.fabric (placeNow s) (r.srcChip % 256)).1 = p) (hport : p < 4) {c : Chip} {y : RemoteReply}
    (hserve : serveRemote s.chip (envOf s) r = (c, y)) :
    exec (.remoteRequest r) s = .next { s with
      chip := sendFrame c s.fabric p 1 (.reply p (r.srcChip % 256) (BitVec.ofNat 16 (placeNow s).slice) r.tenant y) none } := by
  have hplace : (envOf s).place = placeNow s := rfl
  have hfabric : (envOf s).fabric = s.fabric := rfl
  have hon : (s.chip.dev == .off) = false := by rw [hdev]; rfl
  show Host.Outcome.next (remoteRequest s r) = _
  simp only [remoteRequest, hon, Bool.false_eq_true, if_false, ungated_of_active hactive, onChip, hserve, hplace, hfabric, hslice, hself,
    bne_self_eq_false, sendTo_port hroute hport, mySlice]

section
variable {c : Chip} {e : Env} {r : RemoteReq} (hdev : c.dev = .ready) (hgap : e.gap = false)
include hdev hgap

theorem serveRemote_ready : (c.dev == .bringup || c.dev == .hold || e.gap) = false ∧ (c.dev == .walk) = false := by
  rw [hdev, hgap]
  exact ⟨rfl, rfl⟩

theorem serveRemote_refused {st w : Nat} (h : targetCheck c r.token r.tenant r.isWrite r.off r.length = some (st, w)) :
    serveRemote c e r = (raiseRefused c, if st == stHandle then .faultHandle else .faultWindow w) := by
  simp only [serveRemote, serveRemote_ready hdev hgap, h, Bool.false_eq_true, if_false]

variable {i : Nat} {k : Token} {m : MemObj} (hcheck : targetCheck c r.token r.tenant r.isWrite r.off r.length = none)
  (htoken : tokenOf c r.token = some (i, k)) (hmem : tget c.mems k.mem = some m)
include hcheck htoken hmem

theorem serveRemote_write (hw : r.isWrite = true) :
    serveRemote c e r
      = (raiseStamp (storeDev c (m.at m.pub r.off) ((List.range r.length).map (fun n => r.data.getD n 0))) k.mem, .done []) := by
  rw [hw] at hcheck
  simp only [serveRemote, serveRemote_ready hdev hgap, hcheck, htoken, hmem, hw, Option.bind_some, Option.map_some,
    Bool.false_eq_true, if_false, if_true]

theorem serveRemote_read (hr : r.isWrite = false) (hclean : readPoison c (m.at m.pub r.off) r.length = none) :
    serveRemote c e r = (cntHbm c 64 (m.at m.pub r.off) r.length, .done (loadDev c (m.at m.pub r.off) r.length)) := by
  rw [hr] at hcheck
  simp only [serveRemote, serveRemote_ready hdev hgap, hcheck, htoken, hmem, hr, hclean, Option.bind_some, Option.map_some,
    Bool.false_eq_true, if_false]

end

theorem raiseRefused_eq (c : Chip) :
    raiseRefused c = { c with remoteRefused := BitVec.ofNat 64 (min (c.remoteRefused.toNat + 1) 0xFFFFFFFFFFFFFFFF) } := by
  rw [raiseRefused, satAdd_eq_min]

/-- A refusal is counted once, and its answer goes out. -/
theorem sendFrame_refused {f : Fabric} {c : Chip} {p chan : Nat} (hroom : roomFor f c p chan) (o : Output) :
    sends c (sendFrame (raiseRefused c) f p chan o none) p chan o
      ∧ (sendFrame (raiseRefused c) f p chan o none).remoteRefused
          = BitVec.ofNat 64 (min (c.remoteRefused.toNat + 1) 0xFFFFFFFFFFFFFFFF) := by
  refine ⟨sendFrame_sends (c := raiseRefused c) hroom o none, ?_⟩
  obtain ⟨out, n, l, hframe⟩ := sendFrame_frame (raiseRefused c) f p chan o none
  rw [hframe, raiseRefused_eq]

/-- The answer to a read goes out; counting its bytes is nothing that the link sees. -/
theorem sendFrame_counted {f : Fabric} {c : Chip} {p chan : Nat} (hroom : roomFor f c p chan) (base a n : Nat) (o : Output) :
    sends c (sendFrame (cntHbm c base a n) f p chan o none) p chan o := by
  obtain ⟨v, hv⟩ := cntHbm_frame c base a n
  rw [hv]
  exact sendFrame_sends (c := { c with counters := v }) hroom o none

/-- The answer to a write goes out after its bytes are stored and its object stamped. -/
theorem sendFrame_stored {f : Fabric} {c : Chip} {p chan i : Nat} {m : MemObj} (hroom : roomFor f c p chan)
    (hlazy : ∀ o ∈ c.mems, o.2.lazy = false) (hmem : tget c.mems i = some m) (a : Nat) (bs : List Byte) (o : Output) :
    let d := sendFrame (raiseStamp (storeDev c a bs) i) f p chan o none
    d.out = c.out ++ [o] ∧ tget d.mems i = some { m with stamp := m.stamp + 1 } ∧ d.memory.hbm = writeBytes c.memory.hbm a bs := by
  obtain ⟨mm, v, hstore, hhbm⟩ := storeDev_frame hlazy a bs
  have hstamp : raiseStamp (storeDev c a bs) i
      = { c with memory := mm, counters := v, mems := tset c.mems i { m with stamp := m.stamp + 1 } } := by
    rw [hstore, raiseStamp, modMem, hmem]
  obtain ⟨hout, -, -, hmemory, -⟩ := sendFrame_sends (c := raiseStamp (storeDev c a bs) i) (f := f) (q := p) (chan := chan)
    (by rw [hstamp]; exact hroom) o none
  obtain ⟨out, n, l, hframe⟩ := sendFrame_frame (raiseStamp (storeDev c a bs) i) f p chan o none
  refine ⟨?_, ?_, ?_⟩
  · rw [hout, hstamp]
  · rw [hframe, hstamp, tget_tset_same]
  · rw [hmemory, hstamp, hhbm]

/-! ### The gait counter -/

/-- A measurement gives the offset; beside it, only the set or the slew of the gait counter moves (11 R358). -/
theorem measure_frame (s : State) (v : Int) :
    ∃ b w c, measure s v = { s with fabric := { s.fabric with offset := v, measured := true, gaitSet := b, slew := w }, chip := c }
      ∧ c.queues = s.chip.queues := by
  simp only [measure]
  split
  · exact ⟨s.fabric.gaitSet, s.fabric.slew, s.chip, rfl, rfl⟩
  · split
    · split
      · exact ⟨true, 0, addGait s.chip v, rfl, rfl⟩
      · exact ⟨true, signOf v, s.chip, rfl, rfl⟩
    · exact ⟨s.fabric.gaitSet, signOf v, s.chip, rfl, rfl⟩

/-- The port of a neighbour whose time frame has come. -/
def timedPort (s : State) (q hops : Nat) (aligned : Bool) : Port :=
  { portOf s.fabric q with hops := some (min hops 255), aligned := aligned }

/-- The state that such a frame leaves before the offset is measured: the parent may be another. -/
def timed (s : State) (q hops : Nat) (aligned : Bool) : State := retime (setPort s q (timedPort s q hops aligned))

theorem portOf_timed (s : State) (q hops : Nat) (aligned : Bool) : portOf (timed s q hops aligned).fabric q = timedPort s q hops aligned :=
  (portOf_retime _ q).trans (portOf_setPort_same s q _)

theorem timeFrameIn_frame {s : State} {q : Nat} (hlive : portsLive s q = true) (htrained : (portOf s.fabric q).trained = true)
    (carried hops : Nat) (aligned : Bool) :
    timeFrameIn s q false carried hops aligned
      = if (timed s q hops aligned).fabric.parent == some q
            && (timed s q hops aligned).fabric.measured then
          measure (timed s q hops aligned) ((carried : Int) + s.fabric.delay - s.chip.gait)
        else timed s q hops aligned := by
  have hguard : (!portsLive s q || !(portOf s.fabric q).trained) = false := by rw [hlive, htrained]; rfl
  simp only [timeFrameIn, hguard, Bool.false_eq_true, if_false, retime_delay, retime_chip, setPort_chip, setPort_fabric, timed, timedPort]
  rfl

theorem timeFrameIn_request {s : State} {q : Nat} (hlive : portsLive s q = true) (htrained : (portOf s.fabric q).trained = true)
    (carried hops : Nat) (aligned : Bool) :
    timeFrameIn s q true carried hops aligned = sendMgmt s q (.timeReply q s.chip.gait s.chip.gait) := by
  simp only [timeFrameIn, hlive, htrained, Bool.not_true, Bool.or_self, Bool.false_eq_true, if_false, if_true]

theorem timeFrameIn_port {s : State} {q : Nat} (hlive : portsLive s q = true) (htrained : (portOf s.fabric q).trained = true)
    (carried hops : Nat) (aligned : Bool) :
    portOf (timeFrameIn s q false carried hops aligned).fabric q = timedPort s q hops aligned
      ∧ (timeFrameIn s q false carried hops aligned).chip.queues = s.chip.queues := by
  rw [timeFrameIn_frame hlive htrained]
  split
  · obtain ⟨b, w, c, hmeasure, hqueues⟩ := measure_frame (timed s q hops aligned) ((carried : Int) + s.fabric.delay - s.chip.gait)
    rw [hmeasure]
    exact ⟨portOf_timed s q hops aligned, hqueues⟩
  · exact ⟨portOf_timed s q hops aligned, rfl⟩

/-- A frame of the parent, whose round trip has been measured. -/
theorem timeFrameIn_parent {s : State} {q : Nat} (hlive : portsLive s q = true) (htrained : (portOf s.fabric q).trained = true)
    {hops : Nat} {aligned : Bool} (hparent : s.fabric.parent = some q) (hmeasured : s.fabric.measured = true)
    (hstays : parentOf (setPort s q (timedPort s q hops aligned)).fabric (placeNow s) = some q) (carried : Nat) :
    (timeFrameIn s q false carried hops aligned).fabric.offset = (carried : Int) + s.fabric.delay - s.chip.gait := by
  have hkept : parentOf (setPort s q (timedPort s q hops aligned)).fabric (placeNow (setPort s q (timedPort s q hops aligned)))
      = (setPort s q (timedPort s q hops aligned)).fabric.parent := hstays.trans hparent.symm
  have hmeasured' : (timed s q hops aligned).fabric.measured = true := (retime_measured hkept).trans hmeasured
  have hparent' : (timed s q hops aligned).fabric.parent = some q := (retime_parent _).trans hstays
  rw [timeFrameIn_frame hlive htrained, if_pos (by rw [hparent', hmeasured', beq_self_eq_true, Bool.and_self])]
  obtain ⟨b, w, c, hmeasure, -⟩ := measure_frame (timed s q hops aligned) ((carried : Int) + s.fabric.delay - s.chip.gait)
  rw [hmeasure]

/-- The parent's reply to the request that is out, at the moment it arrives. -/
theorem roundTrip_parent {s : State} {q t1 : Nat} (hlive : portsLive s q = true) (htrained : (portOf s.fabric q).trained = true)
    (hparent : s.fabric.parent = some q) (hasked : s.fabric.asked = some t1) (t2 t3 : Nat) :
    roundTrip s q t1 t2 t3 s.chip.gait
      = measure { s with fabric := { s.fabric with delay := (((s.chip.gait : Int) - t1) - ((t3 : Int) - t2)) / 2, asked := none } }
          ((((t2 : Int) - t1) + ((t3 : Int) - s.chip.gait)) / 2) := by
  simp only [roundTrip, hlive, htrained, hparent, hasked, bne_self_eq_false, Bool.not_true, Bool.or_self, Bool.false_eq_true, if_false]

/-! ### The rows -/

/-- Settles O44: a frame goes where its entry says; a request is judged by the target's checks, and its answer takes the route back; a time frame
and a round trip are measured on the fabric as it was. -/
theorem fabricFrames : Obligations.FabricFrames := by
  refine ⟨fun s q f hlive hup => ?hop, fun s r p hdev hactive hgap hslice hself hroute hport hroom => ?remote,
    fun s q hlive htrained hroom => ⟨?send, fun carried hops aligned => ?request⟩, fun s q carried hops aligned hlive htrained => ?frame,
    fun s q t1 t2 t3 hlive htrained hparent hasked => ?trip⟩
  case hop =>
    have hexec : exec (.frameHop q f) s = .next (frameHop s q f) := rfl
    rw [hexec, frameHop_up hlive hup]
    refine ⟨fun hother => ?_, fun hsame hdrop => ?_, fun p hsame hroute hport hroom => ?_⟩
    · rw [if_pos (bne_iff_ne.2 hother), dropSlice_eq]
    · rw [hsame, bne_self_eq_false, if_neg Bool.false_ne_true, sendTo_dropped hdrop, dropRoute_eq]
    · rw [hsame, bne_self_eq_false, if_neg Bool.false_ne_true, sendTo_port hroute hport]
      exact ⟨_, rfl, sendFrame_sends hroom _ _⟩
  case remote =>
    have hanswer {c : Chip} {y : RemoteReply} (hserve : serveRemote s.chip (envOf s) r = (c, y)) :=
      exec_remoteRequest hdev hactive hslice hself hroute hport hserve
    refine ⟨fun w hcheck => ?handle, fun w hcheck => ?window,
      fun i k m hcheck htoken hmem => ⟨fun hw hlazy => ?write, fun hr hclean => ?read⟩⟩
    case handle => exact ⟨_, hanswer (serveRemote_refused hdev hgap hcheck), sendFrame_refused hroom _⟩
    case window => exact ⟨_, hanswer (serveRemote_refused hdev hgap hcheck), sendFrame_refused hroom _⟩
    case write =>
      obtain ⟨hout, hstamp, hhbm⟩ := sendFrame_stored hroom hlazy hmem (m.at m.pub r.off)
        ((List.range r.length).map (fun n => r.data.getD n 0))
        (.reply p (r.srcChip % 256) (BitVec.ofNat 16 (placeNow s).slice) r.tenant (.done []))
      refine ⟨_, hanswer (serveRemote_write hdev hgap hcheck htoken hmem hw), hout, hstamp, fun j hj => ?_, fun a ha => ?_⟩
      · rw [hhbm, readByte_writeBytes, if_pos (by simp; omega), Nat.add_sub_cancel_left]
        simp [List.getD_eq_getElem?_getD, hj]
      · rw [hhbm, readByte_writeBytes, if_neg (by simp; omega)]
    case read => exact ⟨_, hanswer (serveRemote_read hdev hgap hcheck htoken hmem hr hclean), sendFrame_counted hroom _ _ _ _⟩
  case send =>
    obtain ⟨c, hc, hsends⟩ := sendMgmt_sends hlive htrained hroom
      (.timeFrame q s.chip.gait s.fabric.hops (alignedNow s.chip.dev s.fabric (placeNow s)))
    exact ⟨c, congrArg _ hc, hsends⟩
  case request =>
    obtain ⟨c, hc, hsends⟩ := sendMgmt_sends hlive htrained hroom (.timeReply q s.chip.gait s.chip.gait)
    exact ⟨c, congrArg _ ((timeFrameIn_request hlive htrained carried hops aligned).trans hc), hsends⟩
  case frame =>
    obtain ⟨htimed, hqueues⟩ := timeFrameIn_port hlive htrained carried hops aligned
    refine ⟨_, rfl, ?_, ?_, hqueues, fun hparent hmeasured hstays => timeFrameIn_parent hlive htrained hparent hmeasured hstays carried⟩
    · rw [htimed, timedPort]
    · rw [htimed, timedPort]
  case trip =>
    have hexec : exec (.roundTrip q t1 t2 t3 s.chip.gait) s = .next (roundTrip s q t1 t2 t3 s.chip.gait) := rfl
    obtain ⟨b, w, c, hmeasure, -⟩ := measure_frame _ _
    rw [hexec, roundTrip_parent hlive htrained hparent hasked, hmeasure]
    exact ⟨_, rfl, rfl, rfl, rfl, rfl⟩

end Sys2Proof.Machine
end

section
/-! PROOFS. The host's side of Rein (12 R361, R365, R372 to R376, R381): a source's configuration, its pending and active state and its level
each stand in a part of Rein of their own, so a row's effect is the parts that it writes. A message takes the sources that it serves out
of the pending set. -/

namespace Sys2Proof.Machine

/-! ### Sets of sources -/

theorem contains_removeNat_self (l : List Nat) (k : Nat) : (removeNat l k).contains k = false := by
  rw [contains_removeNat, beq_self_eq_true, Bool.not_true, Bool.and_false]

theorem contains_removeNat_of_not {l : List Nat} {d : Nat} (h : l.contains d = false) (k : Nat) : (removeNat l k).contains d = false := by
  rw [contains_removeNat, h, Bool.false_and]

theorem contains_foldl_removeNat (ks l : List Nat) (d : Nat) : (ks.foldl removeNat l).contains d = (l.contains d && !ks.contains d) := by
  induction ks generalizing l with
  | nil => rw [List.foldl_nil, List.contains_nil, Bool.not_false, Bool.and_true]
  | cons k r ih => rw [List.foldl_cons, ih, contains_removeNat, List.contains_cons, Bool.not_or, Bool.and_assoc]

/-! ### Sources -/

@[simp] theorem srcCfg_setCfg_same (c : Chip) (i : Nat) (x : SrcCfg) : srcCfg (setCfg c i x) i = x := by
  rw [srcCfg, setCfg, tget_tset_same, Option.getD_some]

/-- An event source has no level to settle. -/
theorem settleLevel_event {c : Chip} {i : Nat} (h : isPin i = false) : settleLevel c i = c := by
  simp only [settleLevel, h, Bool.not_false, Bool.or_true, if_true]

/-- A level settles in the pending sets alone. -/
theorem settleLevel_frame (c : Chip) (i : Nat) :
    ∃ p q, settleLevel c i = { c with rein := { c.rein with pendingCore := p, pendingHost := q } } := by
  simp only [settleLevel, pendCore, pendHost]
  split
  case isTrue => exact ⟨c.rein.pendingCore, c.rein.pendingHost, rfl⟩
  case isFalse =>
    split
    case isTrue => split <;> split <;> exact ⟨_, _, rfl⟩
    case isFalse => exact ⟨_, _, rfl⟩

/-- A completion for a source that is not active counts once, and the count saturates (12 R376). -/
theorem spuriousEoi_eq (c : Chip) :
    spuriousEoi c = { c with rein := { c.rein with spurious := BitVec.ofNat 32 (min (c.rein.spurious.toNat + 1) 0xFFFFFFFF) } } := by
  rw [spuriousEoi, satAdd_eq_min]

/-- Effects that agree on the chip part at hand leave one state. -/
theorem afterAccess_congr {s : State} {f g : Chip → Env → Chip} (h : f s.chip (envOf s) = g s.chip (envOf s)) :
    afterAccess s f = afterAccess s g :=
  congrArg (fun c => { s with chip := c, halter := { s.halter with idleSince := none } }) h

/-! ### RN_SRC_CFG -/

/-- A pin source alone has SENSE and FILTER to write. -/
theorem writeSrcCfg_event {c : Chip} {i : Nat} (hi : i < 2048) (howner : srcOwner c i = some 0) (hevent : isPin i = false) (v : Nat)
    (level : Bool) : writeSrcCfg c i v level = setCfg c i { srcCfg c i with hostVector := bits v 39 32, hostEn := bit v 31 } := by
  have hmine : (decide (2048 ≤ i) || srcOwner c i != some 0) = false := by simp [howner, hi]
  simp only [writeSrcCfg, hmine, hevent, settleLevel_event hevent, Bool.false_and, Bool.false_eq_true, if_false, bne_self_eq_false,
    Bool.or_self]

theorem writeSrcCfg_foreign {c : Chip} {i : Nat} (h : srcOwner c i ≠ some 0) (v : Nat) (level : Bool) : writeSrcCfg c i v level = c := by
  have hforeign : (decide (2048 ≤ i) || srcOwner c i != some 0) = true := by simp [h]
  simp only [writeSrcCfg, hforeign, if_true]

theorem exec_rnSrcCfgWrite {s : State} (h : hostReaches s 0 = true) (i : Nat) (v : W64) (level : Bool) :
    exec (.rnSrcCfgWrite i v level) s = .next (afterAccess s (fun c _ => writeSrcCfg c i v.toNat level)) := by
  simp only [exec, execRnSrcCfgWrite, hostChip_eq _ _ _ h]

/-! ### RN_GROUP_OWNER -/

/-- Nothing of the source is pending or active on either path. -/
def sourceIdle (c : Chip) (i : Nat) : Prop :=
  c.rein.pendingHost.contains i = false ∧ c.rein.pendingCore.contains i = false ∧ c.rein.activeHost.contains i = false
    ∧ tget c.rein.activeCore i = none

theorem sourceIdle_resetSource (c : Chip) (i : Nat) : sourceIdle (resetSource c i) i :=
  ⟨contains_removeNat_self _ _, contains_removeNat_self _ _, contains_removeNat_self _ _, tget_terase_same _ _⟩

theorem sourceIdle.resetSource {c : Chip} {i : Nat} (h : sourceIdle c i) (k : Nat) : sourceIdle (resetSource c k) i := by
  obtain ⟨hpendHost, hpendCore, hactHost, hactCore⟩ := h
  refine ⟨contains_removeNat_of_not hpendHost k, contains_removeNat_of_not hpendCore k, contains_removeNat_of_not hactHost k, ?_⟩
  show tget (terase c.rein.activeCore k) i = none
  rw [tget_terase, hactCore, ite_self]

theorem sourceIdle.resetSources {c : Chip} {i : Nat} (h : sourceIdle c i) (ks : List Nat) : sourceIdle (ks.foldl Machine.resetSource c) i := by
  induction ks generalizing c with
  | nil => exact h
  | cons k r ih => exact ih (h.resetSource k)

/-- Every source of a list that is reset is idle then, whatever is reset after it. -/
theorem sourceIdle_resetSources {i : Nat} {ks : List Nat} (hi : i ∈ ks) (c : Chip) : sourceIdle (ks.foldl resetSource c) i := by
  induction ks generalizing c with
  | nil => cases hi
  | cons k r ih =>
    rcases List.mem_cons.1 hi with rfl | hr
    · exact (sourceIdle_resetSource c i).resetSources r
    · exact ih hr (resetSource c k)

theorem groups_resetSources (ks : List Nat) (c : Chip) : (ks.foldl resetSource c).rein.groups = c.rein.groups := by
  induction ks generalizing c with
  | nil => rfl
  | cons k r ih => exact ih (resetSource c k)

/-- A new owner of a group that is not BUSY finds its sources reset. -/
theorem writeGroupOwner_changes {c : Chip} {g v : Nat} (hlow : 2 ≤ g) (hhigh : g < 64) (hfree : groupBusy c g = false)
    (hnew : (tget c.rein.groups g).getD 0 ≠ v % 64) :
    writeGroupOwner c g v
      = ((List.range 32).map (fun i => 32 * g + i)).foldl resetSource
          { c with rein := { c.rein with groups := tset c.rein.groups g (v % 64) } } := by
  have hopen : (decide (g < 2) || decide (64 ≤ g) || groupBusy c g) = false := by simp [hfree]; omega
  simp only [writeGroupOwner, hopen, Bool.false_eq_true, if_false, beq_iff_eq, hnew, List.foldl_map]

theorem writeGroupOwner_busy {c : Chip} {g : Nat} (h : groupBusy c g = true) (v : Nat) : writeGroupOwner c g v = c := by
  simp only [writeGroupOwner, h, Bool.or_true, if_true]

theorem exec_rnGroupOwnerWrite {s : State} (h : hostReaches s 0 = true) (g : Nat) (v : W32) :
    exec (.rnGroupOwnerWrite g v) s = .next (afterAccess s (fun c _ => writeGroupOwner c g v.toNat)) := by
  simp only [exec, execRnGroupOwnerWrite, hostChip_eq _ _ _ h]

/-- Settles O17: an event source has neither SENSE nor a level to write; a group that changes has each of its sources reset, and a later
reset leaves an idle source idle; a foreign source and a BUSY group refuse the write whole. -/
theorem rnHostWrites : Obligations.RnHostWrites := by
  refine ⟨fun s i v level h hi => ⟨fun howner hevent => ?config, fun howner => ?foreign⟩,
    fun s g v h hlow hhigh => ⟨fun hfree hnew => ?group, fun hbusy => ?busy⟩⟩
  case config =>
    refine ⟨_, exec_rnSrcCfgWrite h i v level, ?_⟩
    rw [afterAccess_chip, writeSrcCfg_event hi howner hevent]
    exact ⟨srcCfg_setCfg_same _ _ _, rfl, rfl⟩
  case foreign =>
    rw [exec_rnSrcCfgWrite h]
    exact congrArg _ (afterAccess_congr (writeSrcCfg_foreign howner _ _))
  case group =>
    refine ⟨_, exec_rnGroupOwnerWrite h g v, ?_⟩
    rw [afterAccess_chip, writeGroupOwner_changes hlow hhigh hfree hnew]
    refine ⟨?_, fun i hi => sourceIdle_resetSources (List.mem_map_of_mem (List.mem_range.2 hi)) _⟩
    rw [groups_resetSources, tget_tset_same]
  case busy =>
    rw [exec_rnGroupOwnerWrite h]
    exact congrArg _ (afterAccess_congr (writeGroupOwner_busy hbusy _))

/-! ### Messages -/

/-- What a message does to a source that it serves: the source is no longer pending, and a level source is active (12 R372, R374). -/
def hostServes (c : Chip) (i : Nat) : Chip :=
  if (srcCfg (unpendHost c i) i).sense ≤ 1 && isPin i then
    { unpendHost c i with rein := { (unpendHost c i).rein with activeHost := insertNat (unpendHost c i).rein.activeHost i } }
  else unpendHost c i

theorem foldl_hostServes (is : List Nat) (c : Chip) :
    ∃ a, is.foldl hostServes c
      = { c with rein := { c.rein with pendingHost := is.foldl removeNat c.rein.pendingHost, activeHost := a } } := by
  induction is generalizing c with
  | nil => exact ⟨c.rein.activeHost, rfl⟩
  | cons i r ih =>
    obtain ⟨a, ha⟩ := ih (hostServes c i)
    refine ⟨a, ?_⟩
    rw [List.foldl_cons, ha, hostServes]
    split <;> rfl

/-- A vector on which no source waits has no message. -/
theorem sendMsix_none {c : Chip} {fn v : Nat} (h : waitingOn c fn v = []) : sendMsix c fn v = c := by
  simp only [sendMsix, h, List.isEmpty_nil, Bool.true_or, if_true]

/-- The message of an unmasked vector, over a link that is up. -/
theorem sendMsix_sends {c : Chip} {fn v : Nat} (hwait : waitingOn c fn v ≠ []) (hv : v < vectorCount fn)
    (henable : (tenantOf c fn).msixEnable = true) (hfn : (tenantOf c fn).functionMask = false)
    (hopen : (msixOf (tenantOf c fn) v).masked = false) (hlink : c.linkUp = true) :
    ∃ a, sendMsix c fn v
      = { c with out := c.out ++ [.msix fn v (msixOf (tenantOf c fn) v).addr (msixOf (tenantOf c fn) v).data],
                 rein := { c.rein with pendingHost := (waitingOn c fn v).foldl removeNat c.rein.pendingHost, activeHost := a } } := by
  obtain ⟨a, ha⟩ := foldl_hostServes (waitingOn c fn v) c
  have hgo : ((waitingOn c fn v).isEmpty || !(tenantOf c fn).msixEnable || (tenantOf c fn).functionMask
      || (msixOf (tenantOf c fn) v).masked || decide (vectorCount fn ≤ v) || !hostRoom c 1) = false := by
    simp [hwait, henable, hfn, hopen, hv, hostRoom, hlink]
  refine ⟨a, ?_⟩
  have hsend : sendMsix c fn v = emitHost ((waitingOn c fn v).foldl hostServes c)
      (.msix fn v (msixOf (tenantOf c fn) v).addr (msixOf (tenantOf c fn) v).data) := if_neg (by rw [hgo]; exact Bool.false_ne_true)
  rw [hsend, ha, emitHost]
  exact if_pos hlink

/-- A source that a message has served is not pending. -/
theorem contains_served {c : Chip} {fn v i : Nat} (hi : i ∈ waitingOn c fn v) :
    ((waitingOn c fn v).foldl removeNat c.rein.pendingHost).contains i = false := by
  rw [contains_foldl_removeNat, List.contains_iff_mem.2 hi, Bool.not_true, Bool.and_false]

/-! ### Masks of vectors -/

@[simp] theorem tenantOf_setMsix (c : Chip) (fn v : Nat) (m : MsixEntry) :
    tenantOf (setMsix c fn v m) fn = { tenantOf c fn with msix := tset (tenantOf c fn).msix v m } := by
  rw [setMsix, tenantOf_modTenant_same]

@[simp] theorem msixOf_setMsix (c : Chip) (fn v : Nat) (m : MsixEntry) : msixOf (tenantOf (setMsix c fn v m) fn) v = m := by
  rw [tenantOf_setMsix, msixOf, tget_tset_same, Option.getD_some]

/-- The MSI-X table decides nothing about the sources that wait. -/
@[simp] theorem waitingOn_setMsix (c : Chip) (fn v w : Nat) (m : MsixEntry) : waitingOn (setMsix c fn v m) fn w = waitingOn c fn w := by
  simp only [waitingOn, tenantOf_setMsix]
  rfl

/-- The vector without its mask. -/
def opened (c : Chip) (fn v : Nat) : Chip := setMsix c fn v { msixOf (tenantOf c fn) v with masked := false }

theorem unmaskVector_eq {fn v : Nat} (hv : v < vectorCount fn) (c : Chip) : unmaskVector c fn v = sendMsix (opened c fn v) fn v := by
  rw [unmaskVector, if_neg (Nat.not_le.2 hv), opened]

theorem exec_vectorUnmask {s : State} {fn : Nat} (h : hostReaches s fn = true) (v : Nat) :
    exec (.vectorUnmask fn v) s = .next (afterAccess s (fun c _ => unmaskVector c fn v)) := by
  simp only [exec, execVectorUnmask, hostChip_eq _ _ _ h]

theorem exec_msiXMessage {s : State} {fn : Nat} (hon : s.chip.dev ≠ .off) (hpresent : (tenantOf s.chip fn).present = true) (v : Nat) :
    exec (.msiXMessage fn v) s = .next (onChip s (fun c _ => sendMsix c fn v)) := by
  have hgo : (s.chip.dev == .off || !(tenantOf s.chip fn).present) = false := by simp [hon, hpresent]
  simp only [exec, execMsiXMessage, onChip, hgo, Bool.false_eq_true, if_false]

/-! ### Completions -/

/-- A completion ends ACTIVE_HOST; the level may make the source pending anew. -/
theorem hostEoi_active {c : Chip} {i : Nat} (h : c.rein.activeHost.contains i = true) :
    ∃ p q, hostEoi c i
      = { c with rein := { c.rein with activeHost := removeNat c.rein.activeHost i, pendingCore := p, pendingHost := q } } := by
  obtain ⟨p, q, hsettle⟩ := settleLevel_frame { c with rein := { c.rein with activeHost := removeNat c.rein.activeHost i } } i
  refine ⟨p, q, ?_⟩
  simp only [hostEoi, h, Bool.not_true, Bool.false_eq_true, if_false, hsettle]

theorem hostEoi_spurious {c : Chip} {i : Nat} (h : c.rein.activeHost.contains i = false) : hostEoi c i = spuriousEoi c := by
  simp only [hostEoi, h, Bool.not_false, if_true]

theorem exec_rnHostEoi {s : State} (h : hostReaches s 0 = true) (i : Nat) :
    exec (.rnHostEoi i) s = .next (afterAccess s (fun c _ => hostEoi c i)) := by
  simp only [exec, execRnHostEoi, hostChip_eq _ _ _ h]

/-- Settles O18: an unmask is the message of the vector without its mask; a message takes its sources out of the pending set; a completion
ends the active state, or counts. -/
theorem hostPathDelivers : Obligations.HostPathDelivers := by
  refine ⟨fun s fn v h hv henable hfn hlink => ⟨fun hwait => ?unmask, fun hnone => ?silent⟩,
    fun s fn v hon hpresent hv henable hfn hopen hwait hlink => ?message, fun s i h => ⟨fun hactive => ?done, fun hidle => ?spurious⟩⟩
  case unmask =>
    have hwait' : waitingOn (opened s.chip fn v) fn v ≠ [] := by rwa [opened, waitingOn_setMsix]
    obtain ⟨a, hsend⟩ := sendMsix_sends hwait' hv (by rwa [opened, tenantOf_setMsix]) (by rwa [opened, tenantOf_setMsix])
      (by rw [opened, msixOf_setMsix]) hlink
    refine ⟨_, exec_vectorUnmask h v, ?_⟩
    rw [afterAccess_chip, unmaskVector_eq hv, hsend]
    refine ⟨?_, fun i hi => contains_served (c := opened s.chip fn v) ?_, ?_⟩
    · simp only [opened, msixOf_setMsix]; rfl
    · rwa [opened, waitingOn_setMsix]
    · exact congrArg MsixEntry.masked (msixOf_setMsix _ _ _ _)
  case silent =>
    refine ⟨_, exec_vectorUnmask h v, ?_⟩
    rw [afterAccess_chip, unmaskVector_eq hv, sendMsix_none (by rwa [opened, waitingOn_setMsix])]
    exact ⟨rfl, congrArg MsixEntry.masked (msixOf_setMsix _ _ _ _)⟩
  case message =>
    obtain ⟨a, hsend⟩ := sendMsix_sends hwait hv henable hfn hopen hlink
    refine ⟨_, exec_msiXMessage hon hpresent v, ?_⟩
    rw [onChip_chip, hsend]
    exact ⟨rfl, fun i hi => contains_served hi⟩
  case done =>
    obtain ⟨p, q, hdone⟩ := hostEoi_active hactive
    refine ⟨_, exec_rnHostEoi h i, ?_⟩
    rw [afterAccess_chip, hdone]
    exact ⟨contains_removeNat_self _ _, rfl⟩
  case spurious =>
    refine ⟨_, exec_rnHostEoi h i, ?_⟩
    rw [afterAccess_chip, hostEoi_spurious hidle, spuriousEoi_eq]

end Sys2Proof.Machine
end

section
/-! PROOFS. Sensing and the core path (12 R364 to R371): an occurrence on a pin touches pending sets, the beat domain's edges and the freeze, so
neither it nor a wake moves a source's owner or configuration; a delivery and its completion are the two ends of one stack. -/

namespace Sys2Proof.Machine

/-! ### Occurrences on a pin -/

/-- An occurrence latches in the pending sets alone. -/
theorem raiseSource_pending (c : Chip) (i : Nat) :
    ∃ p q, raiseSource c i = { c with rein := { c.rein with pendingCore := p, pendingHost := q } } := by
  simp only [raiseSource, pendCore, pendHost]
  split
  case isTrue => exact ⟨c.rein.pendingCore, c.rein.pendingHost, rfl⟩
  case isFalse => split <;> split <;> exact ⟨_, _, rfl⟩

theorem sendFrames_frame (f : Fabric) (chan : Nat) (body : Nat → Output) (ports : List Nat) (c : Chip) :
    ∃ o n l, ports.foldl (fun c p => sendFrame c f p chan (body p) none) c = { c with out := o, free := n, links := l } := by
  induction ports generalizing c with
  | nil => exact ⟨c.out, c.free, c.links, rfl⟩
  | cons p r ih =>
    obtain ⟨o, n, l, hhead⟩ := sendFrame_frame c f p chan (body p) none
    obtain ⟨o', n', l', htail⟩ := ih { c with out := o, free := n, links := l }
    exact ⟨o', n', l', by rw [List.foldl_cons, hhead, htail]⟩

theorem sendFreeze_frame (c : Chip) (f : Fabric) (ports : List Nat) (tf : Nat) (id slice : W16) :
    ∃ k o n l, sendFreeze c f ports tf id slice = { c with counters := k, out := o, free := n, links := l } := by
  simp only [sendFreeze]
  split
  case isTrue => exact ⟨c.counters, c.out, c.free, c.links, rfl⟩
  case isFalse =>
    obtain ⟨o, n, l, hsent⟩ := sendFrames_frame f 2 (fun p => .freezeFrame p tf id slice) ports c
    exact ⟨_, o, n, l, by rw [hsent]⟩

theorem originate_frame (c : Chip) (e : Env) (tf source : Nat) (bcast : Bool) :
    ∃ k o n l, originate c e tf source bcast = { c with counters := k, out := o, free := n, links := l } := by
  simp only [originate]
  split
  case isTrue =>
    obtain ⟨k, o, n, l, hsent⟩ := sendFreeze_frame _ e.fabric (upPorts e.fabric) tf _ _
    exact ⟨k, o, n, l, hsent⟩
  case isFalse => exact ⟨_, c.out, c.free, c.links, rfl⟩

/-- A trigger touches the freeze and the frames that tell of it. -/
theorem triggerFreeze_frame (c : Chip) (e : Env) (tf source : Nat) (bcast : Bool) :
    ∃ k o n l, triggerFreeze c e tf source bcast = { c with counters := k, out := o, free := n, links := l } := by
  simp only [triggerFreeze]
  split
  case isTrue => exact ⟨_, c.out, c.free, c.links, rfl⟩
  case isFalse =>
    split
    · exact originate_frame _ _ _ _ _
    · split
      · exact originate_frame _ _ _ _ _
      · exact ⟨_, c.out, c.free, c.links, rfl⟩

theorem pinOccurrence_frame (c : Chip) (e : Env) (i t : Nat) (beat : Bool) :
    ∃ p q x k o n l, pinOccurrence c e i t beat
      = { c with rein := { c.rein with pendingCore := p, pendingHost := q, edges := x }, counters := k, out := o, free := n, links := l } := by
  obtain ⟨p, q, hraised⟩ : ∃ p q, (if (srcCfg c i).sense ≤ 1 then settleLevel c i else raiseSource c i)
      = { c with rein := { c.rein with pendingCore := p, pendingHost := q } } := by
    split
    · exact settleLevel_frame c i
    · exact raiseSource_pending c i
  simp only [pinOccurrence, hraised]
  obtain ⟨x, hedge⟩ : ∃ x, (if (i == 5 && beat && e.beats.any (fun b => b.2.ext)) = true then
        { c with rein := { c.rein with pendingCore := p, pendingHost := q, edges := c.rein.edges ++ [t] } }
      else { c with rein := { c.rein with pendingCore := p, pendingHost := q } })
      = { c with rein := { c.rein with pendingCore := p, pendingHost := q, edges := x } } := by
    split
    · exact ⟨_, rfl⟩
    · exact ⟨c.rein.edges, rfl⟩
  rw [hedge]
  split
  case isTrue =>
    obtain ⟨k, o, n, l, hfreeze⟩ := triggerFreeze_frame
      { c with rein := { c.rein with pendingCore := p, pendingHost := q, edges := x } } e (t + 50000) 1 c.counters.pinBroadcast
    exact ⟨p, q, x, k, o, n, l, hfreeze⟩
  case isFalse => exact ⟨p, q, x, c.counters, c.out, c.free, c.links, rfl⟩

/-! ### The accepted level -/

theorem contains_levels_setLevel (c : Chip) (i : Nat) (level : Bool) : (setLevel c i level).rein.levels.contains i = level := by
  cases level with
  | true => exact contains_insertNat_self _ _
  | false => exact contains_removeNat_self _ _

/-- An accepted change takes the level, whatever occurs with it. -/
theorem acceptChange_kept (c : Chip) (e : Env) (i : Nat) (level : Bool) (t : Nat) (beat : Bool) :
    (acceptChange c e i level t beat).rein.levels.contains i = level ∧ (acceptChange c e i level t beat).memory = c.memory := by
  simp only [acceptChange]
  split
  case isTrue =>
    obtain ⟨p, q, x, k, o, n, l, hoccurs⟩ := pinOccurrence_frame (countFrom (setLevel c i level) i t) e i t beat
    rw [hoccurs]
    exact ⟨contains_levels_setLevel c i level, rfl⟩
  case isFalse =>
    obtain ⟨p, q, hsettle⟩ := settleLevel_frame (countFrom (setLevel c i level) i t) i
    rw [hsettle]
    exact ⟨contains_levels_setLevel c i level, rfl⟩

theorem exec_filterAccept {s : State} {i t : Nat} {level : Bool} (hsense : sensing s = true) (hpin : isPin i = true)
    (hnew : s.chip.rein.levels.contains i ≠ level) (hheld : held s.chip i t = true) :
    exec (.filterAccept i level t) s = .next (onChip s (fun c e => acceptChange c e i level t true)) := by
  have hgo : (sensing s && isPin i && s.chip.rein.levels.contains i != level && held s.chip i t) = true := by
    rw [hsense, hpin, bne_iff_ne.2 hnew, hheld]; rfl
  simp only [exec, execFilterAccept, hgo, if_true]

/-! ### A wake -/

/-- Memory, queues, and whose a source is and what it does: no wake changes them. -/
def enrolled (c : Chip) : Memory × Tab Queue × Tab SrcCfg × Tab Nat := (c.memory, c.queues, c.rein.cfg, c.rein.groups)

theorem enrolled_eq_iff {c d : Chip} :
    enrolled d = enrolled c ↔ d.memory = c.memory ∧ d.queues = c.queues ∧ d.rein.cfg = c.rein.cfg ∧ d.rein.groups = c.rein.groups := by
  simp only [enrolled, Prod.mk.injEq]

theorem enrolled_foldl {α : Type} {f : Chip → α → Chip} (hf : ∀ c x, enrolled (f c x) = enrolled c) (l : List α) (c : Chip) :
    enrolled (l.foldl f c) = enrolled c := by
  induction l generalizing c with
  | nil => rfl
  | cons x r ih => rw [List.foldl_cons, ih, hf]

theorem enrolled_settleLevel (c : Chip) (i : Nat) : enrolled (settleLevel c i) = enrolled c := by
  obtain ⟨p, q, h⟩ := settleLevel_frame c i
  rw [h]
  rfl

theorem enrolled_pinOccurrence (c : Chip) (e : Env) (i t : Nat) (beat : Bool) : enrolled (pinOccurrence c e i t beat) = enrolled c := by
  obtain ⟨p, q, x, k, o, n, l, h⟩ := pinOccurrence_frame c e i t beat
  rw [h]
  rfl

theorem enrolled_restartSensing (s : State) (levels : Option (List Nat)) : enrolled (restartSensing s levels).chip = enrolled s.chip := by
  have latches (c : Chip) : enrolled { c with rein := { c.rein with latches := [] } } = enrolled c := rfl
  rw [restartSensing, onChip_chip]
  refine (enrolled_foldl (fun c p => ?occurs) _ _).trans ((latches _).trans ((enrolled_foldl (fun c p => ?samples) _ _).trans ?drawn))
  case occurs => exact enrolled_pinOccurrence _ _ _ _ _
  case samples => exact enrolled_settleLevel _ _
  case drawn => split <;> rfl

theorem enrolled_ungated (s : State) : enrolled (ungated s).chip = enrolled s.chip := by
  by_cases hdoze : s.halter.power = .doze
  · simp only [ungated, wake, hdoze, beq_self_eq_true, if_true]
    exact enrolled_restartSensing _ _
  · simp only [ungated, beq_iff_eq, hdoze, if_false]

theorem srcCfg_of_enrolled {c d : Chip} (h : enrolled d = enrolled c) (i : Nat) : srcCfg d i = srcCfg c i := by
  obtain ⟨-, -, hcfg, -⟩ := enrolled_eq_iff.1 h
  rw [srcCfg, srcCfg, hcfg]

theorem srcOwner_of_enrolled {c d : Chip} (h : enrolled d = enrolled c) (i : Nat) : srcOwner d i = srcOwner c i := by
  obtain ⟨-, -, -, hgroups⟩ := enrolled_eq_iff.1 h
  rw [srcOwner, srcOwner, hgroups]

/-! ### Occurrences on an event source -/

theorem raiseSource_owned {c : Chip} {i : Nat} (howner : (srcOwner c i).isSome = true) :
    ((srcCfg c i).coreEn = true → (raiseSource c i).rein.pendingCore.contains i = true)
      ∧ ((srcCfg c i).hostEn = true → (raiseSource c i).rein.pendingHost.contains i = true) := by
  have howned : ¬ (srcOwner c i).isNone = true := by simp [Option.isSome_iff_ne_none.1 howner]
  refine ⟨fun hcore => ?_, fun hhost => ?_⟩
  · simp only [raiseSource, if_neg howned, if_pos hcore]
    split <;> exact contains_insertNat_self _ _
  · simp only [raiseSource, if_neg howned, if_pos hhost]
    exact contains_insertNat_self _ _

theorem exec_sourceEvent {s : State} {i : Nat} (hon : s.chip.dev ≠ .off) (hevent : isPin i = false) (hi : i < 2048) :
    exec (.sourceEvent i) s = .next (onChip (ungated s) (fun c _ => raiseSource c i)) := by
  have hgo : (s.chip.dev != .off && !isPin i && decide (i < 2048)) = true := by simp [hon, hevent, hi]
  simp only [exec, execSourceEvent, hgo, if_true]

/-! ### Delivery to a core and its completion -/

theorem stack_of_cores {c : Chip} {t : Tab ReinCore} {k : Nat} {x : ReinCore} {ps : List Nat}
    (h : c.rein.cores = tset t k { x with stack := ps }) : (coreOf c k).stack = ps := by
  rw [coreOf, h, tget_tset_same, Option.getD_some]

/-- The core's entry to source i: its priority goes on the stack, and the source is active there. -/
def entered (c : Chip) (i k : Nat) (tie : Bool) : Rein :=
  { c.rein with
      pendingCore := removeNat c.rein.pendingCore i,
      cores := tset c.rein.cores k { coreOf c k with stack := (srcCfg c i).priority :: (coreOf c k).stack },
      activeCore := tset c.rein.activeCore i k,
      rotate := if tie then (k + 1) % 8 else c.rein.rotate }

/-- The only pending source goes first. -/
theorem deliverCore_single {c : Chip} {i k : Nat} {tie : Bool} (hpend : c.rein.pendingCore = [i]) (hready : coreReady c i = true)
    (hcore : chooseCore c (srcCfg c i) = some (k, tie)) :
    deliverCore c i = { c with rein := entered c i k tie, out := c.out ++
      [.coreVector k ((coreOf c k).vbase + BitVec.ofNat 32 (32 * (srcCfg c i).coreVector))] } := by
  have hgo : (!c.rein.pendingCore.contains i || !coreReady c i
      || c.rein.pendingCore.any (fun b => b != i && coreReady c b && coreBefore c b i)) = false := by simp [hpend, hready]
  simp only [deliverCore, hgo, Bool.false_eq_true, if_false, hcore]
  rfl

theorem exec_coreDelivery {s : State} (hgap : inGap s.farrier = false) (hon : s.chip.dev ≠ .off) (i : Nat) :
    exec (.coreDelivery i) s = .next (onChip s (fun c _ => deliverCore c i)) := by
  have hgo : ((envOf s).gap || s.chip.dev == .off) = false := by simp [envOf, hgap, hon]
  simp only [exec, execCoreDelivery, onChip, hgo, Bool.false_eq_true, if_false]

/-- A completion takes the core's innermost priority; the level may make the source pending anew. -/
theorem coreDone_active {c : Chip} {k i : Nat} (h : tget c.rein.activeCore i = some k) :
    ∃ p q, coreDone c k i = { c with rein := { c.rein with
        activeCore := terase c.rein.activeCore i,
        cores := tset c.rein.cores k { coreOf c k with stack := (coreOf c k).stack.drop 1 }, pendingCore := p, pendingHost := q } } := by
  obtain ⟨p, q, hsettle⟩ := settleLevel_frame
    (setCore { c with rein := { c.rein with activeCore := terase c.rein.activeCore i } } k { coreOf c k with stack := (coreOf c k).stack.drop 1 }) i
  refine ⟨p, q, ?_⟩
  simp only [coreDone, h, bne_self_eq_false, Bool.false_eq_true, if_false, hsettle]
  rfl

theorem coreDone_spurious {c : Chip} {k i : Nat} (h : tget c.rein.activeCore i ≠ some k) : coreDone c k i = spuriousEoi c := by
  simp only [coreDone, bne_iff_ne.2 h, if_true]

theorem exec_coreEoi {s : State} {k : Nat} (hon : s.chip.dev ≠ .off) (hk : k < 8) (i : Nat) :
    exec (.coreEoi k i) s = .next (onChip s (fun c _ => coreDone c k i)) := by
  have hgo : (s.chip.dev == .off || decide (8 ≤ k)) = false := by simp [hon, hk]
  simp only [exec, execCoreEoi, onChip, hgo, Bool.false_eq_true, if_false]

/-- Settles O41: no occurrence moves an accepted level, and no wake the owner or the paths of a source; the only pending source goes to the
core that is chosen; a completion pops what the delivery pushed. -/
theorem corePathDelivers : Obligations.CorePathDelivers := by
  refine ⟨fun s i t level hsense hpin hnew hheld => ?accepts, fun s i hon hevent hi howner => ?occurs,
    fun s i k tie hgap hon hpend hready hcore => ?delivers, fun s k i hon hk => ⟨fun hactive => ?done, fun hidle => ?spurious⟩⟩
  case accepts =>
    obtain ⟨hlevel, hmemory⟩ := acceptChange_kept s.chip (envOf s) i level t true
    exact ⟨_, exec_filterAccept hsense hpin hnew hheld, hlevel, hmemory, rfl⟩
  case occurs =>
    have hwake := enrolled_ungated s
    obtain ⟨hmemory, hqueues, -, -⟩ := enrolled_eq_iff.1 hwake
    have hpends := raiseSource_owned (c := (ungated s).chip) (i := i) (by rwa [srcOwner_of_enrolled hwake])
    rw [srcCfg_of_enrolled hwake] at hpends
    obtain ⟨hcore, hhost⟩ := hpends
    refine ⟨_, exec_sourceEvent hon hevent hi, hcore, hhost, ?_, ?_⟩
    · rw [onChip_chip, raiseSource_memory, hmemory]
    · rw [onChip_chip, raiseSource_queues, hqueues]
  case delivers =>
    refine ⟨_, exec_coreDelivery hgap hon i, ?_⟩
    rw [onChip_chip, deliverCore_single hpend hready hcore]
    refine ⟨?_, tget_tset_same _ _ _, stack_of_cores rfl, rfl⟩
    simp [entered, hpend, removeNat]
  case done =>
    obtain ⟨p, q, hdone⟩ := coreDone_active hactive
    refine ⟨_, exec_coreEoi hon hk i, ?_⟩
    rw [onChip_chip, hdone]
    exact ⟨tget_terase_same _ _, stack_of_cores rfl, rfl⟩
  case spurious =>
    refine ⟨_, exec_coreEoi hon hk i, ?_⟩
    rw [onChip_chip, coreDone_spurious hidle, spuriousEoi_eq]

end Sys2Proof.Machine
end
